-- ==== Sys2Proof/Word.lean ====
section
/-! DEFINITION. The word types of the device: bytes and little-endian words (R4), and the plane and lane numbers of R7. -/
namespace Sys2Proof

/-- A byte. -/
abbrev Byte := BitVec 8
/-- A 16-bit field; also an E8M7 or E5M10 code (R26). -/
abbrev W16 := BitVec 16
/-- A 32-bit field or register; also an FP32 bit pattern (R26). -/
abbrev W32 := BitVec 32
/-- A 64-bit field, counter or address. -/
abbrev W64 := BitVec 64
/-- A plane number, 0 to 7 (R7). -/
abbrev PlaneIx := Fin 8
/-- A fabric lane within a plane, 0 to 15 (R7). -/
abbrev LaneIx := Fin 16
/-- A fabric lane within the device: plane times 16 plus lane (R7). -/
abbrev DevLane := Fin 128

end Sys2Proof
end

