-- ==== Sys2Proof/Machine/Bytes.lean ====
section
/-! DEFINITION. Little-endian fields (R4), byte-list helpers, saturating counters, and the CRC-32C of R176. -/
namespace Sys2Proof.Machine

/-- The `n` low bytes of `v`, least significant first (R4). -/
def leBytes : Nat → Nat → List Byte
  | 0, _ => []
  | n + 1, v => BitVec.ofNat 8 v :: leBytes n (v / 256)

/-- The value of little-endian bytes (R4). -/
def leNat : List Byte → Nat
  | [] => 0
  | b :: bs => b.toNat + 256 * leNat bs

/-- `n` zero bytes. -/
def zeros (n : Nat) : List Byte := List.replicate n 0

/-- Exactly `n` bytes: cut or padded with zeros. -/
def fixLen (n : Nat) (bs : List Byte) : List Byte := (bs ++ zeros (n - bs.length)).take n

/-- The bytes at `[off, off + n)`, zero where the list ends. -/
def slice (bs : List Byte) (off n : Nat) : List Byte := fixLen n (bs.drop off)

/-- The little-endian field of `n` bytes at `off`. -/
def fieldAt (bs : List Byte) (off n : Nat) : Nat := leNat (slice bs off n)

/-- Every byte is zero. -/
def allZero (bs : List Byte) : Bool := bs.all (· == 0)

/-- Padding with zero bytes to a multiple of 4 (R285). -/
def pad4 (bs : List Byte) : List Byte := bs ++ zeros ((4 - bs.length % 4) % 4)

/-- A payload padded with zero bytes to a multiple of 64 (R50, R169). -/
def pad64 (bs : List Byte) : List Byte := bs ++ zeros ((64 - bs.length % 64) % 64)

/-- The signed value of an `n`-bit two's complement field. -/
def signed (n v : Nat) : Int := if v < 2 ^ (n - 1) then (v : Int) else (v : Int) - 2 ^ n

/-- The `n`-byte two's complement code of an integer. -/
def leInt (n : Nat) (v : Int) : List Byte := leBytes n (v % (256 ^ n : Int)).toNat

/-- Addition that saturates at `2 ^ bits - 1`. -/
def satAdd (bits a b : Nat) : Nat := min (a + b) (2 ^ bits - 1)

/-- Bit `i` of a mask. -/
def hasBit (m i : Nat) : Bool := m.testBit i

/-- The bits of a mask below `n`, ascending. -/
def maskList (n m : Nat) : List Nat := (List.range n).filter (hasBit m)

/-- The mask of a list of bit numbers. -/
def listMask (l : List Nat) : Nat := l.foldl (fun m i => m ||| 2 ^ i) 0

/-- Consecutive pieces of at most `n` entries, by fuel. -/
def chunksFuel {α : Type} (n : Nat) : Nat → List α → List (List α)
  | 0, _ => []
  | _, [] => []
  | k + 1, l => l.take n :: chunksFuel n k (l.drop n)

/-- Consecutive pieces of at most `n` entries. -/
def chunksOf {α : Type} (n : Nat) (l : List α) : List (List α) := chunksFuel n l.length l

/-- One bit of the reflected CRC-32C division. -/
def crcBit (c : Nat) : Nat := if c % 2 = 1 then (c / 2) ^^^ 0x82F63B78 else c / 2

/-- One byte of the CRC-32C. -/
def crcByte (c : Nat) (b : Byte) : Nat :=
  crcBit (crcBit (crcBit (crcBit (crcBit (crcBit (crcBit (crcBit (c ^^^ b.toNat))))))))

/-- The CRC-32C of bytes (R176; RFC 3720). -/
def crc32c (bs : List Byte) : Nat := bs.foldl crcByte 0xFFFFFFFF ^^^ 0xFFFFFFFF

/-- The CRC as it is sent: R176 computes and orders it as RFC 3720 does, least significant byte first (PRESUMED,
notes/assumptions 10). -/
def crcBytes (bs : List Byte) : List Byte := leBytes 4 (crc32c bs)

/-- Counters of a named set: a counter not listed reads 0. -/
def ctrGet {α : Type} [BEq α] (cs : List (α × Nat)) (c : α) : Nat := (cs.lookup c).getD 0

/-- Sets a counter; 0 removes its entry. -/
def ctrSet {α : Type} [BEq α] (cs : List (α × Nat)) (c : α) (v : Nat) : List (α × Nat) :=
  let rest := cs.filter (fun p => !(p.1 == c))
  if v = 0 then rest else (c, v) :: rest

/-- Adds to a 32-bit saturating counter (R68, R123, R139, R156, R163, R179, R211, R234, R279). -/
def ctrAdd {α : Type} [BEq α] (cs : List (α × Nat)) (c : α) (n : Nat) : List (α × Nat) :=
  ctrSet cs c (satAdd 32 (ctrGet cs c) n)

/-- Adds to a 64-bit counter (R211). -/
def ctrAdd64 {α : Type} [BEq α] (cs : List (α × Nat)) (c : α) (n : Nat) : List (α × Nat) :=
  ctrSet cs c (satAdd 64 (ctrGet cs c) n)

/-- Raises a 32-bit high-water mark. -/
def ctrMax {α : Type} [BEq α] (cs : List (α × Nat)) (c : α) (n : Nat) : List (α × Nat) :=
  ctrSet cs c (max (ctrGet cs c) (min n (2 ^ 32 - 1)))

end Sys2Proof.Machine
end

