-- ==== Sys2Proof/Syntax.lean ====
section
/-! DEFINITION. The commands and events of the block: one constructor per row of spec/opcode_table.json, with the
operands that arrive from outside (a packet, a frame, a lane, a reading). -/
namespace Sys2Proof

/-- A command packet of R284, as the dispatcher copied it: the header fields and the parameter bytes (without `PCRC`). -/
structure Packet where
  opcode : W16
  flags  : W16
  len    : Nat
  job    : Nat
  pmask  : Byte
  tag    : W32
  params : List Byte
deriving DecidableEq, Repr, Inhabited

/-- What the lane layer decoded while a frame arrived (R215, R217, R218, R234): codewords corrected, symbols corrected,
codewords of the frame that could not be corrected, `IDLE` blocks deleted, and between this frame and the one before codewords that could
not be corrected (`gap`) and bad blocks dropped (`blk`). -/
structure FecInfo where
  cor  : Nat := 0
  sym  : Nat := 0
  unc  : Nat := 0
  idle : Nat := 0
  gap  : Nat := 0
  blk  : Nat := 0
deriving DecidableEq, Repr, Inhabited

/-- A physical disturbance of one 32-bit word of a check item (R240, R241): exclusive-OR masks on what the primary, the
check and the third computation give for that word.  Zero masks are a healthy unit. -/
structure WordFault where
  word    : Nat
  primary : W32
  check   : W32
  third   : W32
deriving DecidableEq, Repr, Inhabited

/-- Parity failures of the control structures a step touches (R236). -/
inductive CtlFault
  | none
  /-- One copy of duplicated structure `n` (0 shard table, 1 job records, 2 synchronisation values) fails parity. -/
  | oneCopy (n : Nat)
  /-- Both copies of duplicated structure `n` fail parity. -/
  | bothCopies (n : Nat)
  /-- The bucket state of the item fails parity. -/
  | bucketState
  /-- The word of the job counter at position `n` of the counter sets 1 to 6 of R297 fails parity. -/
  | counter (n : Nat)
  /-- The word of a lane's counter, at position `n` of the lane counters of R297, fails parity. -/
  | laneCounter (lane : LaneIx) (n : Nat)
  /-- The word of a plane counter, at position `n` of the plane counters of R297, fails parity. -/
  | planeCounter (n : Nat)
  /-- A lane's `DRRTURN` word of the item's job fails parity. -/
  | drrTurn (lane : LaneIx)
  /-- A lane's shaper bucket fails parity. -/
  | shaper (lane : LaneIx)
  /-- The record at position `n` of the plane's error log fails parity. -/
  | logRecord (n : Nat)
  /-- The entry at position `n` of the plane's held frames fails parity. -/
  | heldEntry (n : Nat)
  /-- The byte parity of a word that is read from the indicative copy of a bucket's share, for a gather, digest or checkpoint, fails in
  `fails` reads (1 or 2); `index` is its 64 KiB region. -/
  | shardWord (bucket index fails : Nat)
deriving DecidableEq, Repr, Inhabited

/-- The physical conditions of one unit of arithmetic work: the disturbed words, how many reads of its stored input
failed byte parity (0, 1 or 2, R63, R244), where that word lies (R247), and control parity (R236). -/
structure ItemFault where
  words   : List WordFault := []
  parity  : Nat := 0
  index   : Nat := 0
  mask    : W32 := 0
  ctl     : CtlFault := .none
  /-- How many reads of a running sum failed parity as the comma work of R65 read the sums (R63). -/
  comma   : Nat := 0
  /-- How many reads of a retained result failed parity as it was read for its first delivery (R137, R244). -/
  result : Nat := 0
  /-- A second run of a rescaling share left a word unresolved again (R243). -/
  rerunUnresolved : Bool := false
deriving DecidableEq, Repr, Inhabited

/-- What one run of a test segment brought (R254, R256): the folded signature, the round-ups of each vector lane's generator, or whether a march
or read-back test found what it wrote. -/
inductive SegRun
  | folded (signature : BitVec 128)
  | roundUps (counts : List Nat)
  | march (ok : Bool)
deriving DecidableEq, Repr, Inhabited

/-- A 10-bit symbol of the lane's Reed–Solomon code (R215). -/
abbrev LineSym := BitVec 10

/-- A 66-bit block: its sync header and its payload (R215). -/
structure Block66 where
  sync    : BitVec 2
  payload : W64
deriving DecidableEq, Repr, Inhabited

/-- A frame as it comes off the fibre: the codewords that carried it, and the descrambler's register before them (R215). -/
structure LineRx where
  words : List (List LineSym)
  descr : BitVec 58 := 0
deriving DecidableEq, Repr, Inhabited

/-- What a stage finds when it reads a frame again from the frame buffer, a queue or a held list: its bytes and its list entry good, a
byte's parity failing at the cell, overflow entry or unit `index` with the failing bytes `mask` (R177, R246), or its list entry's parity failing
(R236). -/
inductive StoredFault
  | none
  | bytes (index : Nat) (mask : W32)
  | entry
deriving DecidableEq, Repr, Inhabited

/-- A frame as a receiver hands it to the ingress parser: the bytes between the delimiters with the trailer last (R169,
R217), whether an end delimiter came within 8,228 bytes, and whether every byte's parity held (R177, R178); or, with `line`, the codewords
that carried it, from which all of these follow.  `later` is what a stage that reads the stored frame later finds, and `work` holds the
physical conditions of the work that handling it does at once. -/
structure RxFrame where
  bytes    : List Byte
  endSeen  : Bool := true
  parityOk : Bool := true
  fec      : FecInfo := {}
  line     : Option LineRx := none
  later    : StoredFault := .none
  work     : ItemFault := {}
deriving DecidableEq, Repr, Inhabited

/-- The bytes 1 to 4 of a received `TRAIN` block (R219), and the errored PRBS blocks received while training since the last event
(R220, R234). -/
structure TrainInfo where
  b1   : Byte
  b2   : Byte
  b3   : Byte
  b4   : Byte
  errs : Nat := 0
deriving DecidableEq, Repr, Inhabited

/-- What the leaked-buffer detector finds at the cell or entry it audits (R182). -/
inductive AuditFinding
  | clean
  /-- Allocated to `job`, but no descriptor, hold or queue entry references it. -/
  | unreferenced (job : Nat)
  /-- On the free list and referenced. -/
  | freeAndHeld
deriving DecidableEq, Repr, Inhabited

/-- A reset source of R336, numbered by `RSTCAUSE` (R355). -/
inductive ResetSource
  | power | rstIn | perst | watchdog | tripRelease
deriving DecidableEq, Repr, Inhabited

/-- An SMBus transfer addressed to the device's bus: the command code, the board index strap's pins at that moment and the 7-bit address on
the wire (R334, R338), and whether the read-back of `ALERT_OUT#` finds the pin low (R339). -/
structure SmbusTarget where
  code  : Byte
  strap : BitVec 3 := 0
  addr  : BitVec 7 := 0x50
  alertLow : Bool := true
deriving DecidableEq, Repr, Inhabited

/-- Which 64-bit counter a BAR0 counter read names (R364). -/
inductive CounterSel
  | plane (k : PlaneIx)
  | host
deriving DecidableEq, Repr, Inhabited

/-- The part of a 64-bit register that a 4-byte or 8-byte access touches (R351). -/
inductive RegPart
  | lower | upper | whole
deriving DecidableEq, Repr, Inhabited

/-- The commands and events: one constructor per row of spec/opcode_table.json, in its order. -/
inductive Instr
  -- host port (13_command_interface, 16_registers)
  | apertureWrite (off : BitVec 20) (data : List Byte)
  | packetTake
  | replyWrite (report : Bool)
  | raenEnable (enables : BitVec 3)
  | raenDisable (enables : BitVec 3)
  | interruptEnableWrite (enables : BitVec 3)
  | rabaseWrite (part : RegPart) (value : W64)
  | rasizeWrite (value : W32)
  | ratailWrite (value : W32)
  | errsumClear (value : W32)
  | carestartClear (value : W32)
  | msixVectorUnmask (v : Fin 3)
  | counterLowerRead (c : CounterSel)
  | bar0Write (off : Nat) (size : Nat) (value : W64)
  | bar0MalformedRead (off : Nat) (size : Nat)
  -- the opcodes of R296 to R306, each with the packet the dispatcher executes
  | devInfo (p : Packet)
  | devStatus (p : Packet)
  | cntRead (p : Packet)
  | astatRead (p : Packet)
  | barrier (p : Packet)
  | jobDefine (p : Packet)
  | jobTable (p : Packet)
  | jobOpen (p : Packet)
  | jobStart (p : Packet)
  | jobClose (p : Packet)
  | jobCloseReleased (job : Nat)
  | jobQuery (p : Packet)
  | reclaim (p : Packet)
  | ckptRead (p : Packet)
  | ckptReadDone (job : Nat)
  | replSet (p : Packet)
  | logRead (p : Packet)
  | restoreBegin (p : Packet)
  | restoreReplay (p : Packet)
  | jobList (p : Packet)
  | groupReform (p : Packet)
  | memberFence (p : Packet)
  | syncAdd (p : Packet)
  | syncSet (p : Packet)
  | syncWait (p : Packet)
  | syncRead (p : Packet)
  | bucketQuery (p : Packet)
  | expandSet (p : Packet)
  | histRead (p : Packet)
  | optSet (p : Packet)
  | optRead (p : Packet)
  | precSet (p : Packet)
  | precRead (p : Packet)
  | stashQuery (p : Packet)
  | treeRead (p : Packet)
  | rateSet (p : Packet)
  | rateRead (p : Packet)
  | shapeSet (p : Packet)
  | shapeRead (p : Packet)
  | gatePhase (p : Packet)
  | gateRead (p : Packet)
  | laneStatus (p : Packet)
  | laneEq (p : Packet)
  | laneHold (p : Packet)
  | laneRelease (p : Packet)
  | laneDormant (p : Packet)
  | laneWake (p : Packet)
  | laneDisable (p : Packet)
  | laneEnable (p : Packet)
  | laneFwd (p : Packet)
  | boardQuery (p : Packet)
  | errlogRead (p : Packet)
  | obsSet (p : Packet)
  | obsRead (p : Packet)
  | testRun (p : Packet)
  | fwQuery (p : Packet)
  | fwLoad (p : Packet)
  | fwCommit (p : Packet)
  | fwCommitProgramDone
  | attest (p : Packet)
  | manifestRead (p : Packet)
  | calRead (p : Packet)
  | calWrite (p : Packet)
  | calWriteDone
  -- frames and the fabric (08_fabric_frames)
  | gradFrame (lane : DevLane) (f : RxFrame)
  | partialFrame (lane : DevLane) (f : RxFrame)
  | doneFrame (lane : DevLane) (f : RxFrame)
  | peerFrameReplicate (lane : DevLane) (f : RxFrame)
  | loadFrame (lane : DevLane) (f : RxFrame)
  | greqFrame (lane : DevLane) (f : RxFrame)
  | gatherWindowExpiry (k : PlaneIx) (job layer : Nat)
  | ackFrame (lane : DevLane) (f : RxFrame)
  | rdreqFrame (lane : DevLane) (f : RxFrame) (parityFails : Nat)
  | noticeCopyFrame (lane : DevLane) (f : RxFrame)
  | noticeCopyTimeout (k : PlaneIx) (job srcDev : Nat)
  | syncFrame (lane : DevLane) (f : RxFrame)
  | descFrame (lane : DevLane) (f : RxFrame)
  | ckptFrame (lane : DevLane) (f : RxFrame)
  | sreadFrame (lane : DevLane) (f : RxFrame)
  | digestFrame (lane : DevLane) (f : RxFrame)
  | digestCompareTimeout (k : PlaneIx) (job bucket : Nat)
  | memberDigestJudge (k : PlaneIx) (job : Nat)
  | normFrame (lane : DevLane) (f : RxFrame)
  | jdigFrame (lane : DevLane) (f : RxFrame)
  -- reduction, kernels and the full stop
  | chunkSetDone (k : PlaneIx) (flt : ItemFault)
  | bucketTimerExpiry (k : PlaneIx) (job bucket pass : Nat)
  | kernelRun (k : PlaneIx) (flt : ItemFault)
  | earlyPublication (k : PlaneIx) (job bucket : Nat)
  | rootRefreshDone (k : PlaneIx) (job : Nat) (flt : ItemFault)
  | scalarPair (k : PlaneIx) (totalFault flagFault : Nat)
  | combinedScalars (k : PlaneIx)
  | commitDone (k : PlaneIx) (job : Nat)
  | rescaleDone (k : PlaneIx) (job : Nat) (flt : ItemFault)
  | discardDone (k : PlaneIx) (job : Nat)
  | drainComplete (k : PlaneIx) (job : Nat)
  | scalarFenceOrder (k : PlaneIx)
  | reclaimDeadline (job : Nat)
  | ringFenceHoldExpiry (job : Nat)
  | ckholdExpiry (job : Nat)
  | commandApplyPoint (k : PlaneIx) (job : Nat)
  | memberFenceApply (k : PlaneIx) (job : Nat)
  | resultRetentionAdmit (k : PlaneIx)
  | ackTimeout (k : PlaneIx) (job bucket member : Nat)
  | syncWaitTimeout (k : PlaneIx) (wait : Nat)
  -- queues, traffic control, buffers
  | creditReturn (k : PlaneIx) (queue : Fin 8) (lane : LaneIx) (parityBad : Bool)
  | egressSelect (lane : DevLane)
  | refill (k : PlaneIx) (parityBadJob : Option Nat)
  | gateWindowOpen (k : PlaneIx)
  | gateWindowClose (k : PlaneIx)
  | gateCycleStart (k : PlaneIx)
  | bufferAudit (k : PlaneIx) (cell : Nat) (finding : AuditFinding)
  -- checking and recovery
  | testDue (k : PlaneIx) (block : Nat)
  | testSegmentDone (k : PlaneIx) (block : Nat) (run1 run2 : SegRun) (unit : Nat)
  | testOverdue (k : PlaneIx) (block : Nat)
  | watchdogExpiry (k : PlaneIx) (core : Fin 4)
  | planeRestartDone (k : PlaneIx)
  | deviceWatchdogExpiry
  -- optical lanes (10_optical_lanes)
  | lossOfLight (lane : DevLane)
  | receiveClockLoss (lane : DevLane)
  | fecLockLoss (lane : DevLane) (uncorrectable : Nat)
  | trainWhileUp (lane : DevLane) (t : TrainInfo)
  | dormantReceived (lane : DevLane)
  | transmitterFault (lane : DevLane)
  | engineControlFault (engine : Fin 16)
  | highLaserBias (lane : DevLane)
  | invalidBlock (lane : DevLane)
  | patternLock (lane : DevLane) (t : TrainInfo)
  | patternLockLost (lane : DevLane) (erroredBlocks : Nat)
  | readyTimerExpiry (lane : DevLane)
  | laneUp (lane : DevLane) (t : TrainInfo)
  | downHoldoffExpiry (lane : DevLane)
  | noechoTimeout (lane : DevLane)
  | polarityFlip (engine : Fin 16)
  | polarityFlipDone (engine : Fin 16) (lit : BitVec 8)
  | engineReevaluate (engine : Fin 16)
  | dormantWakeLight (lane : DevLane)
  -- module (15_module_electrical) and boot (14_boot_security_calibration)
  | inputPowerUp (millivolts : Nat)
  | planeRailTimeout (k : PlaneIx)
  | inputUndervoltage
  | inputOvervoltage (millivolts : Nat)
  | mateDetectOpen
  | inputFuseOpen
  | rstInAssert
  | perstAssert
  | resetRelease (source : ResetSource) (strap : BitVec 3) (refInGood : Bool)
  | rstOutRelease
  | bootEnd (svnFuseFails : Bool)
  | thermalTrip
  | throttleEvaluation (k : PlaneIx) (dieTemp hbmTemp : Int) (vcore : Nat)
  | powerCapEvaluation (deciwatts : Nat)
  | railFault (k : PlaneIx)
  | referenceClockLoss
  | alertInLow
  | smbusReadWord (target : SmbusTarget)
  | smbusWrite (target : SmbusTarget) (value : W16)
  | smbusTimeout
  | planeCommandTake (k : PlaneIx)
  | planesReleased
  | lightReturn (lane : DevLane)
  | standbyDiodeRead (diodes : List Int)
  | inputLowRange (millivolts : Nat)
  | alertInRelease
  | alertOutStuck
deriving DecidableEq, Repr, Inhabited

end Sys2Proof
end

