-- ==== Sys2Proof/Machine/LineCode.lean ====
section
/-! DEFINITION. The line coding of a fabric lane (R215 to R219): 66-bit blocks and their types, the scrambler, the RS(560,528) code
over 10-bit symbols, frames as blocks, and the training pattern's PRBS31 blocks.  Bits go lowest first into symbols and onto the lane, and
a codeword's message symbols precede its 32 check symbols (DESIGN CHOICE, notes/assumptions 78). -/
namespace Sys2Proof.Machine

/-! ### Bits -/

/-- The `n` low bits of a number, lowest first. -/
def bitsOf (n v : Nat) : List Bool := (List.range n).map v.testBit

/-- The number whose bits, lowest first, are given. -/
def ofBits : List Bool → Nat
  | [] => 0
  | b :: bs => b.toNat + 2 * ofBits bs

/-! ### The field of 1,024 elements (R215) -/

/-- Multiplication by α modulo x¹⁰ + x³ + 1. -/
def gfDouble (a : LineSym) : LineSym := (a <<< 1) ^^^ (if a.getLsbD 9 then 9 else 0)

/-- The product of two field elements. -/
def gfMul (a b : LineSym) : LineSym :=
  (List.range 10).foldl (fun r i => gfDouble r ^^^ (if b.getLsbD (9 - i) then a else 0)) 0

/-- The power `α ^ n`. -/
def gfExp : Nat → LineSym
  | 0 => 1
  | n + 1 => gfDouble (gfExp n)

/-- The inverse of a nonzero element: its power 1,022. -/
def gfInv (a : LineSym) : LineSym :=
  ((List.range 9).foldl (fun (acc : LineSym × LineSym) _ => let q := gfMul acc.2 acc.2; (gfMul acc.1 q, q)) (1, a)).1

/-- The value of a polynomial, coefficients from the highest degree down. -/
def polyEval (cs : List LineSym) (x : LineSym) : LineSym := cs.foldl (fun r c => gfMul r x ^^^ c) 0

/-! ### RS(560,528) (R215) -/

/-- The generator of degree 32 with roots α⁰ to α³¹, without its leading 1, highest degree first. -/
def rsGenerator : List LineSym :=
  ((List.range 32).foldl (fun g i =>
    List.zipWith (· ^^^ ·) (g ++ [0]) (0 :: g.map fun c => gfMul c (gfExp i))) [1]).drop 1

/-- The 32 check symbols of a message. -/
def rsCheck (m : List LineSym) : List LineSym :=
  let g := rsGenerator
  m.foldl (fun r c =>
    let fb := c ^^^ r.headD 0
    List.zipWith (· ^^^ ·) (r.drop 1 ++ [0]) (g.map (gfMul fb))) (List.replicate 32 0)

/-- The codeword of a message of 528 symbols. -/
def rsEncode (m : List LineSym) : List LineSym := m ++ rsCheck m

/-- The syndromes of a received word. -/
def rsSyndromes (w : List LineSym) : List LineSym := (List.range 32).map fun i => polyEval w (gfExp i)

/-- What the search for the error locator holds: the locator and the one before the last change of length (lowest degree first), the length,
the distance since that change, and the discrepancy then. -/
structure Locator where
  cur  : List LineSym := [1]
  prev : List LineSym := [1]
  len  : Nat := 0
  gap  : Nat := 1
  disc : LineSym := 1
deriving DecidableEq, Repr, Inhabited

/-- The sum of two polynomials, lowest degree first. -/
def polyAdd : List LineSym → List LineSym → List LineSym
  | [], b => b
  | a, [] => a
  | x :: a, y :: b => (x ^^^ y) :: polyAdd a b

/-- One step of the search, on syndrome `n`. -/
def Locator.step (syn : List LineSym) (l : Locator) (n : Nat) : Locator :=
  let d := (List.range (l.len + 1)).foldl (fun a i => a ^^^ gfMul (l.cur.getD i 0) (if i ≤ n then syn.getD (n - i) 0 else 0)) 0
  if d = 0 then { l with gap := l.gap + 1 }
  else
    let f := gfMul d (gfInv l.disc)
    let next := polyAdd l.cur (List.replicate l.gap 0 ++ l.prev.map (gfMul f))
    if 2 * l.len ≤ n then { cur := next, prev := l.cur, len := n + 1 - l.len, gap := 1, disc := d }
    else { l with cur := next, gap := l.gap + 1 }

/-- The error value at the position of degree `e`, from the locator and the syndromes. -/
def rsErrorValue (syn loc : List LineSym) (e : Nat) : LineSym :=
  let inv := gfExp (1023 - e)
  let omega := (List.range 32).map fun n => (List.range (n + 1)).foldl (fun a i => a ^^^ gfMul (loc.getD i 0) (syn.getD (n - i) 0)) 0
  let odd := (List.range loc.length).map fun i => if i % 2 = 0 then loc.getD (i + 1) 0 else 0
  gfMul (gfExp e) (gfMul (polyEval omega.reverse inv) (gfInv (polyEval odd.reverse inv)))

/-- Decodes a received word: the corrected word and how many symbols were corrected, at most 16; nothing where it cannot be corrected. -/
def rsDecode (w : List LineSym) : Option (List LineSym × Nat) :=
  let syn := rsSyndromes w
  if syn.all (· == 0) then some (w, 0)
  else
    let l := (List.range 32).foldl (Locator.step syn) {}
    let at' := (List.range 560).filter fun e => polyEval l.cur.reverse (gfExp (1023 - e)) == 0
    if l.len ≤ 16 && at'.length == l.len then
      some (at'.foldl (fun w e => w.modify (559 - e) (· ^^^ rsErrorValue syn l.cur e)) w, l.len)
    else none

/-! ### Blocks (R215, R216) -/

/-- Byte `i` of a block's payload. -/
def blockByte (b : Block66) (i : Nat) : Byte := (b.payload >>> (8 * i)).truncate 8

/-- The payload of 8 bytes. -/
def payloadOf (bs : List Byte) : W64 := BitVec.ofNat 64 (leNat bs)

/-- What a block is (R216, R218). -/
inductive BlockKind
  | data (bytes : List Byte)
  | idle
  | start
  | term (trailer : List Byte)
  | train (bytes : List Byte)
  | dormant
  | invalid
deriving DecidableEq, Repr, Inhabited

/-- The kind of a block: its sync header, its type, and the bytes the type defines as zero (R216). -/
def blockKind (b : Block66) : BlockKind :=
  let bytes := (List.range 8).map (blockByte b)
  let rest := bytes.drop 1
  if b.sync = 1 then .data bytes
  else if b.sync = 2 then
    if blockByte b 0 = 0x1E && allZero rest then .idle
    else if blockByte b 0 = 0x78 && allZero rest then .start
    else if blockByte b 0 = 0xE1 && allZero (rest.drop 4) then .term (rest.take 4)
    else if blockByte b 0 = 0x2D && blockByte b 7 = 0 then .train rest
    else if blockByte b 0 = 0x33 && allZero rest then .dormant
    else .invalid
  else .invalid

/-- A control block of a type with its seven further bytes. -/
def ctlBlock (t : Byte) (rest : List Byte) : Block66 := { sync := 2, payload := payloadOf (t :: fixLen 7 rest) }

def idleBlock : Block66 := ctlBlock 0x1E []
def startBlock : Block66 := ctlBlock 0x78 []
def termBlock (trailer : List Byte) : Block66 := ctlBlock 0xE1 trailer
def trainBlock (rest : List Byte) : Block66 := ctlBlock 0x2D rest
def dormantBlock : Block66 := ctlBlock 0x33 []
def dataBlock (bs : List Byte) : Block66 := { sync := 1, payload := payloadOf bs }

/-- A frame with its trailer as blocks: `START`, the header and payload 8 bytes a block, and `TERM` with the trailer (R217). -/
def frameBlocks (bytes : List Byte) : List Block66 :=
  let n := bytes.length - 4
  startBlock :: (chunksOf 8 (bytes.take n)).map dataBlock ++ [termBlock (bytes.drop n)]

/-- Frames in the order they are sent, with one `IDLE` before a frame where 4,096 blocks would otherwise pass without one (R217): the count
of blocks since the last one comes first. -/
def streamBlocks : Nat → List (List Byte) → List Block66
  | _, [] => []
  | since, f :: fs =>
    let bs := frameBlocks f
    if 4096 ≤ since + bs.length then idleBlock :: bs ++ streamBlocks bs.length fs
    else bs ++ streamBlocks (since + bs.length) fs

/-! ### The scrambler (R215) -/

/-- One payload bit through the scrambler or, with `rx`, the descrambler: the register takes the bit that is on the lane. -/
def scrambleBit (rx : Bool) (st : BitVec 58) (b : Bool) : BitVec 58 × Bool :=
  let o := b ^^ st.getLsbD 38 ^^ st.getLsbD 57
  ((st <<< 1) ||| (BitVec.ofBool (if rx then b else o)).zeroExtend 58, o)

/-- A payload through the scrambler or descrambler, lowest bit first. -/
def scramblePayload (rx : Bool) (st : BitVec 58) (w : W64) : BitVec 58 × W64 :=
  let r := (bitsOf 64 w.toNat).foldl (fun (acc : BitVec 58 × List Bool) b =>
    let x := scrambleBit rx acc.1 b
    (x.1, x.2 :: acc.2)) (st, [])
  (r.1, BitVec.ofNat 64 (ofBits r.2.reverse))

/-- The payloads of a stream through the scrambler or descrambler; the sync headers pass as they are. -/
def scrambleBlocks (rx : Bool) : BitVec 58 → List Block66 → List Block66
  | _, [] => []
  | st, b :: bs =>
    let r := scramblePayload rx st b.payload
    { b with payload := r.2 } :: scrambleBlocks rx r.1 bs

/-! ### Codewords (R215) -/

/-- The bits of a block: the sync header, then the payload. -/
def blockBits (b : Block66) : List Bool := bitsOf 2 b.sync.toNat ++ bitsOf 64 b.payload.toNat

/-- The block of 66 bits. -/
def blockOfBits (l : List Bool) : Block66 :=
  { sync := BitVec.ofNat 2 (ofBits (l.take 2)), payload := BitVec.ofNat 64 (ofBits ((l.drop 2).take 64)) }

/-- The codeword that carries eighty blocks. -/
def codewordOf (bs : List Block66) : List LineSym :=
  rsEncode ((chunksOf 10 (bs.flatMap blockBits)).map fun l => BitVec.ofNat 10 (ofBits l))

/-- The coded stream of blocks: scrambled, eighty to a codeword; the last codeword is filled up with `IDLE`. -/
def codedStream (st : BitVec 58) (bs : List Block66) : List (List LineSym) :=
  let fill := bs ++ List.replicate ((80 - bs.length % 80) % 80) idleBlock
  (chunksOf 80 (scrambleBlocks false st fill)).map codewordOf

/-- The eighty blocks of a decoded word. -/
def blocksOf (w : List LineSym) : List Block66 :=
  (chunksOf 66 ((w.take 528).flatMap fun c => bitsOf 10 c.toNat)).map blockOfBits

/-! ### A frame as a receiver finds it (R217, R218) -/

/-- What one codeword gave: its blocks, whether it could be corrected, and the symbols corrected. -/
structure WordRx where
  blocks : List Block66
  ok     : Bool
  syms   : Nat
deriving DecidableEq, Repr, Inhabited

/-- A codeword through the decoder: one that cannot be corrected passes on as it came. -/
def WordRx.of (w : List LineSym) : WordRx :=
  match rsDecode w with
  | some r => { blocks := blocksOf r.1, ok := true, syms := r.2 }
  | none => { blocks := blocksOf w, ok := false, syms := 0 }

/-- The state of the search for a frame in a stream of blocks. -/
structure BlockRx where
  inFrame : Bool := false
  done    : Bool := false
  bytes   : List Byte := []
  endSeen : Bool := false
  parity  : Bool := true
  dropped : Nat := 0
  idle    : Nat := 0
deriving DecidableEq, Repr, Inhabited

/-- One block, with whether its codeword was good (R218): outside a frame a bad block is dropped and counted; inside one it ends the frame
with no end delimiter, and so does another `START`. -/
def BlockRx.take (r : BlockRx) (b : Block66 × Bool) : BlockRx :=
  if r.done then r
  else if r.inFrame then
    let r := { r with parity := r.parity && b.2 }
    match blockKind b.1 with
    | .data bs => { r with bytes := r.bytes ++ bs }
    | .term t => { r with bytes := r.bytes ++ t, endSeen := true, done := true }
    | _ => { r with done := true }
  else match blockKind b.1 with
    | .start => { r with inFrame := true, parity := b.2 }
    | .idle => { r with idle := r.idle + 1 }
    | .invalid => { r with dropped := r.dropped + 1 }
    | _ => r

/-- A frame given as the codewords that carried it, in the form the parser takes (R215 to R218): the bytes between the delimiters, whether
the end delimiter came, byte parity bad where a codeword of the frame could not be corrected, and the lane layer's counts.  A frame given as
bytes is itself. -/
def settled (f : RxFrame) : RxFrame :=
  match f.line with
  | none => f
  | some l =>
    let ws := l.words.map WordRx.of
    let blocks := scrambleBlocks true l.descr (ws.flatMap (·.blocks))
    let good := ws.flatMap fun w => w.blocks.map fun _ => w.ok
    let r := (blocks.zip good).foldl BlockRx.take {}
    let unc := (ws.filter (!·.ok)).length
    { f with
      bytes := r.bytes, endSeen := r.endSeen, line := none
      fec := { cor := (ws.filter fun w => w.ok && w.syms != 0).length, sym := (ws.map (·.syms)).sum, unc := if r.parity then 0 else unc,
               gap := if r.parity then unc else 0, idle := r.idle, blk := r.dropped } }

/-! ### The training pattern (R219) -/

/-- One bit of PRBS31, x³¹ + x²⁸ + 1 of ITU-T O.150 (PRESUMED, notes/assumptions 78). -/
def prbsBit (st : BitVec 31) : BitVec 31 × Bool :=
  let o := st.getLsbD 30 ^^ st.getLsbD 27
  ((st <<< 1) ||| (BitVec.ofBool o).zeroExtend 31, o)

/-- The next 64 bits of the sequence as a payload, lowest bit first. -/
def prbsPayload (st : BitVec 31) : BitVec 31 × W64 :=
  let r := (List.range 64).foldl (fun (acc : BitVec 31 × List Bool) _ =>
    let x := prbsBit acc.1
    (x.1, x.2 :: acc.2)) (st, [])
  (r.1, BitVec.ofNat 64 (ofBits r.2.reverse))

/-- `n` data blocks of the sequence. -/
def prbsBlocks : Nat → BitVec 31 → List Block66
  | 0, _ => []
  | n + 1, st =>
    let r := prbsPayload st
    { sync := 1, payload := r.2 } :: prbsBlocks n r.1

/-- The generator's register `n` bits further on. -/
def prbsSkip : Nat → BitVec 31 → BitVec 31
  | 0, st => st
  | n + 1, st => prbsSkip n (prbsBit st).1

/-- A group: the `TRAIN` block with its bytes 1 to 4 and its count, then 31 blocks of PRBS31. -/
def trainGroup (b1 b2 b3 b4 : Byte) (tseq : Nat) (st : BitVec 31) : List Block66 :=
  trainBlock ([b1, b2, b3, b4] ++ leBytes 2 (tseq % 65536)) :: prbsBlocks 31 st

/-- The bytes 1 to 4 of a received group's `TRAIN` block, and how many of its 31 further blocks differ from the sequence (R219, R220); none
where the first block is no valid `TRAIN` block. -/
def trainOf (g : List Block66) (st : BitVec 31) : Option (List Byte × Nat) :=
  match g with
  | t :: rest => match blockKind t with
    | .train bs => some (bs.take 4, ((rest.zip (prbsBlocks 31 st)).filter fun p => p.1 != p.2).length)
    | _ => none
  | [] => none

end Sys2Proof.Machine
end

