-- ==== Sys2Proof/Config.lean ====
section
/-! DEFINITION. The free values: what the manual leaves to the silicon, the physics or a document it does not give.
Every constant here is opaque: nothing can evaluate it or prove a value of it (notes/assumptions 2 to 6). -/
namespace Sys2Proof.Config

/-- The `n`-th 16-bit random value taken from the free-running vector lane generators (R44: their state can be neither read nor set). -/
opaque randomBits : Nat → W16
/-- The `n`-th reading of a physical monitor that no row of the table supplies: eye opening, optical power, bias current,
engine temperature, occupancies (R232, R245), input current (R338). -/
opaque reading : Nat → W64
/-- How many nanoseconds the clock `c` advances in the `n`-th idle period: clocks 0 to 7 are the planes' local counters and
clock 8 is the host port block's (R21, R364: the clocks are unrelated). -/
opaque clockAdvance : Nat → Nat → Nat
/-- The register of a device lane's PRBS31 generator as it begins to send the training pattern (R219 does not give it). -/
opaque prbsStart : Nat → BitVec 31
/-- What the code of a user kernel image (first argument) does to one element's input words (second argument): the words it
writes, or nothing when it faults.  The manual gives no vector-unit instruction set (R83, R84, R325). -/
opaque userKernel : List Byte → List W32 → Option (List W32)
/-- The arithmetic flags that the instructions of a user kernel set on one element's input words (R42, R84). -/
opaque userFlags : List Byte → List W32 → W32
/-- The ML-DSA-87 signature by the device identity key over a message, which is a SHA3-512 hash (R312, R323): the private key never leaves the boot core. -/
opaque identitySign : List Byte → List Byte
/-- Whether an ML-DSA-87 signature (third argument) of a message (second) verifies with a public key (first): the relation of FIPS 204,
which the manual names and does not give (R312). -/
opaque mldsaVerifies : List Byte → List Byte → List Byte → Bool
/-- Whether the `n`-th attempt of boot step 7 to raise the `MINSVN` fuses fails (R314, R318), where no row says so. -/
opaque svnFuseFails : Nat → Bool
/-- The signature that the firmware image carries for a segment of a block's in-field test (R254 to R256). -/
opaque testSignature : Nat → Nat → BitVec 128
/-- The bytes that the frames a mirror receives take of a job's state on a plane, for its mirrored element counts (R259 gives no number). -/
opaque mirrorFrames : List Nat → Nat
/-- The SHA3-512 measurement of the boot ROM, `MBOOT` (R314 step 2): the ROM's bytes are not given. -/
opaque bootRomHash : List Byte
/-- The Mallinel firmware and manifest keys in boot ROM (R312): their bytes are not given. -/
opaque mallinelFirmwareKey : List Byte
opaque mallinelManifestKey : List Byte

end Sys2Proof.Config
end

