-- ==== Sys2Proof/Machine/Sha3.lean ====
section
/-! DEFINITION. SHA3-512 of FIPS 202, which R312, R167, R263, R314 and R324 use by name.  The function is taken from that
standard (PRESUMED, notes/assumptions 11): offsets and constants are computed by the standard's own rules and are not listed. -/
namespace Sys2Proof.Machine

/-- One row of a Keccak state: the five 64-bit lanes with the same y, by x. -/
abbrev KRow := Vector W64 5

/-- A Keccak state: its five rows by y. -/
abbrev KState := Vector KRow 5

/-- The lane at column x and row y, both modulo 5. -/
def KState.at (a : KState) (x y : Nat) : W64 := (a[y % 5]'(Nat.mod_lt _ (by decide)))[x % 5]'(Nat.mod_lt _ (by decide))

/-- The state whose lane at (x, y) is `f x y`. -/
def KState.build (f : Nat → Nat → W64) : KState := Vector.ofFn fun y => Vector.ofFn fun x => f x.val y.val

/-- One bit of the round-constant generator: the 8-bit register of x⁸ + x⁶ + x⁵ + x⁴ + 1 after `n` shifts from 1. -/
def lfsrAfter : Nat → Nat
  | 0 => 1
  | n + 1 =>
    let r := lfsrAfter n * 2
    if 256 ≤ r then (r ^^^ 0x71) % 256 else r

/-- The constant of round `i`: bit 2^j - 1 holds the generator's low bit after 7 i + j shifts, for j from 0 to 6. -/
def roundConst (i : Nat) : W64 :=
  BitVec.ofNat 64 (listMask ((List.range 7).filterMap fun j => if lfsrAfter (7 * i + j) % 2 = 1 then some (2 ^ j - 1) else none))

/-- The walk that rotates and moves lanes together (rho and pi): `t` counts its steps, `cur` is the lane carried, and (x, y) is the place
it came from; each lane lands at (y, 2x + 3y) turned by the next triangular number. -/
def carryLanes : Nat → Nat → Nat → Nat → W64 → KState → KState
  | 0, _, _, _, _, a => a
  | n + 1, t, x, y, cur, a =>
    let y' := (2 * x + 3 * y) % 5
    let next := a.at y y'
    let row := a[y']'(Nat.mod_lt _ (by decide))
    let put := row.set (y % 5) (cur.rotateLeft ((t + 1) * (t + 2) / 2 % 64)) (Nat.mod_lt _ (by decide))
    carryLanes n (t + 1) y y' next (a.set y' put (Nat.mod_lt _ (by decide)))

/-- The exclusive OR of a column's five lanes. -/
def columnParity (a : KState) (x : Nat) : W64 := (List.range 5).foldl (fun w y => w ^^^ a.at x y) 0

/-- Round `i`: column mixing, the lane walk, the row step, and the constant into lane (0, 0). -/
def keccakRound (i : Nat) (a : KState) : KState :=
  let par : KRow := Vector.ofFn fun x => columnParity a (x.val + 4) ^^^ (columnParity a (x.val + 1)).rotateLeft 1
  let mixed : KState := a.map fun row => row.zipWith (· ^^^ ·) par
  let walked := carryLanes 24 0 1 0 (mixed.at 1 0) mixed
  KState.build fun x y =>
    let w := walked.at x y ^^^ (walked.at (x + 2) y &&& ~~~ walked.at (x + 1) y)
    if x + y = 0 then w ^^^ roundConst i else w

/-- Rounds `i` to `i + n - 1`. -/
def keccakRounds : Nat → Nat → KState → KState
  | 0, _, a => a
  | n + 1, i, a => keccakRounds n (i + 1) (keccakRound i a)

/-- A 72-byte block enters the first nine lanes, and the 24 rounds follow. -/
def absorbBlock (a : KState) (blk : List Byte) : KState :=
  keccakRounds 24 0 (KState.build fun x y =>
    if 5 * y + x < 9 then a.at x y ^^^ BitVec.ofNat 64 (fieldAt blk (8 * (5 * y + x)) 8) else a.at x y)

/-- A message with its padding to a multiple of 72 bytes: the domain bits 01 and the first 1 in the byte after the message, the last 1 in
the top bit of the last byte. -/
def sha3Pad (bs : List Byte) : List Byte :=
  let fill := zeros (71 - bs.length % 72)
  match fill.reverse with
  | [] => bs ++ [0x86]
  | _ :: rest => bs ++ 0x06 :: (rest ++ [0x80])

/-- SHA3-512: the first 64 bytes of the state after the last block. -/
def sha3_512 (bs : List Byte) : List Byte :=
  let a := (chunksOf 72 (sha3Pad bs)).foldl absorbBlock (KState.build fun _ _ => 0)
  (List.range 8).flatMap fun i => leBytes 8 (a.at i (i / 5)).toNat

end Sys2Proof.Machine
end

