-- ==== Sys2Proof/Machine/Delivery.lean ====
section
/-! DEFINITION. The delivery state of R2: the package with the Mallinel-signed default manifest (R316, R319) and a nominal
calibration set (R326).  The bytes the manual does not give (code, signatures, serial number, versions, factory calibration)
are DESIGN CHOICE values (notes/assumptions 14). -/
namespace Sys2Proof.Machine

/-- The default manifest's bytes 0x0000 to 0x137F (R2, R319, R320): all lanes and all HBM lendable. -/
def defaultManifestBody : List Byte :=
  leBytes 2 1 ++ [0, 1, 0, 0] ++ zeros 2 ++ leBytes 4 9619 ++ zeros 4 ++ zeros 128 ++
  (leBytes 4 1204319 ++ leBytes 2 768 ++ zeros 2 ++ leBytes 4 800000 ++ leBytes 4 800000 ++ leBytes 4 16777216 ++
    leBytes 4 1024 ++ zeros 8) ++
  zeros 32 ++ zeros 8 ++ zeros 64 ++ zeros 64 ++ zeros 8 ++
  zeros 1024 ++ List.replicate 1024 0xFF ++ zeros 2592

/-- The placeholder signature bytes of the factory package (DESIGN CHOICE). -/
def factorySig : List Byte := List.replicate 4627 0x5A

/-- The factory code bytes (DESIGN CHOICE). -/
def factoryCode : List Byte := List.replicate 64 0x11

/-- Bytes 0x04 to 0x13 of the factory package header: `FVER` 1, `FSVN` 0, `FFLAGS` 0, `CODELEN` 64. -/
def factoryFwHeader : List Byte := leBytes 4 1 ++ leBytes 4 0 ++ leBytes 4 0 ++ leBytes 4 64

/-- The factory package (R316): header, signature at 64, code at 8,192, manifest at 12,288. -/
def factoryPackage : List Byte :=
  leBytes 4 21907 ++ factoryFwHeader ++ leBytes 4 8192 ++ leBytes 4 64 ++ leBytes 4 12288 ++ leBytes 4 0 ++ zeros 28 ++
  factorySig ++ zeros 3501 ++ factoryCode ++ zeros 4032 ++ (defaultManifestBody ++ factorySig)

/-- The factory serial number (DESIGN CHOICE). -/
def factorySerial : List Byte := zeros 16

/-- A calibration set body with the nominal values (R326, R327). -/
def nominalCalBody (serial : List Byte) : List Byte :=
  leBytes 2 1 ++ leBytes 2 480 ++ zeros 4 ++ serial ++ [0] ++ zeros 7 ++
  (List.range 128).flatMap (fun _ => leBytes 2 800) ++ List.replicate 128 6 ++ zeros 18 ++ zeros 18 ++
  (List.range 9).flatMap (fun _ => leBytes 2 32768) ++ zeros 6

/-- The ROM nominal set of R327 (bias 800, peaking 6, trims 0, gains 32,768) with its CRC. -/
def nominalCal (serial : List Byte) : List Byte :=
  nominalCalBody serial ++ crcBytes (nominalCalBody serial)

/-- The signatures that verify at delivery: the firmware's and the default manifest's (R2). -/
def factorySigs : List (List Byte × List Byte × List Byte) :=
  [(Config.mallinelFirmwareKey, sha3_512 (factoryFwHeader ++ factoryCode), factorySig),
   (Config.mallinelManifestKey, sha3_512 defaultManifestBody, factorySig)]

end Sys2Proof.Machine
end

