-- ==== Sys2Proof/Machine/State.lean ====
section
/-! DEFINITION. The state of the device as plain data: the module and its non-volatile stores, boot, the host port block, the
combiner, the jobs, the eight planes with their lanes, and the queue of waiting commands.  Each structure cites the rules of
spec/ that name what it holds. -/
namespace Sys2Proof.Machine

/-- The faults of the model: none.  The manual gives every command and event a result (00_scope, "Names and typography"), so
no step of the model ends in a fault. -/
inductive Fault
deriving DecidableEq, Repr

/-- The refusals of the model. -/
inductive Refusal
  /-- Raised only by an arm of `exec` for a row with no meaning (there is none left).  Safe: nothing is claimed of it. -/
  | notModelled (mnemonic : String)
deriving DecidableEq, Repr

/-- Byte memory: address and byte pairs, addresses rising, no listed byte equal to 0 (what an unlisted address reads as:
R317 staging buffer; DESIGN CHOICE for the aperture and the host's reply area, notes/assumptions 7). -/
abbrev Mem := List Host.Cell

/-- Named 32-bit or 64-bit saturating counters: a counter not listed reads 0. -/
abbrev Ctrs (α : Type) := List (α × Nat)

/-! ### Codes -/

/-- Status codes of R295. -/
inductive Status
  | ok | busy | length | opcode | param | partition | nojob | quota | timeout | fenced | poisoned | generation | check
  | shardLost | deadline | format | crcerr | planedown | auth | recovery
deriving DecidableEq, Repr, Inhabited

/-- Job states of R148, in code order. -/
inductive JState
  | free | defining | loading | running | reclaiming | reclaimed | fenced
deriving DecidableEq, Repr, Inhabited

/-- Full-stop states of R91; `loading` is the code 0 shown before the first step (DEDUCED, notes/assumptions 20). -/
inductive FState
  | loading | run | await | commit | rescale | discard | drain | reclaimed | fenced
deriving DecidableEq, Repr, Inhabited

/-- Bucket states of R59, in table order. -/
inductive BState
  | closed | refused | openSlot | openSpill | awaiting | partialHeld | complete
deriving DecidableEq, Repr, Inhabited

/-- Lane states of R224, in code order. -/
inductive LState
  | disabled | dark | training | hold | up | dormant | miswired | txfault
deriving DecidableEq, Repr, Inhabited

/-- Plane states of R365 (`PSTATE`), in code order. -/
inductive PState
  | inService | restarting | retired | held
deriving DecidableEq, Repr, Inhabited

/-- The kernels of R70. -/
inductive Kernel
  | none | momentum | adaptive | layerwise | kronecker | user
deriving DecidableEq, Repr, Inhabited

/-- What a share is to the plane that keeps it: the home copy, a mirror copy (R259), or only this device's device partial of a
bucket homed elsewhere (R55). -/
inductive Role
  | home | mirror | remote
deriving DecidableEq, Repr, Inhabited

/-- The counters of a job on a plane (R68, R123, R139, R156, R163, R211, R279). -/
inductive JCtr
  | frmRej | frmStale | dupChunk | quotaRef | qRounds | redTmo | spillBkt | slotHwm
  | precBlk | rootRef | rootRej | refLate
  | gathers | gathCoal | gathHeld | gathRej | genRej | stashHit | stashRel | masterRg | prefHit | prefDrop | elided
  | retSend | resend
  | billGB | billYB | billGF | billYF | meterDrop | partDrop
  | digCmp | digMiss | expelled | rebuilds | rebuildRs
  | syncSat | ckptWait
deriving DecidableEq, Repr, Inhabited

/-- The counters of a fabric lane (R179, R211, R234). -/
inductive LCtr
  | frmSize | frmCrc | frmStomp | frmPar | frmMal | ovfDrop | peerDrop | downDrop | gateHold | shapeWait
  | downCnt | losCnt | fecCor | fecSym | fecUnc | blkErr | trainErr | polFlip | idleDel
deriving DecidableEq, Repr, Inhabited

/-- The counters of a plane (R179, R248, R255). -/
inductive PCtr
  | frmDrop | peerWait | bufLeak | bufDup | testLate | errLost
deriving DecidableEq, Repr, Inhabited

/-! ### Frames -/

/-- A frame header as fields (R170, R171, R172).  The transit fields and the delivery fields share bits [255:160]; which
form is on the fibre follows from the lane (R169). -/
structure Hdr where
  op      : Nat
  tent    : Bool := false
  final   : Bool := false
  rw      : Bool := false
  fmt     : Nat := 0
  job     : Nat := 0
  len     : Nat := 0
  bucket  : Nat := 0
  comma   : Nat := 0
  chunk   : Nat := 0
  elemoff : Nat := 0
  gen     : Nat := 0
  mask    : Nat := 0
  cls     : Nat := 0
  memb    : Nat := 0
  uni     : Bool := false
  srcdev  : Nat := 0
  rwaddr  : Nat := 0
  rwkey   : Nat := 0
deriving DecidableEq, Repr, Inhabited

/-- A frame: header fields and payload. -/
structure Frame where
  hdr     : Hdr
  payload : List Byte := []
deriving DecidableEq, Repr, Inhabited

/-- An Egress queue descriptor (R19): the frame, the job it belongs to, its class, and in
`multi` whether it is a leg of a multicast (R131).  `held`: the gate has held it once; `waited`: the shaper chose it and it waits for tokens, so
that nothing passes it (R203).  A frame passed on from the frame buffer keeps its cells or its overflow entry
until it leaves (R181), and `later` says what the serialiser finds when it reads it (R177). -/
structure Desc where
  frame   : Frame
  job     : Nat
  cls     : Nat
  multi   : Bool := false
  held    : Bool := false
  waited  : Bool := false
  cells   : Nat := 0
  ovf     : Bool := false
  later   : StoredFault := .none
deriving DecidableEq, Repr, Inhabited

/-- One lent job's place in a lane's deficit round robin (R204). -/
structure DrrEntry where
  job     : Nat
  deficit : Nat := 0
  started : Bool := false
deriving DecidableEq, Repr, Inhabited

/-! ### Optical lanes and engines -/

/-- One fabric lane: its lane state and status (R220, R224, R232, R233; `clk` is the receive clock's lock, and `bias` the
calibrated current that the laser was turned on at, R230, R326), the counter value at which it began to
send the training pattern (R219) and at which the frame on its fibre ends (R217, R226), whether its shaper bucket failed parity (R236) and whether the lane is
retired (R253), its forwarding settings (R192), its Egress queue,
round robin and shaper (R19, R204, R205), and its counters (R179, R211, R234). -/
structure Lane where
  st        : LState := .dark
  lcause    : Nat := 0
  peak      : Nat := 0
  los       : Bool := true
  clk       : Bool := false
  feclock   : Bool := false
  plock     : Bool := false
  farReady  : Bool := false
  noEcho    : Bool := false
  biasHi    : Bool := false
  laserOn   : Bool := false
  bias      : Nat := 0
  echoOk    : Bool := false
  ready     : Bool := false
  holdoff   : Bool := false
  farid1    : Byte := 0
  farid2    : Byte := 0
  trainus   : W32 := 0
  lightAt   : Nat := 0
  trainAt   : Nat := 0
  sendEnd   : Nat := 0
  lchange   : Nat := 0
  cutClasses : List Nat := []
  egress    : List Desc := []
  egWait    : List Desc := []
  drr       : List DrrEntry := []
  shrate    : Nat := 50000
  shburst   : Nat := 65536
  shovh     : Nat := 20
  ts        : Nat := 65536
  shapeBad  : Bool := false
  retired   : Bool := false
  pendShape : Option (Nat × Nat × Nat) := none
  ctrs      : Ctrs LCtr := []
deriving DecidableEq, Repr, Inhabited

/-- One optical engine (R213, R221, R222). -/
structure Engine where
  polSwap   : Bool := false
  rxRev     : Bool := false
  orderSet  : Bool := false
  flipping  : Bool := false
  flipsDark : Nat := 0
deriving DecidableEq, Repr, Inhabited

/-! ### Error records, observation, tests -/

/-- An error record of R245, as fields. -/
structure ErrRec where
  eseq    : Nat
  eplane  : Nat
  eblock  : Nat
  eclass  : Nat
  edisp   : BitVec 8
  eindex  : Nat
  ecount  : Nat
  ejob    : Nat := 0
  eop     : Nat := 0
  eopk    : Nat := 0
  epass   : Nat := 0
  ebucket : Nat := 0
  echunk  : Nat := 0
  ebits   : W32 := 0
  estep   : Nat := 0
  etime   : Nat := 0
  etemp   : Int := 0
  evcore  : Nat := 0
  eocc    : List Byte := [0, 0, 0, 0]
  ekernel : Nat := 255
  ejobs   : Nat := 0
  eredund : Nat := 0
  eword   : W32 := 0
deriving DecidableEq, Repr, Inhabited

/-- A unit under observation (R250 to R252): its block, the unit within a memory or lane block (0 for a whole block), its
errors under observation, its run of passing tests, and whether only an overdue test put it there (R255). -/
structure Obs where
  block   : Nat
  unit    : Nat
  errs    : Nat := 0
  passes  : Nat := 0
  overdue : Bool := false
deriving DecidableEq, Repr, Inhabited

/-- A test of a block that is due or running (R254 to R257): segments still to run, runs left
of a `TEST_RUN`, the numbers of its failed runs (`failRuns`, counted by the runs that were left), and the command it answers. -/
structure TestRun where
  block    : Nat
  segsLeft : Nat
  repeats  : Nat := 1
  failRuns : List Nat := []
  cmd      : Option Nat := none
  overdue  : Bool := false
  deferred : Bool := false
deriving DecidableEq, Repr, Inhabited

/-! ### Job description -/

/-- A bucket table entry (R48). -/
structure BucketDesc where
  bucket   : Nat
  chunk    : Nat
  nelem    : Nat
  elembase : Nat
  layer    : Nat
  bflags   : Nat
  rsvdZero : Bool := true
deriving DecidableEq, Repr, Inhabited

/-- A placement entry (R145). -/
structure Place where
  pbase   : Nat
  pcount  : Nat
  pdev    : Nat
  pmirror : Nat
  rsvdZero : Bool := true
deriving DecidableEq, Repr, Inhabited

/-- A member table entry (R143). -/
structure MemberDesc where
  mdev   : Nat
  mlanes : Nat
deriving DecidableEq, Repr, Inhabited

/-- The optimizer block of R70. -/
structure OptBlock where
  kernel    : Nat := 0
  opflags   : Nat := 0
  userwords : Nat := 0
  growth    : Nat := 0
  lr        : W32 := 0
  mu        : W32 := 0
  beta2     : W32 := 0
  eps       : W32 := 0
  wd        : W32 := 0
  trustmax  : W32 := 0
  clipnorm  : W32 := 0
  lsinit    : W32 := 0
  uparam    : List W32 := []
deriving DecidableEq, Repr, Inhabited

/-- The preconditioner block of R107. -/
structure PrecBlock where
  block   : Nat := 0
  nsiter  : Nat := 0
  refresh : Nat := 0
  sdecay  : W32 := 0
  damp    : W32 := 0
deriving DecidableEq, Repr, Inhabited

/-- The rate contract of R197. -/
structure RateBlock where
  cir     : Nat := 0
  pir     : Nat := 0
  cbs     : Nat := 0
  pbs     : Nat := 0
  quantum : Nat := 0
  rflags  : Nat := 0
deriving DecidableEq, Repr, Inhabited

/-- The 192-byte job header of R143. -/
structure JobHdr where
  job      : Nat := 0
  jclass   : Nat := 0
  jmode    : Nat := 0
  nbucket  : Nat := 0
  nmemb    : Nat := 0
  nplace   : Nat := 0
  planes   : Byte := 0
  stripe   : Nat := 0
  syncn    : Nat := 0
  slotceil : Nat := 0
  accn     : Nat := 0
  spillq   : Nat := 0
  stashq   : Nat := 0
  retq     : Nat := 0
  qbase    : Nat := 0
  optmo    : Nat := 0
  gwait    : Nat := 0
  ckhold   : Nat := 0
  hbmq     : Nat := 0
  kimglen  : Nat := 0
  rate     : RateBlock := {}
  prec     : PrecBlock := {}
  opt      : OptBlock := {}
deriving DecidableEq, Repr, Inhabited

/-- The reclaim of a job (R159): the deadline in force in ms, and the `HPCNT` reading at which it passes. -/
structure ReclaimSt where
  deadlineMs : Nat
  at'        : Nat
deriving DecidableEq, Repr, Inhabited

/-- A job on the device (R142 to R155): its description as received (raw, with the bytes written so far) and as opened, its
state, its group, the members recorded as fenced, those of them fenced by the loss of a lane, the peer lanes (plane, lane) lost since it was
opened (R193), and what is pending on it. -/
structure Job where
  id        : Nat
  st        : JState := .defining
  rawHdr    : List Byte := []
  rawMemb   : List Byte := []
  tabBucket : List (Nat × Byte) := []
  tabPlace  : List (Nat × Byte) := []
  tabKimg   : List (Nat × Byte) := []
  hdr       : JobHdr := {}
  members   : List MemberDesc := []
  buckets   : List BucketDesc := []
  places    : List Place := []
  digk      : Nat := 50
  logl      : Nat := 8
  peers     : List (Nat × Nat × Nat) := []
  lostPeers : List (Nat × Nat) := []
  groupRec  : Nat := 0
  group     : List Nat := []
  reform    : Option (Nat × List Nat) := none
  reformStep : Option Nat := none
  fencedM   : List Nat := []
  lostM     : List Nat := []
  reclaim   : Option ReclaimSt := none
  reclaimTaken : List Nat := []
  lastComb  : Int := -1
  fcause    : Nat := 0
  closing   : Option Nat := none
  ended     : Bool := false
  restore   : Bool := false
  ringHold  : Bool := false
  floorStep : Option Nat := none
  jdigs     : List (Nat × List Byte) := []
  keptLost  : Byte := 0
deriving DecidableEq, Repr, Inhabited

/-! ### A job on a plane -/

/-- The optimizer record of R77, less the constant fields. -/
structure OptRec where
  lastout : Nat := 0
  step    : Nat := 0
  updates : Nat := 0
  gen     : Nat := 0
  nextgen : Nat := 1
  lscale  : W32 := 0
  clean   : Nat := 0
  normsq  : W32 := 0
  clipf   : W32 := 0
  pow1    : W32 := 0
  pow2    : W32 := 0
  skipped : Nat := 0
deriving DecidableEq, Repr, Inhabited

/-- The flag word of a scalar pair (R12). -/
structure Flags where
  overflow : Bool := false
  poisoned : Bool := false
  abandon  : Bool := false
  drain    : Bool := false
deriving DecidableEq, Repr, Inhabited

/-- A contribution present (R52 row 12): whose, of which chunk and pass, the decoded FP32 values of its elements, and the frame
cells it holds, in the overflow region or not, until its chunk set is added (R53, R181); `staged`: it lies in a staging buffer of engine
scratch instead (R165); `later`: what the adder tree finds when it reads it (R63, R177). -/
structure Contrib where
  pass   : Nat
  chunk  : Nat
  member : Nat
  vals   : List W32
  cells  : Nat := 0
  ovf    : Bool := false
  staged : Bool := false
  later  : StoredFault := .none
deriving DecidableEq, Repr, Inhabited

/-- A device partial received or formed (R55): ring device, chunk, element offset of the first value, values, and what a received one holds
of the frame buffer (R181) and what the adder finds when it reads it (R177). -/
structure PartialIn where
  dev   : Nat
  chunk : Nat
  off   : Nat
  vals  : List W32
  cells : Nat := 0
  ovf   : Bool := false
  later : StoredFault := .none
deriving DecidableEq, Repr, Inhabited

/-- A bucket timer of a pass (R62): its consecutive expiries without progress. -/
structure PassTimer where
  pass     : Nat
  expiries : Nat := 0
  reported : Bool := false
deriving DecidableEq, Repr, Inhabited

/-- Words received in a `CKPT` frame (R261, R268): content code, generation, offset of the first, and the words. -/
structure ArrIn where
  code : Nat
  gen  : Nat
  off  : Nat
  vals : List W32
deriving DecidableEq, Repr, Inhabited

/-- A full block of a KRONECKER share (R109, R110): three statistics buffers, the map (which buffer is L, which is R), the
two roots, the staged roots of this step (R115), and what a mirror received for it (R261). -/
structure KBlock where
  buf0   : List W32
  buf1   : List W32
  buf2   : List W32
  mapL   : Nat := 0
  mapR   : Nat := 1
  ql     : List W32
  qr     : List W32
  stageL : Option (List W32) := none
  stageR : Option (List W32) := none
  recv   : List ArrIn := []
deriving DecidableEq, Repr, Inhabited

/-- A log slot of a share (R270): the step whose reduced values it holds and the values, in ascending e. -/
structure LogSlot where
  step : Nat
  vals : List W32
deriving DecidableEq, Repr, Inhabited

/-- A rebuild of an expelled copy (R268): its source and target, whether the source's read has begun and whether a selector flip has
waited for it, the generation sent, and at the target what has come and whether it runs in step again, its digest not yet compared. -/
structure Rebuild where
  srcDev    : Nat
  target    : Nat
  step      : Nat
  started   : Bool := false
  gen       : Nat := 0
  restarts  : Nat := 0
  recv      : List ArrIn := []
  inStep    : Bool := false
  waited    : Bool := false
deriving DecidableEq, Repr, Inhabited

/-- A bucket share on a plane: its elements (indices within the bucket), its two copies as arrays of words and their images
(R73, R74), the bucket state of R59 with what it holds, the NaN and infinite contributions by element (R40), what the step has computed of it
(R65, R66, R85, R263), its log (R270), and the digests held, the generation whose vote is due, the expelled copies and the rebuilds
(R265 to R268). -/
structure Share where
  bucket    : Nat
  role      : Role
  elems     : List Nat
  sel       : Bool := false
  copyA     : List (List W32) := []
  copyB     : List (List W32) := []
  imgA      : List W16 := []
  imgB      : List W16 := []
  kblocks   : List KBlock := []
  bst       : BState := .closed
  slots     : List Nat := []
  spilled   : Nat := 0
  round     : Nat := 0
  roundEnd  : Nat := 0
  contribs  : List Contrib := []
  added     : List (Nat × Nat) := []
  sums      : List (Nat × W32) := []
  specials  : List (Nat × W32) := []
  partials  : List PartialIn := []
  timers    : List PassTimer := []
  overflow  : Bool := false
  poisoned  : Bool := false
  commaDone : Bool := false
  kernelRan : Bool := false
  published : Bool := false
  norm      : W32 := 0
  reduced   : List W32 := []
  log       : List (Nat × LogSlot) := []
  digests   : List (Nat × Nat × List Byte) := []
  halted    : Bool := false
  lost      : Bool := false
  voteGen   : Option Nat := none
  expelled  : List Nat := []
  rebuilds  : List Rebuild := []
deriving DecidableEq, Repr, Inhabited

/-- A step header of the reduced-gradient log (R272), with the blocks in force.  `pow1` and `pow2` are the plane's own record of the
step's start; no header sent or received carries them. -/
structure StepHdr where
  lout    : Nat := 0
  incomplete : Bool := true
  step    : Nat := 0
  updates : Nat := 0
  genin   : Nat := 0
  gensub  : Nat := 0
  genout  : Nat := 0
  lscale  : W32 := 0
  acount  : Nat := 0
  clipf   : W32 := 0
  pow1    : W32 := 0
  pow2    : W32 := 0
  opt     : OptBlock := {}
  prec    : PrecBlock := {}
deriving DecidableEq, Repr, Inhabited

/-- An exponent histogram record (R46, R47): the nonzero bins, the four further counts, the flags. -/
structure Hist where
  step      : Nat := 0
  complete  : Bool := false
  discarded : Bool := false
  sat       : Bool := false
  sflags    : W32 := 0
  bins      : List (Nat × Nat) := []
  nzero     : Nat := 0
  nsub      : Nat := 0
  ninf      : Nat := 0
  nnan      : Nat := 0
deriving DecidableEq, Repr, Inhabited

/-- A stash entry (R133, R134): one bucket share of one layer, with the published bits and the generation. -/
structure StashEnt where
  bucket : Nat
  layer  : Nat
  gen    : Nat
  slots  : Nat
  bits   : List W32
deriving DecidableEq, Repr, Inhabited

/-- An integer expansion set by `EXPAND_SET` (R33). -/
structure Expand where
  fmt    : Nat
  method : Nat
  zero   : Int
  scale  : W32
  table  : List W32
deriving DecidableEq, Repr, Inhabited

/-- The remote-write descriptor of a member for a bucket (R164, R175). -/
structure RwDesc where
  member : Nat
  bucket : Nat
  addr   : Nat
  key    : Nat
deriving DecidableEq, Repr, Inhabited

/-- A job on one plane, from the moment the plane takes `JOB_OPEN`.  `relaying`: the multicasts from other devices that are part way through,
as type, bucket, generation and comma; `cutLegs`: those among them that lost a member's leg to its fence (R131); `ackRuns`:
each destination's consecutive acknowledgement expiries (R136); `cutStep`: the job was fenced on the plane within a step (R47); `restore`:
the plane has taken `RESTORE_BEGIN` (R273); `waitWord`: the combined word with which a mirror waits for its arrays (R187, R261); `stopSeq`: the place of its full stop among those of the plane
(R120). -/
structure PJob where
  id        : Nat
  fs        : FState := .loading
  orec      : OptRec := {}
  opt       : OptBlock := {}
  prec      : PrecBlock := {}
  pendOpt   : List (Nat × OptBlock) := []
  pendPrec  : List (Nat × PrecBlock) := []
  u         : W32 := 0
  acount    : Nat := 1
  shares    : List Share := []
  group     : List Nat := []
  fenced    : List Nat := []
  reformSeen : Bool := false
  groupRec  : Nat := 0
  drainTaken : Bool := false
  pairSent  : Bool := false
  stepFlags : Flags := {}
  outcome   : Nat := 0
  total     : W32 := 0
  wordFlags : Flags := {}
  fencePend : Nat := 0
  floorRun  : Nat := 0
  slotMax   : Nat := 0
  clipc     : W32 := 0
  subgen    : Nat := 0
  notice    : List Byte := []
  retract   : List Byte := []
  histNow   : Hist := {}
  histLast  : Option Hist := none
  slog      : List (Nat × StepHdr) := []
  stashCur  : List StashEnt := []
  stashRet  : List StashEnt := []
  retGen    : Option Nat := none
  expands   : List Expand := []
  descs     : List RwDesc := []
  elidedPeers : List Nat := []
  syncs     : List W64 := []
  syncPhys  : List Nat := []
  rate      : RateBlock := {}
  pendRate  : Option RateBlock := none
  tc        : Nat := 0
  tp        : Nat := 0
  meterBad  : Bool := false
  ctrs      : Ctrs JCtr := []
  drrTurns  : List (Nat × Nat) := []
  refreshQ  : List (Nat × Nat) := []
  refLateSeen : Bool := false
  memDigs   : List (Nat × List Byte) := []
  relaying  : List (Nat × Nat × Nat × Nat) := []
  ackRuns   : List (Nat × Nat) := []
  cutStep   : Bool := false
  cutLegs   : List ((Nat × Nat × Nat × Nat) × Nat) := []
  restore   : Bool := false
  waitWord  : Option (W32 × Flags) := none
  stopSeq   : Nat := 0
deriving DecidableEq, Repr, Inhabited

/-! ### A plane -/

/-- A chunk set in the adder tree (R166). -/
structure ChunkSet where
  job    : Nat
  bucket : Nat
  chunk  : Nat
  pass   : Nat
deriving DecidableEq, Repr, Inhabited

/-- A multicast of gather responses that waits for its coalescing window (R127): the members who asked, and their requests as they came. -/
structure Gather where
  job      : Nat
  layer    : Nat
  gen      : Nat
  members  : List Nat
  retained : Bool := false
  reqs     : List (Nat × DevLane × Frame) := []
deriving DecidableEq, Repr, Inhabited

/-- A retained result (R135, R136): its chunks as element bits, the destinations that still owe an acknowledgement with
their consecutive expiries, the destinations that wait for a descriptor, whether it is held yet, and whether in the job's retention
area in HBM. -/
structure Retained where
  job      : Nat
  bucket   : Nat
  step     : Nat
  bits     : List W32
  bytes    : Nat
  owes     : List (Nat × Nat) := []
  needDesc : List Nat := []
  reported : List Nat := []
  admitted : Bool := false
  inHbm    : Bool := false
deriving DecidableEq, Repr, Inhabited

/-- A prefetched layer share (R132). -/
structure Prefetch where
  job    : Nat
  layer  : Nat
  gen    : Nat
  bytes  : Nat
deriving DecidableEq, Repr, Inhabited

/-- A held wait (R158): from a member (`member`, `stag`, answered by a frame) or from a command (`cmd`). -/
structure Wait where
  id      : Nat
  job     : Nat
  obj     : Nat
  operand : W64
  member  : Option Nat := none
  stag    : W32 := 0
  tmo     : Nat := 0
  sflags  : Nat := 0
  cmd     : Option Nat := none
deriving DecidableEq, Repr, Inhabited

/-- A frame held in the frame buffer (R17, R125 row 7, R181): its lane, the frame, whether it came relayed on a peer lane,
its cells, whether it lies in the overflow region, whether a gather request has gone on toward its other home devices (R129), and what a
later read of it finds (R177, R236). -/
structure HeldFrame where
  lane    : DevLane
  frame   : Frame
  cells   : Nat
  ovf     : Bool := false
  serve   : Bool := false
  relayed : Bool := false
  from'   : Option Nat := none
  later   : StoredFault := .none
deriving DecidableEq, Repr, Inhabited

/-- A received frame that waits for a credit behind the policer (R19, R20): the policer's current entry comes first, the entries of the
Parse queue next, and the frames that wait in the frame buffer for a Parse credit last. -/
structure Parked where
  lane  : DevLane
  frame : Frame
  cells : Nat
  ovf   : Bool := false
  later : StoredFault := .none
  work  : ItemFault := {}
deriving DecidableEq, Repr, Inhabited

/-- A chunk set in flight in the staging area of engine scratch (R165): its buffers are taken until it is added. -/
structure StageSet where
  job    : Nat
  bucket : Nat
  chunk  : Nat
  pass   : Nat
  bufs   : Nat
deriving DecidableEq, Repr, Inhabited

/-- A stage queue entry of R19.  A Spill entry is a chunk or, with `whole`, the completion of a bucket; a Publish entry carries the
descriptor the replicator will place and its lane. -/
structure QEntry where
  job    : Nat
  bucket : Nat
  chunk  : Nat
  pass   : Nat := 0
  member : Nat := 0
  whole  : Bool := false
  leg    : Option (Nat × Desc) := none
deriving DecidableEq, Repr, Inhabited

/-- A stage queue of R19: its entries, the entries its stage before it holds for want of credit, and the entries the next
stage has removed and is working on. -/
structure StageQ where
  entries : List QEntry := []
  waiting : List QEntry := []
  taken   : List QEntry := []
deriving DecidableEq, Repr, Inhabited

/-- A scalar pair in a Scalar up queue (R12, R21). -/
structure Pair where
  job   : Nat
  step  : Nat
  norm  : W32
  flags : Flags
deriving DecidableEq, Repr, Inhabited

/-- A word of a Scalar down queue (R21): a combined word, or a fence order with its cause. -/
inductive DownWord
  | combined (job step : Nat) (total : W32) (flags : Flags)
  | fence (job cause : Nat)
deriving DecidableEq, Repr, Inhabited

/-- A dispatched command in a Command in queue (R308). -/
structure PlaneCmd where
  held : Nat
  pkt  : Packet
deriving DecidableEq, Repr, Inhabited

/-- A board peer's scalar pair for the norm exchange (R188). -/
structure NormPair where
  job   : Nat
  step  : Nat
  dev   : Nat
  norm  : W32
  flags : Flags
deriving DecidableEq, Repr, Inhabited

/-- Copies of a NOTICE or RETRACT that have arrived (R187); the frame kept holds frame cells (R181). -/
structure NoticeCopy where
  job    : Nat
  src    : Nat
  op     : Nat
  frame  : Frame
  lanes  : List Nat
  done   : Bool := false
  cells  : Nat := 0
  ovf    : Bool := false
  later  : StoredFault := .none
deriving DecidableEq, Repr, Inhabited

/-- A checkpoint or log read in progress on a plane (R163, R271). -/
structure CkptJob where
  held    : Nat
  job     : Nat
  isLog   : Bool
  dest    : Nat
  rwkey   : Nat
  rwbase  : Nat
  step    : Nat
  started : Bool := false
  bytes   : Nat := 0
  gen     : Nat := 0
  waited  : Bool := false
deriving DecidableEq, Repr, Inhabited

/-- One plane (R8): everything it owns. -/
structure Plane where
  ps        : PState := .held
  railFault : Bool := false
  railsOn   : Bool := true
  cnt       : Nat := 0
  latch     : W32 := 0
  refSel    : Bool := false
  refLost   : Bool := false
  hbmThr    : Bool := false
  thermStep : Nat := 0
  dtemp     : Int := -32768
  hbmTemp   : Int := -32768
  vcore     : Nat := 0
  astat     : W32 := 0
  ctrs      : Ctrs PCtr := []
  lanes     : Vector Lane 16
  engines   : Vector Engine 2
  tokLend   : Nat := 0
  tokServe  : Nat := 0
  gphase    : Nat := 0
  pendPhase : Option Nat := none
  gateEnd   : Nat := 0
  window    : Bool := false
  cmdIn     : List PlaneCmd := []
  applyQ    : List PlaneCmd := []
  fenceQ    : List (Nat × Nat) := []
  scalarUp  : List Pair := []
  upWait    : List Pair := []
  scalarDown : List DownWord := []
  downWait  : List DownWord := []
  jobs      : List PJob := []
  freeSync  : List Nat := []
  waits     : List Wait := []
  nextWait  : Nat := 0
  gathers   : List Gather := []
  retained  : List Retained := []
  prefetch  : List Prefetch := []
  adder     : Option ChunkSet := none
  lastJob   : Nat := 0
  qParse    : StageQ := {}
  qAdmit    : StageQ := {}
  qGather   : StageQ := {}
  qSpill    : StageQ := {}
  qComplete : StageQ := {}
  qResult   : StageQ := {}
  qPublish  : StageQ := {}
  parked    : List Parked := []
  staged    : List StageSet := []
  held      : List HeldFrame := []
  suspects  : List Nat := []
  leaked    : List (Nat × Nat) := []
  notices   : List NoticeCopy := []
  norms     : List NormPair := []
  ckpts     : List CkptJob := []
  errLog    : List ErrRec := []
  errSeq    : Nat := 0
  errCounts : List (Nat × Nat) := []
  obs       : List Obs := []
  sampAdd   : Nat := 0
  sampVec   : Nat := 0
  sampMat   : Nat := 0
  tests     : List TestRun := []
  segSlot   : Bool := false
  retCells  : List Nat := []
  retSlots  : List Nat := []
  retScratch : List Nat := []
  retHbm    : List Nat := []
  retHeld   : List (Nat × Nat × Nat) := []
deriving DecidableEq, Repr, Inhabited

/-! ### The host port block -/

/-- A reply or report ready for the ring (R289). -/
structure Reply where
  tag     : W32
  opcode  : Nat
  status  : Nat
  report  : Bool
  irq     : Bool := false
  job     : Nat
  pmask   : Byte
  payload : List Byte
deriving DecidableEq, Repr, Inhabited

/-- Where a held command stands: taken and not yet executed; handed to planes; answered and waiting for the ring. -/
inductive Phase
  | taken | waiting | ready
deriving DecidableEq, Repr, Inhabited

/-- A command taken and not yet answered (R287): its packet, the planes that still owe an answer, the planes whose Command in queue has had
no entry free for it yet (R21), the answers (plane, status, section), and the reply once it is complete. -/
structure Held where
  id      : Nat
  pkt     : Packet
  phase   : Phase := .taken
  owes    : List Nat := []
  left    : List Nat := []
  answers : List (Nat × Status × List Byte) := []
  extra   : List Byte := []
  reply   : Option Reply := none
deriving DecidableEq, Repr, Inhabited

/-- An MSI-X table entry (R367): address, data, vector control. -/
structure MsixEnt where
  addr : W64 := 0
  data : W32 := 0
  ctrl : W32 := 1
deriving DecidableEq, Repr, Inhabited

/-- The host port block: aperture and dispatcher (R281 to R287, R356), reply area (R288, R358 to R361), reports (R292),
error summary (R362, R363), counters (R364), MSI-X (R367), error log (R248), and the device parameters of R249.  `cahdr` is the `LEN` read from the current packet's header plus 1
(0 while it has not been read); `lastLen` is the distance in bytes from `CATAIL` to the end of
the last packet taken while the tail has not moved past it (R282). -/
structure HostPort where
  catail    : Nat := 0
  caexp     : Nat := 0
  cahdr     : Nat := 0
  lastLen   : Nat := 0
  aperture  : Mem := []
  written   : List (Nat × Nat) := []
  carestart : Bool := false
  cacrc     : Nat := 0
  caovrun   : Nat := 0
  rabase    : W64 := 0
  ralog     : Nat := 9
  raen      : Bool := false
  radrain   : Bool := false
  rirqen    : Bool := false
  rptirqen  : Bool := false
  errirqen  : Bool := false
  rahead    : Nat := 0
  ratail    : Nat := 0
  rseqnext  : W32 := 0
  reports   : List Reply := []
  rptlost   : Nat := 0
  errsum    : W32 := 0
  hpfault   : W32 := 0
  hpcnt     : Nat := 0
  latch     : W32 := 0
  herrcnt   : Nat := 0
  herrlost  : Nat := 0
  herrLog   : List ErrRec := []
  herrCounts : List (Nat × Nat) := []
  pairdrop  : Nat := 0
  msix      : Vector MsixEnt 3
  msixPend  : BitVec 3 := 0
  held      : List Held := []
  cmdWait   : List (Nat × PlaneCmd) := []
  closeReplies : List (Nat × Nat) := []
  nextHeld  : Nat := 0
  obsretire : Nat := 4
  obsclear  : Nat := 8
  testint   : Nat := 900
  testgrace : Nat := 60
  staging   : Mem := []
  programming : Option (Nat × List Byte) := none
  calWriting : Option (Nat × List Byte) := none
  acount    : Nat := 0
deriving DecidableEq, Repr, Inhabited

/-- Pairs the combiner holds for a job and step (R12). -/
structure CombEnt where
  job   : Nat
  step  : Nat
  pairs : List (Nat × W32 × Flags)
deriving DecidableEq, Repr, Inhabited

/-- The scalar combiner (R12, R90, R242, R253): its pairs, the steps abandoned (job and step), and its chains' observation. -/
structure Combiner where
  ents     : List CombEnt := []
  dropped  : List (Nat × Nat) := []
  obs      : List Obs := []
deriving DecidableEq, Repr, Inhabited

/-! ### Boot, module and outputs -/

/-- A partition block of the manifest (R319). -/
structure PartBlock where
  hbmu      : Nat := 0
  slots     : Nat := 0
  jobceil   : Nat := 0
  partceil  : Nat := 0
  partburst : Nat := 0
  ovfmib    : Nat := 0
deriving DecidableEq, Repr, Inhabited

/-- The partition registers and the locked view (R321, R368, R369). -/
structure PartView where
  locked  : Bool := false
  bsize   : Nat := 0
  ukey    : Bool := false
  signer  : Bool := false
  lend    : PartBlock := {}
  serve   : PartBlock := {}
  gcycle  : Nat := 0
  gnwin   : Nat := 0
  gstart  : List Nat := []
  glen    : List Nat := []
  owner   : List Nat := []
  far     : List Nat := []
deriving DecidableEq, Repr, Inhabited

/-- Non-volatile contents (R313, R316, R322, R326) and the signatures that verify (R312): triples of key, covered message and
signature.  The last field is the model's own: the signatures of the delivered package, which are known to verify under a relation that the
manual does not give (notes/assumptions 8). -/
structure NonVol where
  serial    : List Byte
  opKeyHash : List Byte
  minSvn    : Nat
  slot      : List Byte
  cal       : List Byte
  idPub     : List Byte
  idCert    : List Byte
  validSigs : List (List Byte × List Byte × List Byte)
deriving DecidableEq, Repr, Inhabited

/-- Boot state and measurements (R314, R315, R324, R355); `svnBad`: step 7 could not raise `MINSVN` (R318). -/
structure Boot where
  bidx     : BitVec 3 := 0
  rstcause : Nat := 1
  recmode  : Bool := false
  bootstep : Nat := 0
  bcode    : Nat := 255
  fwver    : W32 := 0
  fsvn     : Nat := 0
  fwlen    : Nat := 0
  mboot    : List Byte := []
  mfw      : List Byte := []
  mman     : List Byte := []
  mcal     : List Byte := []
  manifest : List Byte := []
  calUsed  : List Byte := []
  calBad   : Bool := false
  svnBad   : Bool := false
deriving DecidableEq, Repr, Inhabited

/-- The module (R329 to R347): input, rails, resets, sideband pins, thermal trip, SMBus. -/
structure Module where
  vin       : Nat := 0
  inputGood : Bool := true
  mated     : Bool := true
  fuseOpen  : Bool := false
  overvolt  : Bool := false
  standby   : Bool := true
  railsOn   : Bool := true
  rstIn     : Bool := false
  perst     : Bool := false
  inReset   : Bool := false
  rstOutLow : Bool := true
  strap     : BitVec 3 := 0
  refIn     : Bool := false
  alertIn   : Bool := false
  alertStuck : Bool := false
  tripLatch : Bool := false
  pwrCap    : Bool := false
  power     : Nat := 0
  lowIn     : Bool := false
  diodes    : List Int := []
  smbusOut  : Option W16 := none
deriving DecidableEq, Repr, Inhabited

/-- What leaves the device: frames put on each fibre (device lane and bytes), MSI-X messages (address, data), and the bytes
written into host memory (R280).  A record of outputs, not state that any command reads (the model's own,
notes/assumptions 9). -/
structure Outputs where
  fibre   : List (Nat × List Byte) := []
  dormant : List Nat := []
  msix    : List (W64 × W32) := []
  hostMem : Mem := []
  read    : W64 := 0
deriving DecidableEq, Repr, Inhabited

/-- The device. -/
structure State where
  /-- The commands that are waiting, first in, first out. -/
  pending : List Instr
  /-- The next index of a free value (the model's own, notes/assumptions 2). -/
  fresh   : Nat
  nv      : NonVol
  mod     : Module
  boot    : Boot
  part    : PartView
  host    : HostPort
  comb    : Combiner
  groups  : List Nat
  jobs    : List Job
  planes  : Vector Plane 8
  out     : Outputs
deriving DecidableEq, Repr, Inhabited

/-- A plane right after the release of reset: held (R365), everything it owns empty or at its reset value. -/
def Plane.reset : Plane :=
  { lanes := Vector.replicate 16 default, engines := Vector.replicate 2 default, freeSync := List.range 2048 }

/-- The host port block right after the release of reset (R353 to R367). -/
def HostPort.reset : HostPort := { msix := Vector.replicate 3 {} }

/-- The non-volatile contents of a new module (R2, R313; notes/assumptions 14). -/
def NonVol.delivery : NonVol :=
  { serial := factorySerial, opKeyHash := zeros 64, minSvn := 0, slot := factoryPackage, cal := nominalCal factorySerial,
    idPub := zeros 2592, idCert := zeros 4627, validSigs := factorySigs }

/-- The machine right after reset: power has come up (R340), reset has just been released (boot time 0 of R314), the strap
reads 0, every register holds its reset value (R353), and the non-volatile contents are those of delivery (R2). -/
def State.reset : State :=
  { pending := [], fresh := 0, nv := NonVol.delivery, mod := { vin := 56000 }, boot := {}, part := {},
    host := HostPort.reset, comb := {}, groups := [], jobs := [], planes := Vector.replicate 8 Plane.reset, out := {} }

end Sys2Proof.Machine
end

