-- ==== Sys2Proof/Machine/Flags.lean ====
section
/-! DEFINITION. The arithmetic status flags (R42, R43), the flag word of a scalar pair (R12), and the exponent histogram
(R46). -/
namespace Sys2Proof.Machine

/-- `ASTAT` bits of R42. -/
def fInvalid : W32 := 0x001
def fOverflow : W32 := 0x002
def fUnderflow : W32 := 0x004
def fNanIn : W32 := 0x008
def fInfIn : W32 := 0x010
def fCvtOvf : W32 := 0x020
def fFmtRej : W32 := 0x040
def uAdd : W32 := 0x100
def uVec : W32 := 0x200
def uMat : W32 := 0x400
def uCvt : W32 := 0x800

/-- The flags of an event of unit `u`: bits [11:8] record which units set any of bits [6:0] (R42). -/
def unitFlags (u fl : W32) : W32 := if fl &&& 0x7F = 0 then 0 else (fl &&& 0x7F) ||| u

/-- The union of two flag words (R12: the combiner ORs the flag words). -/
def Flags.or (a b : Flags) : Flags :=
  { overflow := a.overflow || b.overflow, poisoned := a.poisoned || b.poisoned,
    abandon := a.abandon || b.abandon, drain := a.drain || b.drain }

/-- The flag word as bits, for the triplicate comparison of R242 (bit 0 overflow, 1 poisoned, 2 `ABANDON`, 3 `DRAIN`;
DESIGN CHOICE of the order of the bits, which no rule gives, notes/assumptions 12). -/
def Flags.bits (f : Flags) : Nat :=
  f.overflow.toNat + 2 * f.poisoned.toNat + 4 * f.abandon.toNat + 8 * f.drain.toNat

/-- The flag word of bits. -/
def Flags.ofBits (n : Nat) : Flags :=
  { overflow := n.testBit 0, poisoned := n.testBit 1, abandon := n.testBit 2, drain := n.testBit 3 }

/-- A count of the histogram, which saturates at 0xFFFFFFFF (R46). -/
def histInc (n : Nat) : Nat := min (n + 1) (2 ^ 32 - 1)

/-- One bin of the histogram counted up. -/
def histBin (bins : List (Nat × Nat)) (c : Nat) : List (Nat × Nat) :=
  (c, histInc ((bins.lookup c).getD 0)) :: bins.filter (fun p => p.1 != c)

/-- The histogram with one reduced FP32 value counted (R46): its bin, and the division of bins 0 and 255. -/
def histCount (h : Hist) (w : W32) : Hist :=
  let c := w.toNat / 2 ^ 23 % 256
  let frac := w.toNat % 2 ^ 23
  let full := (h.bins.lookup c).getD 0 = 2 ^ 32 - 1
  let h := { h with bins := histBin h.bins c, sat := h.sat || full }
  if c = 0 then
    if frac = 0 then { h with nzero := histInc h.nzero } else { h with nsub := histInc h.nsub }
  else if c = 255 then
    if frac = 0 then { h with ninf := histInc h.ninf } else { h with nnan := histInc h.nnan }
  else h

end Sys2Proof.Machine
end

