-- ==== Sys2Proof/Machine/Float.lean ====
section
/-! DEFINITION. Number formats and arithmetic: the common internal form (R31), FP32 sums, products, fused multiply-adds,
quotients and roots rounded once (R34, R35, R79), special values (R38 to R40), narrowing to E8M7 (R37, R44) and the
expansion of integer weights (R33). -/
namespace Sys2Proof.Machine

/-- The class of the internal form (R31). -/
inductive FCls
  | zero | fin | inf | nan
deriving DecidableEq, Repr, Inhabited

/-- The common internal form (R31): a finite nonzero value is `sig * 2 ^ exp` with the sign. -/
structure Fx where
  cls : FCls
  neg : Bool := false
  sig : Nat := 0
  exp : Int := 0
deriving DecidableEq, Repr, Inhabited

/-- Decodes a sign and magnitude code with `eb` exponent bits, `fb` fraction bits and a bias (R26, R27).  `noInf` is E4M3:
exponent code 15 is normal and only the fraction of all ones there is NaN. -/
def decodeCode (eb fb : Nat) (bias : Int) (noInf : Bool) (c : Nat) : Fx :=
  let neg := c.testBit (eb + fb)
  let e := c / 2 ^ fb % 2 ^ eb
  let f := c % 2 ^ fb
  if e = 2 ^ eb - 1 && (!noInf || f == 2 ^ fb - 1) then
    if f = 0 then { cls := .inf, neg := neg } else { cls := .nan }
  else if e = 0 then
    if f = 0 then { cls := .zero, neg := neg } else { cls := .fin, neg := neg, sig := f, exp := 1 - bias - fb }
  else { cls := .fin, neg := neg, sig := f + 2 ^ fb, exp := e - bias - fb }

/-- Decodes an FP32 word. -/
def fx (w : W32) : Fx := decodeCode 8 23 127 false w.toNat

/-- Decodes a code of a float format by its format code of R29; an integer or reserved format has no decode here. -/
def decodeFmt (fmt c : Nat) : Option Fx :=
  match fmt with
  | 0 => some (decodeCode 8 23 127 false c)
  | 1 => some (decodeCode 8 7 127 false c)
  | 2 => some (decodeCode 5 10 15 false c)
  | 3 => some (decodeCode 4 3 7 true c)
  | 4 => some (decodeCode 5 2 15 false c)
  | _ => none

/-- The width in bits of a format code (R26, R29); `none` for a reserved code. -/
def fmtBits (fmt : Nat) : Option Nat :=
  match fmt with
  | 0 => some 32
  | 1 => some 16
  | 2 => some 16
  | 3 => some 8
  | 4 => some 8
  | 8 => some 8
  | 9 => some 4
  | _ => none

/-- A float format of R26. -/
def fmtFloat (fmt : Nat) : Bool := fmt ≤ 4

/-- An integer format of R26. -/
def fmtInt (fmt : Nat) : Bool := fmt == 8 || fmt == 9

/-- The `n` element codes of a payload (R28: INT4 two to a byte, low half first). -/
def unpackCodes (fmt n : Nat) (bs : List Byte) : List Nat :=
  match fmtBits fmt with
  | some 4 => (bs.flatMap fun b => [b.toNat % 16, b.toNat / 16]).take n
  | some w => (chunksOf (w / 8) bs).map leNat |>.take n
  | none => []

/-- The payload bytes of FP32 words (R28). -/
def packFp32 (ws : List W32) : List Byte := ws.flatMap fun w => leBytes 4 w.toNat

/-- The payload bytes of E8M7 codes (R28). -/
def packE8m7 (ws : List W16) : List Byte := ws.flatMap fun w => leBytes 2 w.toNat

/-- The canonical quiet NaN (R38). -/
def qNaN : W32 := 0x7FC00000

/-- An infinity. -/
def infWord (neg : Bool) : W32 := if neg then 0xFF800000 else 0x7F800000

/-- A zero. -/
def zeroWord (neg : Bool) : W32 := if neg then 0x80000000 else 0

/-- A result and the flags its computation sets. -/
abbrev FR := W32 × W32

/-- The NaN result, which sets `INVALID` (R38, R39, R42). -/
def frNaN : FR := (qNaN, fInvalid)

/-- Rounds the exact nonzero magnitude `m * 2 ^ e` to FP32: to nearest even (R34), or by truncation (R35), where a magnitude
above the largest finite value becomes an infinity.  Sets `OVERFLOW` and `UNDERFLOW` (R42). -/
def roundFp32 (trunc neg : Bool) (m : Nat) (e : Int) : FR :=
  let top : Int := e + m.log2
  let q : Int := max (top - 23) (-149)
  let sh := q - e
  let up (M rem half : Nat) : Nat :=
    if trunc then M else if rem > half || (rem == half && M % 2 == 1) then M + 1 else M
  let (M, inexact) :=
    if sh ≤ 0 then (m * 2 ^ (-sh).toNat, false)
    else
      let d := 2 ^ sh.toNat
      (up (m / d) (m % d) (d / 2), m % d != 0)
  let code := M + (q + 149).toNat * 2 ^ 23
  let ovf := code ≥ 0x7F800000 || (trunc && inexact && code == 0x7F7FFFFF)
  if ovf then (infWord neg, fOverflow)
  else
    let w := zeroWord neg ||| BitVec.ofNat 32 code
    (w, if code < 2 ^ 23 then fUnderflow else 0)

/-- A sum of two exact finite values, not both zero, rounded once: zero from opposite signs is +0 (R34). -/
def addExact (an : Bool) (am : Nat) (ae : Int) (bn : Bool) (bm : Nat) (be : Int) : FR :=
  let e := min ae be
  let a : Int := (am * 2 ^ (ae - e).toNat : Nat)
  let b : Int := (bm * 2 ^ (be - e).toNat : Nat)
  let s := (if an then -a else a) + (if bn then -b else b)
  if s = 0 then (0, 0) else roundFp32 false (s < 0) s.natAbs e

/-- The sum of two decoded values (R34, R38, R39). -/
def addFx (a b : Fx) : FR :=
  match a.cls, b.cls with
  | .nan, _ | _, .nan => frNaN
  | .inf, .inf => if a.neg = b.neg then (infWord a.neg, 0) else frNaN
  | .inf, _ => (infWord a.neg, 0)
  | _, .inf => (infWord b.neg, 0)
  | .zero, .zero => (zeroWord (a.neg && b.neg), 0)
  | _, _ => addExact a.neg a.sig a.exp b.neg b.sig b.exp

/-- FP32 addition. -/
def fadd (a b : W32) : FR := addFx (fx a) (fx b)

/-- A word with its sign turned; a NaN is canonical (R38). -/
def fneg (a : W32) : W32 := if (fx a).cls = .nan then qNaN else a ^^^ 0x80000000

/-- FP32 subtraction. -/
def fsub (a b : W32) : FR := fadd a (fneg b)

/-- The product of two decoded values, rounded to nearest even, or truncated as R35 gives. -/
def mulFx (trunc : Bool) (a b : Fx) : FR :=
  let neg := a.neg != b.neg
  match a.cls, b.cls with
  | .nan, _ | _, .nan => frNaN
  | .inf, .zero | .zero, .inf => frNaN
  | .inf, _ | _, .inf => (infWord neg, 0)
  | .zero, _ | _, .zero => (zeroWord neg, 0)
  | .fin, .fin => roundFp32 trunc neg (a.sig * b.sig) (a.exp + b.exp)

/-- FP32 multiplication, to nearest even. -/
def fmul (a b : W32) : FR := mulFx false (fx a) (fx b)

/-- The fused multiply-add `a * b + c`, rounded once (R34). -/
def ffma (a b c : W32) : FR :=
  let x := fx a
  let y := fx b
  let z := fx c
  let neg := x.neg != y.neg
  if x.cls = .nan || y.cls = .nan || z.cls = .nan then frNaN
  else match x.cls, y.cls with
  | .inf, .zero | .zero, .inf => frNaN
  | .inf, _ | _, .inf => if z.cls = .inf && z.neg != neg then frNaN else (infWord neg, 0)
  | .zero, _ | _, .zero =>
    match z.cls with
    | .zero => (zeroWord (neg && z.neg), 0)
    | _ => addFx { cls := .zero, neg := neg } z
  | _, _ =>
    match z.cls with
    | .inf => (infWord z.neg, 0)
    | _ => addExact neg (x.sig * y.sig) (x.exp + y.exp) z.neg z.sig z.exp

/-- FP32 division, correctly rounded (R79); the special rows of R39. -/
def fdiv (a b : W32) : FR :=
  let x := fx a
  let y := fx b
  let neg := x.neg != y.neg
  match x.cls, y.cls with
  | .nan, _ | _, .nan => frNaN
  | .inf, .inf | .zero, .zero => frNaN
  | .inf, _ => (infWord neg, 0)
  | _, .inf => (zeroWord neg, 0)
  | .zero, _ => (zeroWord neg, 0)
  | _, .zero => (infWord neg, 0)
  | .fin, .fin =>
    let n := x.sig * 2 ^ 64
    roundFp32 false neg (2 * (n / y.sig) + (if n % y.sig = 0 then 0 else 1)) (x.exp - y.exp - 65)

/-- The integer square root, bit by bit from `2 ^ k` down. -/
def isqrtBits : Nat → Nat → Nat → Nat
  | 0, _, r => r
  | k + 1, n, r => isqrtBits k n (if (r + 2 ^ k) * (r + 2 ^ k) ≤ n then r + 2 ^ k else r)

/-- FP32 square root, correctly rounded (R79); a value below zero gives NaN (R39), and a zero keeps its sign. -/
def fsqrt (a : W32) : FR :=
  let x := fx a
  match x.cls with
  | .nan => frNaN
  | .zero => (zeroWord x.neg, 0)
  | .inf => if x.neg then frNaN else (infWord false, 0)
  | .fin =>
    if x.neg then frNaN
    else
      let odd := x.exp % 2 != 0
      let m := (if odd then 2 * x.sig else x.sig) * 2 ^ 64
      let e := if odd then x.exp - 1 else x.exp
      let r := isqrtBits 48 m 0
      roundFp32 false false (2 * r + (if r * r = m then 0 else 1)) (e / 2 - 33)

/-- The key that orders finite values and infinities. -/
def forder (a : W32) : Int :=
  if a.toNat < 2 ^ 31 then a.toNat else -((a.toNat : Int) - 2 ^ 31)

/-- `a > b` as IEEE 754 compares: false when either is NaN, and zeros of either sign are equal. -/
def fgt (a b : W32) : Bool := (fx a).cls != .nan && (fx b).cls != .nan && forder a > forder b

/-- `a ≥ b`. -/
def fge (a b : W32) : Bool := (fx a).cls != .nan && (fx b).cls != .nan && forder a ≥ forder b

/-- NaN test. -/
def isNaN (a : W32) : Bool := (fx a).cls == .nan

/-- Neither infinity nor NaN. -/
def isFinite (a : W32) : Bool := match (fx a).cls with
  | .zero | .fin => true
  | _ => false

/-- A decoded value as an FP32 word, exactly (R30: each float format decodes exactly into FP32). -/
def encodeFx (a : Fx) : W32 :=
  match a.cls with
  | .nan => qNaN
  | .inf => infWord a.neg
  | .zero => zeroWord a.neg
  | .fin => (roundFp32 false a.neg a.sig a.exp).1

/-- The flags of the decode of an operand that enters a unit from outside the operation (R39). -/
def inFlags (a : Fx) : W32 :=
  match a.cls with
  | .nan => fNanIn
  | .inf => fInfIn
  | _ => 0

/-- The flags of kernel input words (R39). -/
def inFlagsAll (ws : List W32) : W32 := ws.foldl (fun f w => f ||| inFlags (fx w)) 0

/-- FP32 to E8M7, to nearest even (R37); `CVTOVF` when a finite value became an infinity.  The conversion sets no other
flag (DEDUCED, notes/assumptions 13). -/
def e8m7Rne (x : W32) : W16 × W32 :=
  if isNaN x then (0x7FC0, 0)
  else
    let y := x.toNat + 0x7FFF + x.toNat / 2 ^ 16 % 2
    let o : W16 := BitVec.ofNat 16 (y / 2 ^ 16)
    (o, if isFinite x && o &&& 0x7FFF == 0x7F80 then fCvtOvf else 0)

/-- FP32 to E8M7 with the random value `r` (R44). -/
def e8m7Sr (x : W32) (r : W16) : W16 × W32 :=
  if isNaN x then (0x7FC0, 0)
  else
    let o : W16 := BitVec.ofNat 16 ((x.toNat + r.toNat) / 2 ^ 16)
    (o, if isFinite x && o &&& 0x7FFF == 0x7F80 then fCvtOvf else 0)

/-- The FP32 word of an E8M7 code: E8M7 is the upper half of FP32 (R26). -/
def ofE8m7 (c : W16) : W32 := BitVec.ofNat 32 (c.toNat * 2 ^ 16)

/-- A small integer as an exact value. -/
def ofIntFx (i : Int) : Fx := if i = 0 then { cls := .zero } else { cls := .fin, neg := i < 0, sig := i.natAbs, exp := 0 }

/-- A natural number as FP32, rounded to nearest even. -/
def ofNatF (n : Nat) : W32 := if n = 0 then 0 else (roundFp32 false false n 0).1

/-- The expansion of an integer code (R33): by the 16-entry table, or `(q - z) * s` rounded once. -/
def expandCode (x : Expand) (bits c : Nat) : FR :=
  let q := signed bits c
  if x.method = 1 then (x.table.getD (q + 8).toNat 0, 0)
  else mulFx false (ofIntFx (q - x.zero)) (fx x.scale)

/-- A running sum with the flags gathered. -/
def faccum (acc : FR) (w : W32) : FR :=
  let r := fadd acc.1 w
  (r.1, acc.2 ||| r.2)

/-- An infinity of either sign. -/
def isInf (a : W32) : Bool := (fx a).cls == .inf

/-- The first rule of R40 that applies, on a running sum `r` of `terms` in their order: infinities of one sign give that infinity, even
where the finite terms before them had overflowed to the other one (DEDUCED, notes/assumptions 52); the other rules are what the
additions give. -/
def specialSum (terms : List W32) (r : FR) : FR :=
  if isNaN r.1 && !terms.any isNaN then
    match terms.find? isInf with
    | some w => if terms.all fun x => !isInf x || x == w then (w, r.2 &&& ~~~fInvalid) else r
    | none => r
  else r

/-- The sum of words in list order from `s0` (R34, R40, R53). -/
def sumFrom (s0 : W32) (ws : List W32) : FR := specialSum (s0 :: ws) (ws.foldl faccum (s0, 0))

/-- The sum of words in list order from +0. -/
def fsum (ws : List W32) : FR := sumFrom 0 ws

end Sys2Proof.Machine
end

