-- ==== Sys2Proof/Machine/Mem.lean ====
section
/-! DEFINITION. Byte memories in canonical form: the command aperture (R281), the reply area in host memory (R288) and the
staging buffer (R317).  An unlisted address reads 0. -/
namespace Sys2Proof.Machine

/-- What an unlisted address reads as: zero (R317 for the staging buffer; DESIGN CHOICE for the other two,
notes/assumptions 7). -/
def memDefault : Byte := 0

/-- One byte. -/
def memRead : Mem → Nat → Byte
  | [], _ => memDefault
  | (k, v) :: m, a => if k = a then v else memRead m a

/-- Writes one byte, keeping the addresses rising and listing no byte equal to the default. -/
def memWrite : Mem → Nat → Byte → Mem
  | [], a, b => if b = memDefault then [] else [(a, b)]
  | (k, v) :: m, a, b =>
    if a < k then (if b = memDefault then (k, v) :: m else (a, b) :: (k, v) :: m)
    else if a = k then (if b = memDefault then m else (a, b) :: m)
    else (k, v) :: memWrite m a b

/-- Every listed address is at least `lo`, the addresses rise strictly, and no listed byte is the default. -/
def memWfFrom : Nat → Mem → Bool
  | _, [] => true
  | lo, (k, v) :: m => decide (lo ≤ k) && v != memDefault && memWfFrom (k + 1) m

/-- The canonical form. -/
def Memory.wf (m : Mem) : Bool := memWfFrom 0 m

/-- `n` bytes from `a`. -/
def memReadN (m : Mem) (a : Nat) : Nat → List Byte
  | 0 => []
  | n + 1 => memRead m a :: memReadN m (a + 1) n

/-- Bytes written from `a` upward. -/
def memWriteN (m : Mem) (a : Nat) : List Byte → Mem
  | [] => m
  | b :: bs => memWriteN (memWrite m a b) (a + 1) bs

/-- `n` bytes from offset `a` of a ring of `size` bytes (R281). -/
def ringRead (m : Mem) (size a : Nat) : Nat → List Byte
  | 0 => []
  | n + 1 => memRead m (a % size) :: ringRead m size (a + 1) n

/-- Bytes written from offset `a` of a ring of `size` bytes. -/
def ringWrite (m : Mem) (size a : Nat) : List Byte → Mem
  | [] => m
  | b :: bs => ringWrite (memWrite m (a % size) b) size (a + 1) bs

end Sys2Proof.Machine
end

