-- ==== Sys2Proof/Machine/Ops.lean ====
section
/-! DEFINITION. The named operations over the state: planes, lanes, jobs and members, counters, the error summary and MSI-X,
the report queue, and putting frames into Egress queues. -/
namespace Sys2Proof.Machine

/-! ### Planes and lanes -/

/-- The planes in ascending order. -/
def allPlanes : List PlaneIx := List.finRange 8

/-- The lanes of a plane in ascending order. -/
def allLanes : List LaneIx := List.finRange 16

/-- The planes of a mask, ascending. -/
def planesOf (m : Nat) : List PlaneIx := allPlanes.filter fun k => m.testBit k

/-- The lanes of a mask, ascending. -/
def lanesOf (m : Nat) : List LaneIx := allLanes.filter fun l => m.testBit l

def State.plane (s : State) (k : PlaneIx) : Plane := s.planes[k]

def State.setPlane (s : State) (k : PlaneIx) (p : Plane) : State := { s with planes := s.planes.set k p }

def State.updPlane (s : State) (k : PlaneIx) (f : Plane → Plane) : State := s.setPlane k (f (s.plane k))

/-- Device lane number of a lane of a plane (R7). -/
def devLane (k : PlaneIx) (l : LaneIx) : DevLane := ⟨k.val * 16 + l.val, by omega⟩

/-- The plane of a device lane (R7). -/
def planeOf (d : DevLane) : PlaneIx := ⟨d.val / 16, by omega⟩

/-- The lane within the plane (R7). -/
def laneIn (d : DevLane) : LaneIx := ⟨d.val % 16, by omega⟩

/-- The engine of a lane: 0 for lanes 0 to 7, 1 for lanes 8 to 15 of the plane (R213). -/
def engineIn (l : LaneIx) : Fin 2 := ⟨l.val / 8, by omega⟩

def State.lane (s : State) (d : DevLane) : Lane := (s.plane (planeOf d)).lanes[laneIn d]

def Plane.updLane (p : Plane) (l : LaneIx) (f : Lane → Lane) : Plane :=
  { p with lanes := p.lanes.set l (f p.lanes[l]) }

def State.updLane (s : State) (d : DevLane) (f : Lane → Lane) : State :=
  s.updPlane (planeOf d) fun p => p.updLane (laneIn d) f

/-- The board index of this device (R334). -/
def State.bidx (s : State) : Nat := s.boot.bidx.toNat

/-- The far device of a peer lane; 0xFF for a lane that is not a peer lane (R319, R369). -/
def State.farDev (s : State) (d : DevLane) : Nat := s.part.far.getD d.val 0xFF

/-- A peer lane (R183). -/
def State.isPeer (s : State) (d : DevLane) : Bool := s.farDev d != 0xFF

/-- The owner code of a lane; a peer lane is always shared (R195). -/
def State.laneOwner (s : State) (d : DevLane) : Nat := if s.isPeer d then 2 else s.part.owner.getD d.val 0

/-- Takes the next index of a free value. -/
def State.takeFresh (s : State) : Nat × State := (s.fresh, { s with fresh := s.fresh + 1 })

/-- Effects of a list of entries, one after another. -/
def State.each {α : Type} (s : State) (l : List α) (f : State → α → State) : State := l.foldl f s

/-! ### Counters -/

def State.laneCtr (s : State) (d : DevLane) (c : LCtr) (n : Nat := 1) : State :=
  s.updLane d fun l => { l with ctrs := ctrAdd l.ctrs c n }

def State.planeCtr (s : State) (k : PlaneIx) (c : PCtr) (n : Nat := 1) : State :=
  s.updPlane k fun p => { p with ctrs := ctrAdd p.ctrs c n }

/-- A frame discarded on a plane (R179). -/
def State.frmDrop (s : State) (k : PlaneIx) : State := s.planeCtr k .frmDrop

/-! ### Jobs -/

def State.findJob (s : State) (id : Nat) : Option Job := s.jobs.find? fun j => j.id == id

def State.updJob (s : State) (id : Nat) (f : Job → Job) : State :=
  { s with jobs := s.jobs.map fun j => if j.id == id then f j else j }

def Plane.findPJob (p : Plane) (id : Nat) : Option PJob := p.jobs.find? fun j => j.id == id

def Plane.updPJob (p : Plane) (id : Nat) (f : PJob → PJob) : Plane :=
  { p with jobs := p.jobs.map fun j => if j.id == id then f j else j }

def State.pjob (s : State) (k : PlaneIx) (id : Nat) : Option PJob := (s.plane k).findPJob id

def State.updPJob (s : State) (k : PlaneIx) (id : Nat) (f : PJob → PJob) : State :=
  s.updPlane k fun p => p.updPJob id f

def State.jobCtr (s : State) (k : PlaneIx) (id : Nat) (c : JCtr) (n : Nat := 1) : State :=
  s.updPJob k id fun j => { j with ctrs := ctrAdd j.ctrs c n }

def State.jobCtr64 (s : State) (k : PlaneIx) (id : Nat) (c : JCtr) (n : Nat) : State :=
  s.updPJob k id fun j => { j with ctrs := ctrAdd64 j.ctrs c n }

def PJob.updShare (j : PJob) (b : Nat) (f : Share → Share) : PJob :=
  { j with shares := j.shares.map fun h => if h.bucket == b then f h else h }

def PJob.findShare (j : PJob) (b : Nat) : Option Share := j.shares.find? fun h => h.bucket == b

def State.updShare (s : State) (k : PlaneIx) (id b : Nat) (f : Share → Share) : State :=
  s.updPJob k id fun j => j.updShare b f

/-- A job in `LOADING`, `RUNNING`, `RECLAIMING`, `RECLAIMED` or `FENCED` (R147, R297: open on the device). -/
def JState.isOpen : JState → Bool
  | .loading | .running | .reclaiming | .reclaimed | .fenced => true
  | .free | .defining => false

/-- A job whose operations still run: `LOADING`, `RUNNING` or `RECLAIMING`. -/
def JState.isActive : JState → Bool
  | .loading | .running | .reclaiming => true
  | _ => false

/-- A job in `RUNNING` or `RECLAIMING`. -/
def JState.isRunning : JState → Bool
  | .running | .reclaiming => true
  | _ => false

/-- The serving bit of `JCLASS` (R141). -/
def JobHdr.serving (h : JobHdr) : Bool := h.jclass.testBit 7

/-- `REDUND` (R143). -/
def JobHdr.redund (h : JobHdr) : Nat := h.jmode % 4

/-- `STAGING` (R143). -/
def JobHdr.staging (h : JobHdr) : Bool := h.jmode.testBit 2

/-- `THIN` (R143). -/
def JobHdr.thin (h : JobHdr) : Bool := h.jmode.testBit 3

/-- `OPFLAGS` bits of R70. -/
def OptBlock.nesterov (o : OptBlock) : Bool := o.opflags.testBit 0
def OptBlock.meandiv (o : OptBlock) : Bool := o.opflags.testBit 1
def OptBlock.fixedscale (o : OptBlock) : Bool := o.opflags.testBit 2
def OptBlock.earlypub (o : OptBlock) : Bool := o.opflags.testBit 3
def OptBlock.stochrnd (o : OptBlock) : Bool := o.opflags.testBit 4

/-- The bucket table entry of a bucket. -/
def Job.bucketDesc (j : Job) (b : Nat) : Option BucketDesc := j.buckets.find? fun d => d.bucket == b

/-- `LSHR` form of a job's planes, ascending. -/
def Job.planes (j : Job) : List PlaneIx := planesOf j.hdr.planes.toNat

/-- The plane of an element address under the stripe map (R146). -/
def JobHdr.planeOfAddr (h : JobHdr) (a : Nat) : Nat :=
  let ps := maskList 8 h.planes.toNat
  ps.getD (a / 2 ^ h.stripe % ps.length) 0

/-- The placement entry in which a bucket lies (R145). -/
def Job.placeOf (j : Job) (d : BucketDesc) : Option Place :=
  j.places.find? fun p => p.pbase ≤ d.elembase && d.elembase + d.nelem ≤ p.pbase + p.pcount

/-- The home device of a bucket: the device itself where `NPLACE` is 0 (R145). -/
def State.homeDev (s : State) (j : Job) (b : Nat) : Nat :=
  match j.bucketDesc b with
  | none => s.bidx
  | some d => match j.placeOf d with
    | some p => p.pdev
    | none => s.bidx

/-- The mirror device mask of a bucket (R145, R259). -/
def Job.mirrorMask (j : Job) (b : Nat) : Nat :=
  match j.bucketDesc b with
  | none => 0
  | some d => match j.placeOf d with
    | some p => p.pmirror
    | none => 0

/-- The devices that keep copies of a bucket and add its board-wide value: home and mirrors (R55, R259, R260). -/
def State.keepers (s : State) (j : Job) (b : Nat) : List Nat := (s.homeDev j b :: maskList 8 (j.mirrorMask b)).dedup

/-! ### Members -/

/-- The lane of member `m` (member-table number) on plane `k` (R143). -/
def Job.memberLane (j : Job) (k : PlaneIx) (m : Nat) : LaneIx :=
  match j.members[m]? with
  | some d => ⟨d.mlanes / 16 ^ k.val % 16, Nat.mod_lt _ (by decide)⟩
  | none => 0

/-- The device that member `m` attaches to. -/
def Job.memberDev (j : Job) (m : Nat) : Nat := (j.members[m]?.map (·.mdev)).getD 0xFF

/-- The member of the job, by member-table number, on a lane of this device's plane (R199). -/
def State.laneMember (s : State) (j : Job) (k : PlaneIx) (l : LaneIx) : Option Nat :=
  (List.range j.members.length).find? fun m => j.memberDev m == s.bidx && j.memberLane k m == l

/-- The group number of a member on a plane (R7, R154). -/
def PJob.groupNo (j : PJob) (m : Nat) : Option Nat := j.group.findIdx? (· == m)

/-- The members of the plane's current group that are not fenced on it. -/
def PJob.liveMembers (j : PJob) : List Nat := j.group.filter fun m => !j.fenced.contains m

/-- The members of the group that attach to this device, not fenced on the plane. -/
def State.localLive (s : State) (j : Job) (pj : PJob) : List Nat := pj.liveMembers.filter fun m => j.memberDev m == s.bidx

/-- The devices of the job: those of members or placement entries, mirrors among them (R167, R168, R259), this one included. -/
def State.jobDevs (s : State) (j : Job) : List Nat :=
  (List.range 8).filter fun d =>
    d == s.bidx || j.members.any (·.mdev == d) || j.places.any fun p => p.pdev == d || hasBit p.pmirror d

/-- The tree table of a plane: the lanes of the live group members attached to device `d` (R129). -/
def Job.treeMask (j : Job) (pj : PJob) (k : PlaneIx) (d : Nat) : Nat :=
  listMask ((pj.liveMembers.filter fun m => j.memberDev m == d).map fun m => (j.memberLane k m).val).dedup

/-! ### The error summary, MSI-X and reports -/

/-- `ERRSUM` bit numbers (R362). -/
def esBadAcc : Nat := 16
def esPairDrp : Nat := 17
def esHpFlt : Nat := 15
def esUpAlert : Nat := 14
def esRptLost : Nat := 13
def esErrLost : Nat := 12
def esRetRec : Nat := 11
def esObsRec : Nat := 10
def esPoisRec : Nat := 9
def esHErr : Nat := 8

/-- Sends the message of an MSI-X vector, or sets its pending bit while it is masked (R367). -/
def State.msixSend (s : State) (v : Fin 3) : State :=
  let e := s.host.msix[v]
  if e.ctrl &&& 1 = 1 then { s with host := { s.host with msixPend := s.host.msixPend ||| ((1 : BitVec 3) <<< v.val) } }
  else { s with out := { s.out with msix := s.out.msix ++ [(e.addr, e.data)] } }

/-- Sets bits of `ERRSUM`; vector 2 is sent when a bit changes from 0 to 1 while `ERRIRQEN` is 1 (R362, R366). -/
def State.setErrsum (s : State) (bits : List Nat) : State :=
  let old := s.host.errsum
  let new := old ||| BitVec.ofNat 32 (listMask bits)
  let s := { s with host := { s.host with errsum := new } }
  if new != old && s.host.errirqen then s.msixSend 2 else s

/-- A host access discarded with `BADACC` (R351, R352, R359 to R361). -/
def State.badAcc (s : State) : State := s.setErrsum [esBadAcc]

/-- Posts a report into the queue of R292; when 256 wait, the oldest is dropped and counted. -/
def State.report (s : State) (code : Nat) (status : Nat) (job : Nat) (pmask : Byte) (payload : List Byte) : State :=
  let r : Reply := { tag := 0, opcode := code, status := status, report := true, job := job, pmask := pmask, payload := payload }
  if s.host.reports.length < 256 then { s with host := { s.host with reports := s.host.reports ++ [r] } }
  else
    let s := { s with host := { s.host with
      reports := s.host.reports.drop 1 ++ [r], rptlost := satAdd 32 s.host.rptlost 1 } }
    s.setErrsum [esRptLost]

/-- The plane mask of one plane. -/
def planeBit (k : PlaneIx) : Byte := BitVec.ofNat 8 (2 ^ k.val)

/-- Status values of R295. -/
def Status.code : Status → Nat
  | .ok => 0x0000 | .busy => 0x0001 | .length => 0x0002 | .opcode => 0x0003 | .param => 0x0004 | .partition => 0x0005
  | .nojob => 0x0006 | .quota => 0x0007 | .timeout => 0x0008 | .fenced => 0x0009 | .poisoned => 0x000A
  | .generation => 0x000B | .check => 0x000C | .shardLost => 0x000D | .deadline => 0x000E | .format => 0x000F
  | .crcerr => 0x0010 | .planedown => 0x0011 | .auth => 0x0012 | .recovery => 0x0013

/-! ### Frame types (R173) -/

def opGrad : Nat := 0x01
def opPartial : Nat := 0x02
def opDone : Nat := 0x03
def opStatus : Nat := 0x04
def opLoad : Nat := 0x05
def opGreq : Nat := 0x10
def opParm : Nat := 0x11
def opRslt : Nat := 0x12
def opAck : Nat := 0x13
def opRdreq : Nat := 0x14
def opNotice : Nat := 0x15
def opRetract : Nat := 0x16
def opSync : Nat := 0x18
def opDesc : Nat := 0x19
def opCkpt : Nat := 0x1A
def opSread : Nat := 0x20
def opDigest : Nat := 0x28
def opNorm : Nat := 0x30
def opJdig : Nat := 0x31

/-- The operation input of the flow hash (R184). -/
def fopOf (op : Nat) : Nat :=
  if op = opCkpt || op = opLoad then 1 else if op = opNorm || op = opJdig then 2 else 0

/-- The flow hash of R184. -/
def flowHash (job bkt fop k : Nat) : Nat := (job + 0x9E37 * bkt + 0x79B9 * fop + 0x7F4A * k) % 65536

/-- The job's peer lanes toward a device on a plane, in ascending lane number (R183). -/
def Job.peerLanes (j : Job) (k : PlaneIx) (dev : Nat) : List Nat :=
  (j.peers.filter fun p => p.1 == k.val && p.2.1 == dev).map (·.2.2)

/-- The lane to which a flow is pinned (R184); none where the list is empty. -/
def Job.pinned (j : Job) (k : PlaneIx) (dev bkt op : Nat) : Option LaneIx :=
  let ls := j.peerLanes k dev
  (ls[flowHash j.id (if fopOf op = 2 then 0 else bkt) (fopOf op) k.val % ls.length]?).map fun l => Fin.ofNat 16 l

/-! ### Stage queues (R19) -/

/-- Depths of the stage queues in the order of R19. -/
def queueDepth (q : Nat) : Nat := [512, 512, 256, 128, 64, 256, 64, 128].getD q 128

/-- An entry into a stage queue; without a credit it waits at the stage before (R19). -/
def StageQ.push (q : StageQ) (depth : Nat) (e : QEntry) : StageQ :=
  if q.entries.length < depth && q.waiting.isEmpty then { q with entries := q.entries ++ [e] }
  else { q with waiting := q.waiting ++ [e] }

/-- The stage before moves a waiting entry in as a credit returns. -/
def StageQ.letIn (q : StageQ) : StageQ :=
  match q.waiting with
  | [] => q
  | w :: ws => { q with entries := q.entries ++ [w], waiting := ws }

/-- The next stage removes the head, which it then works on; the credit lets a waiting entry in. -/
def StageQ.credit (q : StageQ) : StageQ :=
  match q.entries with
  | [] => q
  | e :: es => StageQ.letIn { q with entries := es, taken := q.taken ++ [e] }

/-- The head dropped for a parity failure (R236). -/
def StageQ.dropHead (q : StageQ) : StageQ := StageQ.letIn { q with entries := q.entries.drop 1 }

/-- The entry a stage works on next: one it has taken, or the head, which it removes. -/
def StageQ.next (q : StageQ) : Option (QEntry × StageQ) :=
  match q.taken with
  | e :: es => some (e, { q with taken := es })
  | [] => match q.entries with
    | e :: es => some (e, StageQ.letIn { q with entries := es })
    | [] => none

/-- The entries a stage consumes out of order: those that satisfy a test leave the queue, and each credit lets a waiting entry in. -/
def StageQ.remove (q : StageQ) (f : QEntry → Bool) : StageQ :=
  let r : StageQ := { entries := q.entries.filter (!f ·), waiting := q.waiting.filter (!f ·), taken := q.taken.filter (!f ·) }
  (List.range (q.entries.length - r.entries.length)).foldl (fun q _ => q.letIn) r

/-- A queue of a plane by its number in R19. -/
def Plane.queue (p : Plane) (q : Nat) : StageQ :=
  match q with
  | 0 => p.qParse
  | 1 => p.qAdmit
  | 2 => p.qGather
  | 3 => p.qSpill
  | 4 => p.qComplete
  | 5 => p.qResult
  | _ => p.qPublish

def Plane.setQueue (p : Plane) (q : Nat) (x : StageQ) : Plane :=
  match q with
  | 0 => { p with qParse := x }
  | 1 => { p with qAdmit := x }
  | 2 => { p with qGather := x }
  | 3 => { p with qSpill := x }
  | 4 => { p with qComplete := x }
  | 5 => { p with qResult := x }
  | _ => { p with qPublish := x }

/-- The queue holds nothing, and nothing waits before it. -/
def StageQ.idle (q : StageQ) : Bool := q.entries.isEmpty && q.waiting.isEmpty && q.taken.isEmpty

/-- The stage before has no credit: the queue is full, or that stage already holds an entry (R19). -/
def StageQ.stalled (q : StageQ) (depth : Nat) : Bool := depth ≤ q.entries.length || !q.waiting.isEmpty

/-- What passes through the spill controller and the commit writer at once while their output credits last (R19): a chunk's Spill entry is
served, a bucket's completion moves on into the Complete queue, and Result blocks are written unless the Publish queue is full (DESIGN CHOICE,
notes/assumptions 53). -/
def Plane.flowFuel : Nat → Plane → Plane
  | 0, p => p
  | n + 1, p =>
    match p.qSpill.next with
    | none => p
    | some (e, q) =>
      if !e.whole then Plane.flowFuel n { p with qSpill := q }
      else if p.qComplete.stalled 64 then p
      else Plane.flowFuel n { p with qSpill := q, qComplete := p.qComplete.push 64 e }

/-- The pass-through of `flowFuel` over every entry there is, and the commit writer's. -/
def Plane.flow (p : Plane) : Plane :=
  let p := p.flowFuel (p.qSpill.entries.length + p.qSpill.waiting.length + p.qSpill.taken.length)
  if p.qPublish.stalled 64 then p else { p with qResult := {} }

/-! ### Egress -/

/-- The bytes a frame counts for meters and round robin (R206). -/
def Frame.bytes (f : Frame) : Nat := (pad64 f.payload).length + 36

/-- A job joins the end of a lane's active list when its first lent frame enters the lane's queue (R204). -/
def Lane.joinDrr (l : Lane) (d : Desc) : Lane :=
  if d.cls ≥ 0x80 || l.drr.any (fun e => e.job == d.job) then l
  else { l with drr := l.drr ++ [{ job := d.job }] }

/-- A descriptor into an Egress queue: beyond its 128 entries it waits before the queue (R19). -/
def Lane.push (l : Lane) (d : Desc) : Lane :=
  if l.egress.length < 128 && l.egWait.isEmpty then { l.joinDrr d with egress := l.egress ++ [d] }
  else { l with egWait := l.egWait ++ [d] }

/-- The dead lanes of a job on a plane: peer lanes that went down since it was opened (R193). -/
def State.deadPeer (s : State) (k : PlaneIx) (job : Nat) (l : LaneIx) : Bool :=
  ((s.pjob k job).map fun j => j.elidedPeers.contains l.val).getD false

/-- The replicator places a descriptor in the Egress queue of a lane.  A frame for a peer lane that is down, or was down since the job was
opened, is dropped and counted in `PEERDROP` (R193); one for a member lane that is not `UP`, in `DOWNDROP` (R226). -/
def State.place (s : State) (k : PlaneIx) (l : LaneIx) (d : Desc) : State :=
  let dl := devLane k l
  let ln := s.lane dl
  if s.isPeer dl && (ln.st != .up || s.deadPeer k d.job l) then s.laneCtr dl .peerDrop
  else if ln.st != .up then s.laneCtr dl .downDrop
  else s.updLane dl fun n => n.push d

/-- The replicator holds a descriptor for which its Egress queue has no credit, or work waits for it in the Publish queue: it issues nothing
further (R19). -/
def Plane.replicatorBusy (p : Plane) : Bool := p.lanes.any (fun l => !l.egWait.isEmpty) || !p.qPublish.idle

/-- Hands a descriptor to the replicator, which places it at once, or once the work before it has been placed (R19; one Publish entry for
each descriptor, DESIGN CHOICE, notes/assumptions 53). -/
def State.enqueue (s : State) (k : PlaneIx) (l : LaneIx) (d : Desc) : State :=
  if (s.plane k).replicatorBusy then
    let e : QEntry := { job := d.job, bucket := d.frame.hdr.bucket, chunk := d.frame.hdr.chunk, leg := some (l.val, d) }
    s.updPlane k fun p => { p with qPublish := p.qPublish.push 64 e }
  else s.place k l d

/-- The replicator takes up waiting Publish entries until an Egress queue has no credit again (R19). -/
def State.replicatorFuel (k : PlaneIx) : Nat → State → State
  | 0, s => s
  | n + 1, s =>
    if (s.plane k).lanes.any (fun l => !l.egWait.isEmpty) then s
    else match (s.plane k).qPublish.next with
      | none => s
      | some (e, q) =>
        let s := s.updPlane k fun p => { p with qPublish := q }
        match e.leg with
        | none => State.replicatorFuel k n s
        | some (l, d) => State.replicatorFuel k n (s.place k (Fin.ofNat 16 l) d)

/-- Entries of a queue, those before it and those taken included. -/
def StageQ.size (q : StageQ) : Nat := q.entries.length + q.waiting.length + q.taken.length

/-- The replicator goes on after a credit has returned, and the commit writer behind it. -/
def State.replicator (s : State) (k : PlaneIx) : State :=
  (State.replicatorFuel k (s.plane k).qPublish.size s).updPlane k Plane.flow

/-- The class of the frames a job sends (R196). -/
def Job.cls (j : Job) : Nat := j.hdr.jclass

/-- What a frame passed on keeps of the frame buffer until it leaves (R181), and what the serialiser finds when it reads it (R177). -/
structure Keep where
  cells : Nat := 0
  ovf   : Bool := false
  later : StoredFault := .none
deriving DecidableEq, Repr, Inhabited

/-- A transit-form frame to plane `k` of another device, on the pinned lane (R184). -/
def State.toDevice (s : State) (k : PlaneIx) (j : Job) (dev : Nat) (f : Frame) (bkt : Nat) (multi : Bool := false)
    (keep : Keep := {}) : State :=
  match j.pinned k dev bkt f.hdr.op with
  | none => s
  | some l =>
    let f := { f with hdr := { f.hdr with srcdev := s.bidx, cls := j.cls, job := j.id } }
    s.enqueue k l { frame := f, job := j.id, cls := j.cls, multi := multi, cells := keep.cells, ovf := keep.ovf, later := keep.later }

/-- A multicast's copy for another device, with that device's local mask; a mask with no bit set is never sent (R128, R129). -/
def State.toTree (s : State) (k : PlaneIx) (j : Job) (pj : PJob) (dev : Nat) (f : Frame) : State :=
  let mask := j.treeMask pj k dev
  if mask = 0 then s else s.toDevice k j dev { f with hdr := { f.hdr with mask := mask } } f.hdr.bucket true

/-- The delivery form for a member under native collectives: the descriptor's address plus the byte offset, and the key (R164, R172).  A
checkpoint frame of this plane carries the command's address and key (R163); one from another device, which the transit form gives none, takes
them from the descriptor (R164, R185; DEDUCED, notes/assumptions 46). -/
def deliver (j : Job) (pj : PJob) (m : Nat) (f : Frame) : Frame :=
  let h := { f.hdr with mask := 0, cls := 0, memb := 0, uni := false, srcdev := 0 }
  if h.op = opCkpt && h.rw then { f with hdr := h }
  else if j.hdr.staging || !(h.op = opParm || h.op = opRslt || h.op = opCkpt) then { f with hdr := { h with rw := false, rwaddr := 0, rwkey := 0 } }
  else match pj.descs.find? (fun d => d.member == m && d.bucket == h.bucket) with
    | none => { f with hdr := { h with rw := false, rwaddr := 0, rwkey := 0 } }
    | some d =>
      let w := ((fmtBits h.fmt).getD 32) / 8
      { f with hdr := { h with rw := true, rwaddr := (d.addr + h.elemoff * w) % 2 ^ 64, rwkey := d.key } }

/-- A frame to one member: on its lane here, or with `UNI` and `MEMB` through the device it attaches to (R185). -/
def State.toMember (s : State) (k : PlaneIx) (j : Job) (pj : PJob) (m : Nat) (f : Frame) (multi : Bool := false) : State :=
  if j.memberDev m = s.bidx then
    s.enqueue k (j.memberLane k m) { frame := deliver j pj m f, job := j.id, cls := j.cls, multi := multi }
  else
    let f := { f with hdr := { f.hdr with uni := true, memb := (pj.groupNo m).getD 0 } }
    s.toDevice k j (j.memberDev m) f f.hdr.bucket multi

/-- The legs of a multicast on this device, in ascending lane number (R128); of a frame passed on from the frame buffer, the first leg keeps
its cells (DESIGN CHOICE, notes/assumptions 51). -/
def State.toLocal (s : State) (k : PlaneIx) (j : Job) (pj : PJob) (ms : List Nat) (f : Frame) (keep : Keep := {}) : State :=
  let ms := ms.filter fun m => j.memberDev m == s.bidx
  let legs := allLanes.filterMap fun l => (ms.find? fun m => j.memberLane k m == l).map fun m => (l, m)
  s.each legs.zipIdx fun s x =>
    s.enqueue k x.1.1 { frame := deliver j pj x.1.2 f, job := j.id, cls := j.cls, multi := true,
                        cells := if x.2 = 0 then keep.cells else 0, ovf := keep.ovf, later := keep.later }

/-- A multicast to members: the local legs, then one transit copy for each other device of theirs (R129). -/
def State.multicast (s : State) (k : PlaneIx) (j : Job) (pj : PJob) (ms : List Nat) (f : Frame) : State :=
  let s := s.toLocal k j pj ms f
  s.each ((List.range 8).filter fun d => d != s.bidx && ms.any fun m => j.memberDev m == d) fun s d =>
    s.toTree k j pj d f

/-- A `NOTICE` or `RETRACT`: to every live member here, and one copy on every lane of the list toward each device that has
members of the job (R187). -/
def State.multicastAll (s : State) (k : PlaneIx) (j : Job) (pj : PJob) (f : Frame) : State :=
  let s := s.toLocal k j pj pj.liveMembers f
  s.each ((List.range 8).filter fun d => d != s.bidx && j.treeMask pj k d != 0) fun s d =>
    s.each (j.peerLanes k d) fun s l =>
      let f := { f with hdr := { f.hdr with srcdev := s.bidx, cls := j.cls, mask := j.treeMask pj k d } }
      s.enqueue k (Fin.ofNat 16 l) { frame := f, job := j.id, cls := j.cls, multi := true }

/-- The full step number whose value modulo 1,024 is `c6` and which lies nearest `cur`; the earlier one when two are equally
near (R174). -/
def nearStep (cur c6 : Nat) : Nat :=
  let up := cur + (c6 + 1024 - cur % 1024) % 1024
  if up = cur then cur
  else if up < 1024 then up
  else if cur - (up - 1024) ≤ up - cur then up - 1024 else up

/-- The `COMMA` of a step and pass (R51). -/
def commaOf (step pass : Nat) : Nat := step % 1024 * 64 + pass % 64

/-- Frame types whose `COMMA` carries a step in a status frame (R174). -/
def commaOps : List Nat := [opGrad, opPartial, opAck, opRdreq]

/-- The bucket a frame names: a descriptor frame names it in its payload (R164, R175), every other frame in its header. -/
def Frame.names (f : Frame) : Nat := if f.hdr.op = opDesc then fieldAt f.payload 2 2 else f.hdr.bucket

/-- The status frame that answers a frame (R174). -/
def statusFrame (j : Option PJob) (f : Frame) (st : Status) (chunk nmiss retry gen layer : Nat) : Frame :=
  let carries := commaOps.contains f.hdr.op
  let step := match j with
    | none => 0
    | some pj => if carries then nearStep pj.orec.step (f.hdr.comma / 64) else pj.orec.step
  let pass := match j with
    | none => 0
    | some _ => if carries then f.hdr.comma % 64 else 0
  { hdr := { op := opStatus, job := f.hdr.job, bucket := f.hdr.bucket, chunk := f.hdr.chunk, comma := f.hdr.comma }
    payload := leBytes 2 f.hdr.job ++ leBytes 2 st.code ++ leBytes 1 f.hdr.op ++ leBytes 1 pass ++ leBytes 2 f.names ++
      leBytes 8 step ++ leBytes 4 chunk ++ leBytes 4 nmiss ++ leBytes 4 retry ++ leBytes 4 gen ++ leBytes 2 layer ++ zeros 30 }

/-- Sends a frame back to where a frame came from: out of its lane in delivery form, or, for a frame relayed on a peer lane,
with `UNI` and the `MEMB` it carried (R185). -/
def State.replyTo (s : State) (lane : DevLane) (src : Frame) (f : Frame) : State :=
  let k := planeOf lane
  let cls := ((s.findJob src.hdr.job).map (·.cls)).getD 0
  if s.isPeer lane then
    match s.findJob src.hdr.job with
    | some j => s.toDevice k j (s.farDev lane) { f with hdr := { f.hdr with uni := true, memb := src.hdr.memb } } src.hdr.bucket
    | none =>
      let f := { f with hdr := { f.hdr with uni := true, memb := src.hdr.memb, srcdev := s.bidx } }
      s.enqueue k (laneIn lane) { frame := f, job := src.hdr.job, cls := cls }
  else s.enqueue k (laneIn lane) { frame := f, job := src.hdr.job, cls := cls }

/-- Answers a frame with a status frame (R174). -/
def State.status (s : State) (lane : DevLane) (src : Frame) (st : Status) (retry : Nat := 0) (gen : Nat := 0)
    (layer : Nat := 0) : State :=
  s.replyTo lane src (statusFrame (s.pjob (planeOf lane) src.hdr.job) src st src.hdr.chunk 0 retry gen layer)

/-- Sets `FMTREJ` in the plane's `ASTAT` (R42). -/
def State.fmtRej (s : State) (k : PlaneIx) : State :=
  s.updPlane k fun p => { p with astat := p.astat ||| fFmtRej }

/-- Sets arithmetic flags of a unit, plane-wide and in the job's per-step flags (R43). -/
def State.arith (s : State) (k : PlaneIx) (job : Nat) (unit fl : W32) : State :=
  let f := unitFlags unit fl
  s.updPlane k fun p => { p.updPJob job (fun j => { j with histNow := { j.histNow with sflags := j.histNow.sflags ||| f } }) with
    astat := p.astat ||| f }

end Sys2Proof.Machine
end

