-- ==== Sys2Proof/Machine/Operands.lean ====
section
/-! DEFINITION. The operand forms of the commands: the opcode tables of R296 to R306 with scopes, lengths and reserved fields
(R284 to R286, R370), and the layouts of the blocks that packets and frames carry (R48, R70, R77, R107, R143, R145, R197,
R272). -/
namespace Sys2Proof.Machine

/-- Scope of a command (opcode tables): device, plane mask, one plane, job, job and planes, job and one plane. -/
inductive Scope
  | d | p | onep | j | jp | jonep
deriving DecidableEq, Repr, Inhabited

/-- The scope of a counter set of `CNT_READ` (R297); `none` for a set that does not exist. -/
def cntScope (set : Nat) : Option Scope :=
  match set with
  | 1 | 2 | 3 | 4 | 5 | 6 => some .jp
  | 7 => some .jonep
  | 8 | 9 => some .onep
  | 10 => some .p
  | _ => none

/-- A field of a packet's parameters. -/
def pf (p : Packet) (off n : Nat) : Nat := fieldAt p.params off n

/-- Parameter bytes. -/
def psl (p : Packet) (off n : Nat) : List Byte := slice p.params off n

/-- The scope of an opcode, `none` for an opcode not in the tables (R296 to R306). -/
def opScope (op : Nat) (params : List Byte) : Option Scope :=
  match op with
  | 0x0101 | 0x0105 | 0x020D | 0x080A | 0x0901 | 0x0902 | 0x0903 => some .d
  | 0x0A01 | 0x0A02 | 0x0A03 | 0x0A04 | 0x0A05 | 0x0B01 | 0x0B02 => some .d
  | 0x0102 | 0x0104 | 0x0703 | 0x0705 | 0x0706 => some .p
  | 0x0802 | 0x0803 | 0x0804 | 0x0805 | 0x0806 | 0x0807 | 0x0808 | 0x0809 => some .p
  | 0x0704 | 0x0801 | 0x0904 => some .onep
  | 0x0103 => some ((cntScope (fieldAt params 0 1)).getD .d)
  | 0x0201 | 0x0202 | 0x0203 | 0x0204 | 0x0205 | 0x0206 | 0x0207 | 0x0209 | 0x020B | 0x020C => some .j
  | 0x0301 | 0x0302 | 0x0501 | 0x0503 | 0x0504 | 0x0701 => some .j
  | 0x0208 | 0x020A | 0x0303 | 0x0304 | 0x0306 | 0x0401 | 0x0402 | 0x0403 | 0x0502 | 0x0601 | 0x0602 | 0x0702 => some .jp
  | 0x0305 => some .jonep
  | _ => none

/-- The opcodes allowed in boot ROM recovery mode (R307). -/
def recoveryOps : List Nat := [0x0101, 0x0105, 0x0A01, 0x0A02, 0x0A03, 0x0A04]

/-- The parameter bytes an opcode requires, from the parameters themselves where they set the length (R285). -/
def paramLen (op : Nat) (params : List Byte) : Nat :=
  match op with
  | 0x0201 => 192 + 8 * fieldAt params 8 2
  | 0x0202 => 12 + (fieldAt params 8 4 + 3) / 4 * 4
  | 0x020C => 4 + 192 * fieldAt params 0 1
  | 0x0A02 => 8 + (fieldAt params 4 4 + 3) / 4 * 4
  | 0x0B02 => 4 + (fieldAt params 0 4 + 3) / 4 * 4
  | 0x0103 | 0x0207 | 0x0209 | 0x0306 | 0x0401 | 0x0704 | 0x0705 | 0x0801 | 0x0803 | 0x0804 | 0x0805 | 0x0806 | 0x0807
  | 0x0808 | 0x0904 | 0x0A03 => 4
  | 0x0403 | 0x0802 | 0x0809 | 0x0901 | 0x0A05 | 0x0B01 => 8
  | 0x0902 => 12
  | 0x020A | 0x0301 | 0x0302 | 0x0303 | 0x0304 | 0x0305 | 0x0703 => 16
  | 0x0208 => 24
  | 0x0701 | 0x0A04 => 32
  | 0x0503 => 40
  | 0x020B => 64
  | 0x0402 | 0x0501 => 72
  | _ => 0

/-- The opcode-specific `FLAGS` bits [15:8] an opcode defines: `CLEAR` (R296) and `STRESS` (R305). -/
def flagBits (op : Nat) : Nat := if op = 0x0104 || op = 0x0904 then 0x100 else 0

/-- Zero bytes at `[off, off + n)`. -/
def zeroAt (bs : List Byte) (off n : Nat) : Bool := allZero (slice bs off n)

/-- Reserved fields of an optimizer block (R70). -/
def optRsvdOk (b : List Byte) : Bool := fieldAt b 1 1 < 32 && zeroAt b 3 1

/-- Reserved fields of a preconditioner block (R107). -/
def precRsvdOk (b : List Byte) : Bool := zeroAt b 12 20

/-- Reserved fields of a rate contract (R197). -/
def rateRsvdOk (b : List Byte) : Bool := fieldAt b 0x14 1 < 2 && zeroAt b 0x15 11

/-- Reserved fields of a job header and its member entries (R143). -/
def hdrRsvdOk (b : List Byte) : Bool :=
  fieldAt b 3 1 < 16 && rateRsvdOk (slice b 0x30 32) && precRsvdOk (slice b 0x50 32) && zeroAt b 0x70 16 &&
  optRsvdOk (slice b 0x80 64) &&
  (List.range (fieldAt b 8 2)).all fun i => zeroAt b (192 + 8 * i + 1) 3

/-- Reserved fields of a step header (R272). -/
def stepHdrRsvdOk (b : List Byte) : Bool :=
  fieldAt b 3 1 < 2 && zeroAt b 4 4 && zeroAt b 0x30 16 && optRsvdOk (slice b 0x40 64) && precRsvdOk (slice b 0x80 32) &&
  zeroAt b 0xA0 32

/-- The reserved fields of an opcode's parameters are zero, and padding is zero (R5, R285, R143, R144). -/
def paramsZeroOk (op job : Nat) (b : List Byte) : Bool :=
  match op with
  | 0x0103 => zeroAt b 1 1
  | 0x0201 => hdrRsvdOk b && fieldAt b 0 2 == job
  | 0x0202 => zeroAt b 1 3 && 1 ≤ fieldAt b 0 1 && fieldAt b 0 1 ≤ 3 && allZero (b.drop (12 + fieldAt b 8 4))
  | 0x0208 => zeroAt b 1 3
  | 0x0209 => zeroAt b 3 1
  | 0x020A => zeroAt b 1 3
  | 0x020B => zeroAt b 5 3 && zeroAt b 0x3C 4
  | 0x020C => zeroAt b 1 3 && (List.range (fieldAt b 0 1)).all fun i => stepHdrRsvdOk (slice b (4 + 192 * i) 192)
  | 0x0303 | 0x0304 => zeroAt b 2 6
  | 0x0305 => zeroAt b 2 2
  | 0x0306 => zeroAt b 2 2
  | 0x0401 => zeroAt b 2 2
  | 0x0501 => optRsvdOk (slice b 8 64)
  | 0x0503 => precRsvdOk (slice b 8 32)
  | 0x0701 => rateRsvdOk b
  | 0x0703 => zeroAt b 2 2 && zeroAt b 13 3
  | 0x0704 | 0x0801 | 0x0803 | 0x0804 | 0x0805 | 0x0806 | 0x0807 | 0x0808 => zeroAt b 2 2
  | 0x0802 => zeroAt b 2 2 && zeroAt b 5 3
  | 0x0809 => zeroAt b 2 2 && zeroAt b 6 2
  | 0x0901 => zeroAt b 2 2
  | 0x0902 => zeroAt b 2 2
  | 0x0A02 => allZero (b.drop (8 + fieldAt b 4 4))
  | 0x0B02 => allZero (b.drop (4 + fieldAt b 0 4))
  | _ => true

/-- A count or length parameter outside its range is answered `LENGTH` (R370). -/
def countBad (op : Nat) (b : List Byte) : Bool :=
  let out (v lo hi : Nat) : Bool := v < lo || hi < v
  match op with
  | 0x0202 => out (fieldAt b 8 4) 1 131072
  | 0x020C => out (fieldAt b 0 1) 1 16
  | 0x0901 => out (fieldAt b 1 1) 1 255
  | 0x0904 => out (fieldAt b 2 2) 1 65535
  | 0x0A02 => out (fieldAt b 4 4) 1 131072
  | 0x0A05 | 0x0B01 => out (fieldAt b 4 4) 1 16320
  | 0x0B02 => out (fieldAt b 0 4) 480 480
  | _ => false

/-- The header rules of R285 for a scope: `JOB` and `PMASK`. -/
def scopeOk (sc : Scope) (job pmask : Nat) : Bool :=
  let one := (maskList 8 pmask).length == 1
  match sc with
  | .d => job == 0 && pmask == 0
  | .p => job == 0 && pmask != 0
  | .onep => job == 0 && one
  | .j => job != 0 && pmask == 0
  | .jp => job != 0
  | .jonep => job != 0 && one

/-- Row 6 of R286: a reserved field or bit nonzero, or a rule of R285 broken.  `CNT_READ` of a set that does not exist breaks
the rule of the named set's scope (R297). -/
def rowSixOk (p : Packet) (rsvdHdr : Bool) : Bool :=
  let op := p.opcode.toNat
  let fl := p.flags.toNat
  rsvdHdr && fl / 4 % 64 == 0 && (fl / 256 * 256) &&& (0xFF00 - flagBits op) == 0 && paramsZeroOk op p.job p.params &&
  (op != 0x0103 || (cntScope (pf p 0 1)).isSome) &&
  match opScope op p.params with
  | none => false
  | some sc => scopeOk sc p.job p.pmask.toNat

/-- The packet of raw bytes (R284), with its length field; the bytes of the CRC are not parameters. -/
def parsePacket (bs : List Byte) : Packet :=
  let len := fieldAt bs 4 2
  { opcode := BitVec.ofNat 16 (fieldAt bs 0 2), flags := BitVec.ofNat 16 (fieldAt bs 2 2), len := len,
    job := fieldAt bs 6 2, pmask := BitVec.ofNat 8 (fieldAt bs 8 1), tag := BitVec.ofNat 32 (fieldAt bs 12 4),
    params := (bs.drop 16).take (4 * len - 20) }

/-! ### Blocks -/

/-- A 32-bit word at an offset. -/
def wordAt (b : List Byte) (off : Nat) : W32 := BitVec.ofNat 32 (fieldAt b off 4)

/-- The optimizer block of R70. -/
def parseOpt (b : List Byte) : OptBlock :=
  { kernel := fieldAt b 0 1, opflags := fieldAt b 1 1, userwords := fieldAt b 2 1, growth := fieldAt b 4 4,
    lr := wordAt b 8, mu := wordAt b 0x0C, beta2 := wordAt b 0x10, eps := wordAt b 0x14, wd := wordAt b 0x18,
    trustmax := wordAt b 0x1C, clipnorm := wordAt b 0x20, lsinit := wordAt b 0x24,
    uparam := (List.range 6).map fun i => wordAt b (0x28 + 4 * i) }

/-- The bytes of an optimizer block. -/
def optBytes (o : OptBlock) : List Byte :=
  leBytes 1 o.kernel ++ leBytes 1 o.opflags ++ leBytes 1 o.userwords ++ [0] ++ leBytes 4 o.growth ++
  packFp32 [o.lr, o.mu, o.beta2, o.eps, o.wd, o.trustmax, o.clipnorm, o.lsinit] ++ fixLen 24 (packFp32 o.uparam)

/-- The preconditioner block of R107. -/
def parsePrec (b : List Byte) : PrecBlock :=
  { block := fieldAt b 0 1, nsiter := fieldAt b 1 1, refresh := fieldAt b 2 2, sdecay := wordAt b 4, damp := wordAt b 8 }

/-- The bytes of a preconditioner block. -/
def precBytes (p : PrecBlock) : List Byte :=
  leBytes 1 p.block ++ leBytes 1 p.nsiter ++ leBytes 2 p.refresh ++ packFp32 [p.sdecay, p.damp] ++ zeros 20

/-- The rate contract of R197. -/
def parseRate (b : List Byte) : RateBlock :=
  { cir := fieldAt b 0 4, pir := fieldAt b 4 4, cbs := fieldAt b 8 4, pbs := fieldAt b 12 4, quantum := fieldAt b 16 4,
    rflags := fieldAt b 20 1 }

/-- The bytes of a rate contract. -/
def rateBytes (r : RateBlock) : List Byte :=
  leBytes 4 r.cir ++ leBytes 4 r.pir ++ leBytes 4 r.cbs ++ leBytes 4 r.pbs ++ leBytes 4 r.quantum ++ leBytes 1 r.rflags ++
  zeros 11

/-- The job header of R143. -/
def parseHdr (b : List Byte) : JobHdr :=
  { job := fieldAt b 0 2, jclass := fieldAt b 2 1, jmode := fieldAt b 3 1, nbucket := fieldAt b 4 4, nmemb := fieldAt b 8 2,
    nplace := fieldAt b 0x0A 2, planes := BitVec.ofNat 8 (fieldAt b 0x0C 1), stripe := fieldAt b 0x0D 1,
    syncn := fieldAt b 0x0E 2, slotceil := fieldAt b 0x10 2, accn := fieldAt b 0x12 2, spillq := fieldAt b 0x14 4,
    stashq := fieldAt b 0x18 4, retq := fieldAt b 0x1C 4, qbase := fieldAt b 0x20 2, optmo := fieldAt b 0x22 2,
    gwait := fieldAt b 0x24 2, ckhold := fieldAt b 0x26 2, hbmq := fieldAt b 0x28 4, kimglen := fieldAt b 0x2C 4,
    rate := parseRate (slice b 0x30 32), prec := parsePrec (slice b 0x50 32), opt := parseOpt (slice b 0x80 64) }

/-- The member entries of R143. -/
def parseMembers (b : List Byte) (n : Nat) : List MemberDesc :=
  (List.range n).map fun i => { mdev := fieldAt b (8 * i) 1, mlanes := fieldAt b (8 * i + 4) 4 }

/-- The bucket table of R48. -/
def parseBuckets (b : List Byte) : List BucketDesc :=
  (chunksOf 32 b).map fun e =>
    { bucket := fieldAt e 0 2, chunk := fieldAt e 2 2, nelem := fieldAt e 4 4, elembase := fieldAt e 8 8,
      layer := fieldAt e 0x10 2, bflags := fieldAt e 0x12 2, rsvdZero := zeroAt e 0x14 12 && fieldAt e 0x12 2 < 2 }

/-- The placement table of R145. -/
def parsePlaces (b : List Byte) : List Place :=
  (chunksOf 16 b).map fun e =>
    { pbase := fieldAt e 0 8, pcount := fieldAt e 8 4, pdev := fieldAt e 12 1, pmirror := fieldAt e 13 1,
      rsvdZero := zeroAt e 14 2 }

/-- `FSTATE` codes of R91; 0 while the job is `LOADING` (DEDUCED, notes/assumptions 20). -/
def FState.code : FState → Nat
  | .loading => 0 | .run => 1 | .await => 2 | .commit => 3 | .rescale => 4 | .discard => 5 | .drain => 6 | .reclaimed => 7
  | .fenced => 8

/-- `JSTATE` codes of R148. -/
def JState.code : JState → Nat
  | .free => 0 | .defining => 1 | .loading => 2 | .running => 3 | .reclaiming => 4 | .reclaimed => 5 | .fenced => 6

/-- `PSTATE` codes of R365. -/
def PState.code : PState → Nat
  | .inService => 0 | .restarting => 1 | .retired => 2 | .held => 3

/-- Lane state codes of R224. -/
def LState.code : LState → Nat
  | .disabled => 0 | .dark => 1 | .training => 2 | .hold => 3 | .up => 4 | .dormant => 5 | .miswired => 6 | .txfault => 7

/-- Bucket state codes of R300: the states of R59 in table order. -/
def BState.code : BState → Nat
  | .closed => 0 | .refused => 1 | .openSlot => 2 | .openSpill => 3 | .awaiting => 4 | .partialHeld => 5 | .complete => 6

/-- The kernel of a code of R70; a reserved code names none. -/
def kernelOf (code : Nat) : Kernel :=
  match code with
  | 1 => .momentum
  | 2 => .adaptive
  | 3 => .layerwise
  | 4 => .kronecker
  | 5 => .user
  | _ => .none

/-- The optimizer record of R77. -/
def orecBytes (job plane : Nat) (fs : FState) (r : OptRec) : List Byte :=
  leBytes 2 job ++ leBytes 1 plane ++ leBytes 1 fs.code ++ leBytes 1 r.lastout ++ zeros 3 ++ leBytes 8 r.step ++
  leBytes 8 r.updates ++ leBytes 4 r.gen ++ leBytes 4 r.nextgen ++ packFp32 [r.lscale] ++ leBytes 4 r.clean ++
  packFp32 [r.normsq, r.clipf, r.pow1, r.pow2] ++ leBytes 4 r.skipped ++ zeros 4

/-- The record a packet carries (R273). -/
def parseOrec (b : List Byte) : OptRec :=
  { lastout := fieldAt b 4 1, step := fieldAt b 8 8, updates := fieldAt b 0x10 8, gen := fieldAt b 0x18 4,
    nextgen := fieldAt b 0x1C 4, lscale := wordAt b 0x20, clean := fieldAt b 0x24 4, normsq := wordAt b 0x28,
    clipf := wordAt b 0x2C, pow1 := wordAt b 0x30, pow2 := wordAt b 0x34, skipped := fieldAt b 0x38 4 }

/-- The step header of R272. -/
def stepHdrBytes (job : Nat) (h : StepHdr) : List Byte :=
  leBytes 2 job ++ leBytes 1 h.lout ++ leBytes 1 h.incomplete.toNat ++ zeros 4 ++ leBytes 8 h.step ++ leBytes 8 h.updates ++
  leBytes 4 h.genin ++ leBytes 4 h.gensub ++ leBytes 4 h.genout ++ packFp32 [h.lscale] ++ leBytes 4 h.acount ++
  packFp32 [h.clipf] ++ zeros 16 ++ optBytes h.opt ++ precBytes h.prec ++ zeros 32

/-- A step header a packet carries (R274). -/
def parseStepHdr (b : List Byte) : StepHdr :=
  { lout := fieldAt b 2 1, incomplete := fieldAt b 3 1 % 2 == 1, step := fieldAt b 8 8, updates := fieldAt b 0x10 8,
    genin := fieldAt b 0x18 4, gensub := fieldAt b 0x1C 4, genout := fieldAt b 0x20 4, lscale := wordAt b 0x24,
    acount := fieldAt b 0x28 4, clipf := wordAt b 0x2C, opt := parseOpt (slice b 0x40 64), prec := parsePrec (slice b 0x80 32) }

/-- The histogram record of R47. -/
def histBytes (job plane : Nat) (h : Hist) : List Byte :=
  leBytes 2 job ++ leBytes 1 plane ++ leBytes 1 (h.complete.toNat + 2 * h.discarded.toNat + 4 * h.sat.toNat) ++
  packFp32 [h.sflags] ++ leBytes 8 h.step ++ (List.range 256).flatMap (fun c => leBytes 4 ((h.bins.lookup c).getD 0)) ++
  leBytes 4 h.nzero ++ leBytes 4 h.nsub ++ leBytes 4 h.ninf ++ leBytes 4 h.nnan

/-- The error record of R245. -/
def errBytes (r : ErrRec) : List Byte :=
  leBytes 4 r.eseq ++ leBytes 1 r.eplane ++ leBytes 1 r.eblock ++ leBytes 1 r.eclass ++ [r.edisp] ++ leBytes 4 r.eindex ++
  leBytes 4 r.ecount ++ leBytes 2 r.ejob ++ leBytes 2 r.eop ++ leBytes 1 r.eopk ++ leBytes 1 r.epass ++ leBytes 2 r.ebucket ++
  leBytes 4 r.echunk ++ packFp32 [r.ebits] ++ leBytes 8 r.estep ++ leBytes 8 r.etime ++ leInt 2 r.etemp ++ leBytes 2 r.evcore ++
  fixLen 4 r.eocc ++ leBytes 1 r.ekernel ++ leBytes 1 r.ejobs ++ leBytes 1 r.eredund ++ [0] ++ packFp32 [r.eword]

/-- The word and half-word ranges of R71 for a block at job open and at `OPT_SET`. -/
def optRangeOk (o : OptBlock) : Bool :=
  let nonneg (w : W32) : Bool := isFinite w && !fgt 0 w
  let unit (w : W32) : Bool := nonneg w && fgt 0x3F800000 w
  let pos (w : W32) : Bool := isFinite w && fgt w 0
  let ls := o.lsinit.toNat
  1 ≤ o.growth && o.growth ≤ 1000000 && nonneg o.lr && unit o.mu && unit o.beta2 && pos o.eps && nonneg o.wd && pos o.trustmax &&
  fgt o.clipnorm 0 && ls % 2 ^ 23 == 0 && 127 ≤ ls / 2 ^ 23 && ls / 2 ^ 23 ≤ 151 && o.uparam.all isFinite &&
  (o.kernel == 5 || o.uparam.all (· == 0))

/-- The further cases of R71 at job open that the block alone decides, with the reserved kernels. -/
def optOpenOk (o : OptBlock) (precGiven : Bool) : Bool :=
  optRangeOk o && o.kernel ≤ 5 && o.userwords ≤ 3 && (o.kernel == 5 || o.userwords == 0) && !(o.kernel == 0 && o.earlypub) &&
  (o.kernel == 4 || !precGiven)

/-- The ranges of R108. -/
def precRangeOk (p : PrecBlock) : Bool :=
  p.block ≤ 3 && 3 ≤ p.nsiter && p.nsiter ≤ 12 && 1 ≤ p.refresh && p.refresh ≤ 1000 &&
  (isFinite p.sdecay && !fgt 0 p.sdecay && fgt 0x3F800000 p.sdecay) && (isFinite p.damp && fgt p.damp 0)

/-- The ranges of R198 under the partition's `JOBCEIL`. -/
def rateRangeOk (r : RateBlock) (serving : Bool) (jobceil : Nat) : Bool :=
  1 ≤ r.cir && r.cir ≤ jobceil && r.cir ≤ r.pir && r.pir ≤ jobceil && 8228 ≤ r.cbs && r.cbs ≤ 67108864 && 8228 ≤ r.pbs &&
  r.pbs ≤ 67108864 && 8228 ≤ r.quantum && r.quantum ≤ 1048576 && (serving || r.rflags == 0)

/-- `UNMETERED` (R197). -/
def RateBlock.unmetered (r : RateBlock) : Bool := r.rflags.testBit 0

end Sys2Proof.Machine
end

