-- ==== Sys2Proof/Machine/HostOps.lean ====
section
/-! DEFINITION. Held commands and their replies (R287, R289, R291, R295, R308): the dispatcher's head command, the planes'
answers, and the completion of a command. -/
namespace Sys2Proof.Machine

def State.updHost (s : State) (f : HostPort → HostPort) : State := { s with host := f s.host }

/-- The oldest command taken and not yet executed: the dispatcher works in the order it took them (R308), and while a command waits for
room in a Command in queue it executes no other (R21). -/
def HostPort.head (h : HostPort) : Option Held :=
  if !h.cmdWait.isEmpty || h.held.any (fun c => !c.left.isEmpty) then none else h.held.find? fun c => c.phase == .taken

/-- `CATAIL` moves past the last packet taken, to the first byte after it (R282: within 2 µs of the take; the model moves it at the
dispatcher's next action; both DEDUCED, notes/assumptions 21). -/
def HostPort.settleTail (h : HostPort) : HostPort :=
  if h.lastLen = 0 then h else { h with catail := (h.catail + h.lastLen) % 1048576, lastLen := 0 }

/-- The dispatcher executes a command row: it acts when the row's packet carries the row's opcode and is the dispatcher's head command; the
row is not otherwise an event of this state. -/
def State.dispatch (s : State) (op : Nat) (p : Packet) (f : Held → State → State) : State :=
  match s.host.head with
  | none => s
  | some h => if h.pkt = p && p.opcode.toNat == op then f h (s.updHost HostPort.settleTail) else s

def State.findHeld (s : State) (id : Nat) : Option Held := s.host.held.find? fun c => c.id == id

def State.updHeld (s : State) (id : Nat) (f : Held → Held) : State :=
  s.updHost fun h => { h with held := h.held.map fun c => if c.id == id then f c else c }

/-- `BARRIER` is answered once no command taken earlier is still held (R296). -/
def barrierReady (held : List Held) (c : Held) : Bool :=
  c.phase == .waiting && c.pkt.opcode == 0x0105 && held.all fun o => o.id ≥ c.id

/-- The reply of a completed command (R289); `RPMASK` holds the planes the reply covers. -/
def replyOf (c : Held) (st : Status) (pmask : Byte) (payload : List Byte) : Reply :=
  { tag := c.pkt.tag, opcode := c.pkt.opcode.toNat, status := st.code, report := false, irq := c.pkt.flags.getLsbD 1,
    job := c.pkt.job, pmask := pmask, payload := payload }

/-- Completes a held command: with `NOREPLY` and `OK` nothing is written (R284); otherwise its reply is queued behind those
already complete (R287). -/
def HostPort.complete (h : HostPort) (id : Nat) (st : Status) (pmask : Byte) (payload : List Byte) : HostPort :=
  match h.held.find? (fun c => c.id == id) with
  | none => h
  | some c =>
    let rest := h.held.filter fun o => o.id != id
    if c.pkt.flags.getLsbD 0 && st == .ok then { h with held := rest }
    else { h with held := rest ++ [{ c with phase := .ready, reply := some (replyOf c st pmask payload) }] }

/-- Completes every `BARRIER` whose earlier commands have all been answered, oldest first. -/
def HostPort.barriersFuel : Nat → HostPort → HostPort
  | 0, h => h
  | n + 1, h =>
    match h.held.find? (barrierReady h.held) with
    | none => h
    | some c => HostPort.barriersFuel n (h.complete c.id .ok 0 [])

def HostPort.barriers (h : HostPort) : HostPort := h.barriersFuel h.held.length

/-- The drain of R360 ends once no command is held: `RAEN` and `RADRAIN` become 0 and the aperture offsets return to 0. -/
def HostPort.endDrain (h : HostPort) : HostPort :=
  if h.radrain && h.held.isEmpty then
    { h with raen := false, radrain := false, catail := 0, caexp := 0, cahdr := 0, lastLen := 0, aperture := [], written := [] }
  else h

/-- Completes a held command and whatever its completion allows. -/
def State.answer (s : State) (id : Nat) (st : Status) (payload : List Byte) (pmask : Byte := 0) : State :=
  s.updHost fun h => (h.complete id st pmask payload).barriers.endDrain

/-- The 16-byte plane status block and the plane sections (R291). -/
def planePayload (ans : List (Nat × Status × List Byte)) : List Byte :=
  (List.range 8).flatMap (fun k => leBytes 2 (((ans.lookup k).map fun a => a.1.code).getD 0)) ++
  (List.range 8).flatMap fun k => ((ans.lookup k).map (·.2)).getD []

/-- `RSTATUS` of a plane command: `OK`, or the status of the lowest-numbered named plane that did not answer `OK` (R291). -/
def planeStatus (ans : List (Nat × Status × List Byte)) : Status :=
  (((List.range 8).filterMap fun k => (ans.lookup k).map (·.1)).find? (· != .ok)).getD .ok

/-- Whether a scope's payload opens with the plane status block (R291). -/
def Scope.planes : Scope → Bool
  | .p | .onep | .jp | .jonep => true
  | .d | .j => false

/-- The reply of a job-scope command that planes have executed: `JOB_QUERY` returns a 16-byte group for each plane, with zeros for a
plane that keeps nothing of the job; `RESTORE_REPLAY` returns what its planes counted, also with `PARAM` (R274, R298); any other
returns what was prepared for it. -/
def jobReply (op : Nat) (ans : List (Nat × Status × List Byte)) (extra : List Byte) : Status × List Byte :=
  let st := planeStatus ans
  if op = 0x0206 then
    (.ok, extra ++ (List.range 8).flatMap fun k => fixLen 16 (((ans.lookup k).map (·.2)).getD []))
  else if op = 0x020C then (st, (((List.range 8).filterMap fun k => ans.lookup k).head?.map (·.2)).getD [])
  else (st, if st = .ok then extra else [])

/-- Every named plane has answered: the reply (R291, R309). -/
def State.finishHeld (s : State) (c : Held) : State :=
  if (opScope c.pkt.opcode.toNat c.pkt.params).any Scope.planes then
    s.answer c.id (planeStatus c.answers) (planePayload c.answers)
      (BitVec.ofNat 8 (listMask (c.answers.map (·.1))))
  else
    let r := jobReply c.pkt.opcode.toNat c.answers c.extra
    s.answer c.id r.1 r.2

/-- A plane answers a held command with a status and its section. -/
def State.planeAnswer (s : State) (id : Nat) (k : PlaneIx) (st : Status) (sec : List Byte) : State :=
  match s.findHeld id with
  | none => s
  | some c =>
    if c.owes.contains k.val then
      let c' := { c with owes := c.owes.filter (· != k.val), answers := (k.val, st, sec) :: c.answers }
      let s := s.updHeld id fun _ => c'
      if c'.owes.isEmpty then s.finishHeld c' else s
    else s

/-- The command that waits for room in a plane's Command in queue enters it, or leaves it out. -/
def State.deliverLeft (s : State) (k : PlaneIx) (id : Nat) : State :=
  s.updHeld id fun c => { c with left := c.left.filter (· != k.val) }

/-- A plane's Command in queue has a free entry of its 16: the command that waits for it enters (R21). -/
def State.refillCmdIn (s : State) (k : PlaneIx) : State :=
  if 16 ≤ (s.plane k).cmdIn.length then s
  else match s.host.cmdWait.find? (·.1 == k.val) with
    | some x => (s.updHost fun h => { h with cmdWait := h.cmdWait.erase x }).updPlane k fun p => { p with cmdIn := p.cmdIn ++ [x.2] }
    | none => match s.host.held.find? fun c => c.left.contains k.val with
      | none => s
      | some c => (s.deliverLeft k c.id).updPlane k fun p => { p with cmdIn := p.cmdIn ++ [{ held := c.id, pkt := c.pkt }] }

/-- Hands a command to planes through their Command in queues of 16 entries, waiting for a full one (R21, R308); a retired, restarting or
held plane answers `PLANEDOWN` at once (R291).  An answer crosses the Reply out queue in the command that gives it: the host port takes an
entry out as soon as it is in (DESIGN CHOICE, notes/assumptions 85). -/
def State.handOut (s : State) (c : Held) (ps : List PlaneIx) (extra : List Byte := []) : State :=
  let c' := { c with phase := .waiting, owes := ps.map (·.val), extra := extra }
  let s := s.updHeld c.id fun _ => c'
  if ps.isEmpty then s.answer c.id .ok extra
  else s.each ps fun s k =>
    if (s.plane k).ps = .inService then
      if (s.plane k).cmdIn.length < 16 then s.updPlane k fun p => { p with cmdIn := p.cmdIn ++ [{ held := c.id, pkt := c.pkt }] }
      else s.updHeld c.id fun c => { c with left := c.left ++ [k.val] }
    else s.planeAnswer c.id k .planedown []

/-- Answers a device or job command at once. -/
def State.reply (s : State) (c : Held) (st : Status) (payload : List Byte := []) : State := s.answer c.id st payload

/-- Answers a plane-scope command with one status, and the section `sec`, for every plane of a mask that is in service, and `PLANEDOWN` for any
other (R291). -/
def State.replyPlanes (s : State) (c : Held) (ps : List PlaneIx) (st : Status) (sec : List Byte := []) : State :=
  let ans := ps.map fun k => if (s.plane k).ps = .inService then (k.val, st, sec) else (k.val, .planedown, [])
  s.answer c.id (planeStatus ans) (planePayload ans) (BitVec.ofNat 8 (listMask (ps.map (·.val))))

/-- The planes a job-and-planes command names: `PMASK`, or every plane of the job's `PLANES` when it is zero (R285). -/
def namedPlanes (p : Packet) (planes : Byte) : List PlaneIx :=
  if p.pmask = 0 then planesOf planes.toNat else planesOf p.pmask.toNat

end Sys2Proof.Machine
end

