-- ==== Sys2Proof/Machine/Fence.lean ====
section
/-! DEFINITION. Fences (R101, R150, R151, R155, R161), the end of a job, lanes going down (R193, R225, R226), the norm exchange
and notice copies on a board (R187, R188), and the retirement of a plane (R11, R253, R345). -/
namespace Sys2Proof.Machine

/-! ### Reports about a job -/

/-- `STEP` and `GEN` of each plane, zeros for a plane the job does not use (R294). -/
def State.perPlane (s : State) (j : Job) : List Byte :=
  allPlanes.flatMap fun k =>
    match if j.hdr.planes.getLsbD k.val then s.pjob k j.id else none with
    | some pj => leBytes 8 pj.orec.step ++ leBytes 4 pj.orec.gen ++ zeros 4
    | none => zeros 16

/-- The job report of R150, and of the end of `CKHOLD` (R148) with cause 0 and status `OK`. -/
def State.jobReport (s : State) (j : Job) (st : Status) (cause : Nat) : State :=
  s.report 0xF003 st.code j.id j.hdr.planes (leBytes 2 j.id ++ leBytes 1 cause ++ zeros 5 ++ s.perPlane j)

/-- The reclaim report of R159: nothing where no reclaim was asked for. -/
def State.reclaimReport (s : State) (j : Job) (st : Status) : State :=
  match j.reclaim with
  | none => s
  | some r => s.report 0xF004 st.code j.id j.hdr.planes (leBytes 2 j.id ++ zeros 2 ++ leBytes 4 r.deadlineMs ++ s.perPlane j)

/-- The lowest free group record of 1,024 (R152). -/
def freeGroup (used : List Nat) : Option Nat := (List.range 1024).find? fun g => !used.contains g

/-- The group records of a job returned (R151). -/
def State.releaseGroups (s : State) (j : Job) : State :=
  { s with groups := s.groups.filter fun g => g != j.groupRec && (j.reform.map (·.1)).all (· != g) }

/-- The planes of a job that still hold it. -/
def State.heldPlanes (s : State) (j : Job) : List PlaneIx := j.planes.filter fun k => (s.pjob k j.id).isSome

/-- Once every plane that keeps the job has fenced it, the job report and the reclaim report are posted (R150, R159); once every
plane has reached `RECLAIMED`, the job has (R148). -/
def State.settleJob (s : State) (id : Nat) : State :=
  match s.findJob id with
  | none => s
  | some j =>
    if j.ended then s
    else
      let all (f : FState → Bool) : Bool := (s.heldPlanes j).all fun k => ((s.pjob k id).map fun pj => f pj.fs).getD true
      if j.st = .fenced then
        if all (fun f => f == .fenced || f == .reclaimed) then
          let s := s.updJob id fun j => { j with ended := true }
          let s := s.releaseGroups j
          let s := s.jobReport j .fenced j.fcause
          s.reclaimReport j (if j.fcause = 1 then .deadline else .fenced)
        else s
      else if j.st.isRunning && !(s.heldPlanes j).isEmpty && all (· == .reclaimed) then
        let s := s.updJob id fun j => { j with ended := true, st := .reclaimed }
        let s := s.releaseGroups j
        s.reclaimReport j .ok
      else s

/-! ### A job's resources on a plane -/

/-- What a step left in a share is dropped; its kept words stay (R17, R101, R151). -/
def Share.clearStep (h : Share) : Share :=
  { h with bst := .closed, slots := [], spilled := 0, round := 0, roundEnd := 0, contribs := [], added := [],
           sums := [], specials := [], partials := [], timers := [], overflow := false, poisoned := false, commaDone := false,
           kernelRan := false, published := false, norm := 0, reduced := [] }

/-- A stage queue without the entries of a job. -/
def StageQ.purge (q : StageQ) (id : Nat) : StageQ :=
  { entries := q.entries.filter (·.job != id), waiting := q.waiting.filter (·.job != id), taken := q.taken.filter (·.job != id) }

/-- Every stage queue of the plane but Parse, whose frames the policer has not yet judged, without the entries of a job (R17). -/
def Plane.purgeQueues (p : Plane) (id : Nat) : Plane :=
  { p with qAdmit := p.qAdmit.purge id, qGather := p.qGather.purge id, qSpill := p.qSpill.purge id,
           qComplete := p.qComplete.purge id, qResult := p.qResult.purge id, qPublish := p.qPublish.purge id,
           adder := p.adder.filter fun c => c.job != id }

/-- A lane without the descriptors of a job; the job leaves the round robin with its deficit 0 (R204). -/
def Lane.purge (l : Lane) (id : Nat) : Lane :=
  { l with egress := l.egress.filter (·.job != id), egWait := l.egWait.filter (·.job != id), drr := l.drr.filter (·.job != id) }

/-- The leaked cells of a job are reclaimed, each counted in `BUFLEAK` (R182). -/
def Plane.reclaimCells (p : Plane) (id : Nat) : Plane :=
  { p with leaked := p.leaked.filter (·.2 != id), ctrs := ctrAdd p.ctrs .bufLeak (p.leaked.filter (·.2 == id)).length }

/-- The resources that R151 releases at once, on one plane: slots, stash, retention, prefetch, held frames (each a frame discarded, R179),
staging buffers, leaked cells, gathers and synchronisation objects. -/
def Plane.releaseJob (p : Plane) (id : Nat) : Plane :=
  let syncs := ((p.findPJob id).map (·.syncPhys)).getD []
  let p := (p.purgeQueues id).reclaimCells id
  { p with
    ctrs := ctrAdd p.ctrs .frmDrop (p.held.filter (·.frame.hdr.job == id)).length
    staged := p.staged.filter (·.job != id)
    freeSync := (p.freeSync ++ syncs).mergeSort
    gathers := p.gathers.filter (·.job != id)
    retained := p.retained.filter (·.job != id)
    prefetch := p.prefetch.filter (·.job != id)
    held := p.held.filter (·.frame.hdr.job != id)
    waits := p.waits.filter (·.job != id)
    applyQ := p.applyQ.filter (·.pkt.job != id)
    fenceQ := p.fenceQ.filter (·.1 != id)
    norms := p.norms.filter (·.job != id)
    notices := p.notices.filter (·.job != id)
    jobs := p.jobs.map fun j => if j.id == id then
      { j with shares := j.shares.map Share.clearStep, stashCur := [], stashRet := [], retGen := none, syncs := [],
               syncPhys := [], drrTurns := j.drrTurns, refreshQ := [], pendOpt := [], pendPrec := [] } else j }

/-! ### Waits (R156 to R158) -/

/-- A sync reply frame: the request's fields with the status and the value (R157). -/
def syncReplyFrame (job obj sop sflags st : Nat) (value : W64) (tmo : Nat) (stag : W32) : Frame :=
  { hdr := { op := opSync, job := job }
    payload := leBytes 2 job ++ leBytes 2 obj ++ leBytes 1 sop ++ leBytes 1 sflags ++ leBytes 2 st ++ leBytes 8 value.toNat ++
      leBytes 4 tmo ++ leBytes 4 stag.toNat ++ zeros 40 }

/-- A held wait completes with a status and the object's value: a reply frame to the member, or the command's answer (R158). -/
def State.endWait (s : State) (k : PlaneIx) (w : Wait) (st : Status) : State :=
  let value := ((s.pjob k w.job).map fun j => j.syncs.getD w.obj 0).getD 0
  let s := s.updPlane k fun p => { p with waits := p.waits.filter (·.id != w.id) }
  match w.cmd with
  | some c => s.planeAnswer c k st (leBytes 8 value.toNat)
  | none =>
    match w.member, s.findJob w.job, s.pjob k w.job with
    | some m, some j, some pj =>
      s.toMember k j pj m (syncReplyFrame w.job w.obj 2 w.sflags st.code value w.tmo w.stag)
    | _, _, _ => s

/-- Every wait of a job on a plane ends with a status. -/
def State.endWaits (s : State) (k : PlaneIx) (id : Nat) (st : Status) : State :=
  s.each ((s.plane k).waits.filter (·.job == id)) fun s w => s.endWait k w st

/-! ### Full-stop frames (R98, R100) -/

/-- The 64-byte payload of a notice or `RETRACT` (R98). -/
def noticePayload (job outcome plane step gen : Nat) (lscale clipf : W32) (newgen : Nat) : List Byte :=
  leBytes 2 job ++ leBytes 1 outcome ++ leBytes 1 plane ++ zeros 4 ++ leBytes 8 step ++ leBytes 4 gen ++ packFp32 [lscale, clipf] ++
  leBytes 4 newgen ++ zeros 32

/-- FP32 one. -/
def fone : W32 := 0x3F800000

/-- A `RETRACT` naming the subjunctive number (R100). -/
def retractFrame (id k : Nat) (pj : PJob) (outcome step newgen : Nat) (lscale clipf : W32) : Frame :=
  { hdr := { op := opRetract, job := id, gen := pj.subgen }
    payload := noticePayload id outcome k step pj.subgen lscale clipf newgen }

/-! ### The fence of a job on a plane (R101) -/

/-- A descriptor is a frame of a checkpoint or log read: of its job, with its key, in its address range. -/
def CkptJob.sends (c : CkptJob) (d : Desc) : Bool :=
  d.job == c.job && d.frame.hdr.op == opCkpt && d.frame.hdr.rwkey == c.rwkey &&
  c.rwbase ≤ d.frame.hdr.rwaddr && d.frame.hdr.rwaddr < c.rwbase + c.bytes

/-- The descriptors on a plane that have not left: those of the Egress queues, before them, and in the Publish queue. -/
def Plane.unsent (p : Plane) : List Desc :=
  (p.lanes.toList.flatMap fun l => l.egress ++ l.egWait) ++
  (p.qPublish.entries ++ p.qPublish.waiting ++ p.qPublish.taken).filterMap fun e => e.leg.map (·.2)

/-- The bytes of a read that have been written so far: all of it less what has not left (R310). -/
def Plane.readDone (p : Plane) (c : CkptJob) : Nat := c.bytes - ((p.unsent.filter c.sends).map (·.frame.payload.length)).sum

/-- A plane without the unsent descriptors that satisfy a test. -/
def Plane.dropUnsent (p : Plane) (f : Desc → Bool) : Plane :=
  { p with
    qPublish := p.qPublish.remove fun e => e.leg.any fun x => f x.2
    lanes := p.lanes.map fun l =>
      let q := l.egress.filter (!f ·)
      { l with egress := q, egWait := l.egWait.filter (!f ·), drr := l.drr.filter fun e => q.any (·.job == e.job) } }

/-- A log slot is written while a log read of the job is under way: the read's frames hold the slots as they stood when the plane took the
command, and its header is written once more with `INCOMPLETE` set (R271; DEDUCED, notes/assumptions 46). -/
def State.logWritten (s : State) (k : PlaneIx) (id slot : Nat) : State :=
  match s.findJob id, s.pjob k id with
  | some j, some pj =>
    let x : StepHdr := { (pj.slog.lookup slot).getD {} with incomplete := true }
    s.each ((s.plane k).ckpts.filter fun c => c.job == id && c.isLog && c.started) fun s c =>
      s.toMember k j pj c.dest { hdr := { op := opCkpt, rw := true, job := id, chunk := slot, gen := c.gen,
                                          rwaddr := (c.rwbase + 192 * slot) % 2 ^ 64, rwkey := c.rwkey }
                                 payload := stepHdrBytes id x }
  | _, _ => s

/-- The checkpoint and log reads of a job on a plane end: the plane answers `FENCED` with the bytes written so far, and what it has not sent
of them is dropped (R101, R310). -/
def State.endReads (s : State) (k : PlaneIx) (id : Nat) : State :=
  let cs := ((s.plane k).ckpts.filter (·.job == id)).map fun c => (c, (s.plane k).readDone c)
  let s := s.updPlane k fun p => { p.dropUnsent fun d => cs.any fun c => c.1.sends d with ckpts := p.ckpts.filter (·.job != id) }
  s.each cs fun s c => s.planeAnswer c.1.held k .fenced (leBytes 4 c.1.gen ++ zeros 4 ++ leBytes 8 c.2)

/-- A sync command that still waits for its apply point as its job is fenced ends with `FENCED`, a wait with the object's value (R156); a
`SYNC_READ`, for which R299 lists no such status, answers the value (DESIGN CHOICE, notes/assumptions 83). -/
def State.endApply (s : State) (k : PlaneIx) (c : PlaneCmd) : State :=
  let obj := fieldAt c.pkt.params 0 2
  let value := leBytes 8 (((s.pjob k c.pkt.job).map fun (j : PJob) => j.syncs.getD obj 0).getD 0 : W64).toNat
  if c.pkt.opcode.toNat = 0x0306 then s.planeAnswer c.held k .ok value
  else s.planeAnswer c.held k .fenced (if c.pkt.opcode.toNat = 0x0305 then value else [])

/-- The plane fences the job: `RETRACT` with outcome 6 where it has published a share of the step, waits, queued commands and
reads end with `FENCED`, resources are released, and the state becomes `FENCED`.  `LASTOUT` keeps the outcome of the last full stop (R77); a
fence, whose code 6 R95 lists for the RETRACT's `OUTCOME`, is none (DESIGN CHOICE, notes/assumptions 84). -/
def State.fencePlane (s : State) (k : PlaneIx) (id : Nat) : State :=
  match s.findJob id, s.pjob k id with
  | some j, some pj =>
    if pj.fs = .fenced || pj.fs = .reclaimed then s
    else
      let published := pj.opt.earlypub && pj.shares.any (·.published)
      let s := s.endReads k id
      let s := s.updPlane k fun p => { p with lanes := p.lanes.map fun l => l.purge id }
      let s := s.endWaits k id .fenced
      let s := s.each ((s.plane k).applyQ.filter (·.pkt.job == id)) fun s c => s.endApply k c
      let s := s.updPlane k fun p => p.releaseJob id
      let s := if published then
          s.multicastAll k j pj (retractFrame id k.val pj 6 pj.orec.step pj.orec.gen pj.orec.lscale fone)
        else s
      let s := s.updPJob k id fun pj => { pj with
        fs := .fenced, fencePend := 0, waitWord := none,
        cutStep := pj.fs == .run || pj.fs == .await || pj.fs == .commit || pj.fs == .rescale || pj.fs == .discard }
      s.settleJob id
  | _, _ => s

/-- A word into a plane's Scalar down queue of 8 entries; beyond them it waits at the combiner (R21). -/
def Plane.pushDown (p : Plane) (w : DownWord) : Plane :=
  if p.scalarDown.length < 8 && p.downWait.isEmpty then { p with scalarDown := p.scalarDown ++ [w] }
  else { p with downWait := p.downWait ++ [w] }

/-- The plane takes the first word of its Scalar down queue; a waiting one enters. -/
def Plane.popDown (p : Plane) : Plane :=
  { p with scalarDown := p.scalarDown.drop 1 ++ p.downWait.take 1, downWait := p.downWait.drop 1 }

/-- A pair into a plane's Scalar up queue of 8 entries; beyond them it waits at the plane (R21). -/
def Plane.pushUp (p : Plane) (x : Pair) : Plane :=
  if p.scalarUp.length < 8 && p.upWait.isEmpty then { p with scalarUp := p.scalarUp ++ [x] } else { p with upWait := p.upWait ++ [x] }

/-- The combiner takes the first pair of a plane's Scalar up queue; a waiting one enters. -/
def Plane.popUp (p : Plane) : Plane := { p with scalarUp := p.scalarUp.drop 1 ++ p.upWait.take 1, upWait := p.upWait.drop 1 }

/-- A fence cause of R150: the job becomes `FENCED`, its pending pairs are dropped (R101), and the fence is placed in each
plane's Scalar down queue, behind any combined word already returned (R161). -/
def State.fenceJob (s : State) (id cause : Nat) : State :=
  match s.findJob id with
  | none => s
  | some j =>
    if !j.st.isActive then s
    else
      let s := s.updJob id fun j => { j with st := .fenced, fcause := cause, ringHold := false }
      let s := { s with comb := { s.comb with ents := s.comb.ents.filter (·.job != id) } }
      let s := s.each (s.heldPlanes j) fun s k => s.updPlane k fun p => p.pushDown (.fence id cause)
      s.settleJob id

/-! ### Members (R131, R155) -/

/-- A plane applies the fence of member `m` of a job (R131, R155, R158): the member leaves the trees, its descriptors are
dropped, the legs of multicasts among them counted in `ELIDED`, and its waits, gathers, held requests and owed acknowledgements end. -/
def State.applyFence (s : State) (k : PlaneIx) (id m : Nat) : State :=
  let s := s.updPlane k fun p => { p with fenceQ := p.fenceQ.filter (· != (id, m)) }
  match s.findJob id, s.pjob k id with
  | some j, some pj =>
    if pj.fenced.contains m then s
    else
      let here := j.memberDev m == s.bidx
      let l := j.memberLane k m
      let mine (d : Desc) : Bool := d.job == id && d.multi
      let ln := s.lane (devLane k l)
      let leg (e : QEntry) : Bool := here && e.job == id && e.leg.any fun x => x.1 == l.val
      let pub := ((s.plane k).qPublish.entries ++ (s.plane k).qPublish.waiting ++ (s.plane k).qPublish.taken).filter fun e =>
        leg e && e.leg.any fun x => mine x.2
      let cut := if here then (ln.egress.filter mine).length + (ln.egWait.filter mine).length + pub.length else 0
      let s := if here then s.updLane (devLane k l) fun n => n.purge id else s
      let s := s.updPlane k fun p => { p with qPublish := p.qPublish.remove leg }
      let s := s.jobCtr k id .elided cut
      let s := s.updPlane k fun p =>
        { p with
          waits := p.waits.filter fun w => !(w.job == id && w.member == some m)
          gathers := (p.gathers.map fun g =>
              if g.job == id then { g with members := g.members.filter (· != m), reqs := g.reqs.filter (·.1 != m) } else g).filter
            fun g => !g.members.isEmpty
          held := p.held.filter fun h => !(h.frame.hdr.job == id && (h.serve || h.frame.hdr.op == opRslt) && h.from' == some m)
          retained := (p.retained.map fun r => if r.job == id then
              { r with owes := r.owes.filter (·.1 != m), needDesc := r.needDesc.filter (· != m) } else r).filter
            fun r => !(r.job == id && r.admitted && r.owes.isEmpty && r.needDesc.isEmpty) }
      s.updPJob k id fun pj => { pj with
        fenced := m :: pj.fenced, cutLegs := if here then pj.cutLegs ++ pj.relaying.map fun x => (x, m) else pj.cutLegs }
  | _, _ => s

/-- The device records the fence of a member and hands it to each plane, which applies it at its own moment (R155); a plane that has yet to
take the job's `JOB_OPEN` finds it there. -/
def State.loseMember (s : State) (id m : Nat) : State :=
  match s.findJob id with
  | none => s
  | some j =>
    if !j.st.isActive || j.fencedM.contains m then s
    else
      let s := s.updJob id fun j => { j with fencedM := m :: j.fencedM, lostM := m :: j.lostM }
      s.each (s.heldPlanes j) fun s k => s.updPlane k fun p => { p with fenceQ := p.fenceQ ++ [(id, m)] }

/-! ### The norm exchange and notice copies on a board -/

/-- Whether every lane of a plane's list toward a device is down (R188). -/
def State.unreachable (s : State) (k : PlaneIx) (j : Job) (dev : Nat) : Bool :=
  (j.peerLanes k dev).all fun l => s.deadPeer k j.id (Fin.ofNat 16 l) || (s.lane (devLane k (Fin.ofNat 16 l))).st != .up

/-- The device-level combine of R13 and R188 on one plane: once the pairs of every reachable device of the job are present,
they are added in ascending board index, their flags ORed, and the result is the plane's pair for the combiner. -/
def State.normCheck (s : State) (k : PlaneIx) (id step : Nat) : State :=
  match s.findJob id with
  | none => s
  | some j =>
    let devs := (s.jobDevs j).filter fun d => d == s.bidx || !s.unreachable k j d
    let here := (s.plane k).norms.filter fun n => n.job == id && n.step == step
    if here.any (·.dev == s.bidx) && devs.all fun d => here.any (·.dev == d) then
      let ps := devs.filterMap fun d => here.find? (·.dev == d)
      let tot := match ps with
        | [] => (0, 0)
        | n :: ns => ns.foldl (fun (a : FR) (n : NormPair) => let r := fadd a.1 n.norm; (r.1, a.2 ||| r.2)) (n.norm, 0)
      let fl := ps.foldl (fun a n => a.or n.flags) {}
      (s.arith k id uVec tot.2).updPlane k fun p => Plane.pushUp { p with
        norms := p.norms.filter fun n => !(n.job == id && n.step == step) } { job := id, step := step, norm := tot.1, flags := fl }
    else s

/-- The copies of a `NOTICE` or `RETRACT` held on a plane less one entry. -/
def Plane.dropNotice (p : Plane) (c : NoticeCopy) : Plane := { p with notices := p.notices.erase c }

/-- The far device replicates a `NOTICE` or `RETRACT` once it holds a copy from every lane of its list toward the sender that
is still up, or at once with `now`; the entry stays until its other copies have come, which are dropped (R187). -/
def State.noticeCheck (s : State) (k : PlaneIx) (c : NoticeCopy) (now : Bool) : State :=
  match s.findJob c.job, s.pjob k c.job with
  | some j, some pj =>
    let need := (j.peerLanes k c.src).filter fun l =>
      !s.deadPeer k c.job (Fin.ofNat 16 l) && (s.lane (devLane k (Fin.ofNat 16 l))).st == .up
    let all := need.all fun l => c.lanes.contains l
    let s := if c.done || !(now || all) then s
      else s.toLocal k j pj pj.liveMembers c.frame { cells := c.cells, ovf := c.ovf, later := c.later }
    if all then s.updPlane k fun p => p.dropNotice c
    else if now then s.updPlane k fun p => { p with notices := p.notices.replace c { c with done := true } }
    else s
  | _, _ => s

/-! ### Copies of a share (R265 to R268, R275) -/

/-- The devices that hold copies of a bucket, less the expelled ones. -/
def State.goodCopies (s : State) (j : Job) (b : Nat) (h : Share) : List Nat := (s.keepers j b).filter fun d => !h.expelled.contains d

/-- A device's copy is expelled and does not yet run in step again (R268 steps 2 and 3). -/
def Share.stale (h : Share) (me : Nat) : Bool := h.expelled.contains me && !h.rebuilds.any fun r => r.target == me && r.inStep

/-- The shard report of R294. -/
def State.shardReport (s : State) (k : PlaneIx) (j : Job) (pj : PJob) (b action devs : Nat) : State :=
  let st := if action = 3 then Status.check.code else if action = 4 then Status.shardLost.code else 0
  s.report 0xF009 st j.id (planeBit k)
    (leBytes 2 j.id ++ leBytes 2 b ++ leBytes 1 k.val ++ leBytes 1 action ++ leBytes 1 devs ++ [0] ++ leBytes 8 pj.orec.step ++
      leBytes 4 pj.orec.gen ++ zeros 4)

/-- A gather request covers a bucket (R124): it names its layer, and with `PART` the bucket itself. -/
def Job.greqCovers (j : Job) (f : Frame) (b : Nat) : Bool :=
  (j.bucketDesc b).any (fun d => d.layer == fieldAt f.payload 2 2) && (!(fieldAt f.payload 4 2).testBit 1 || fieldAt f.payload 6 2 == b)

/-- The multicasts that wait and cover a bucket leave the Gather queue: their requests. -/
def State.takeGathers (s : State) (k : PlaneIx) (j : Job) (b : Nat) : List (Nat × DevLane × Frame) × State :=
  let mine (g : Gather) : Bool := g.job == j.id && (j.bucketDesc b).any (·.layer == g.layer)
  (((s.plane k).gathers.filter mine).flatMap (·.reqs), s.updPlane k fun p => { p with
    gathers := p.gathers.filter (!mine ·)
    qGather := p.qGather.remove fun e => e.job == j.id && (j.bucketDesc b).any (·.layer == e.bucket) })

/-- Every gather that waits for a share, coalescing or held, is answered with a status; a held one whose stored bytes or entry fail parity
stays for the stage that reads it next (R177, R266, R275). -/
def State.answerGathers (s : State) (k : PlaneIx) (j : Job) (b : Nat) (st : Status) : State :=
  let (rs, s) := s.takeGathers k j b
  let mine (h : HeldFrame) : Bool := h.serve && h.frame.hdr.job == j.id && j.greqCovers h.frame b && h.later == .none
  let hs := (s.plane k).held.filter mine
  let s := s.updPlane k fun p => { p with held := p.held.filter (!mine ·) }
  s.each (rs.map (·.2) ++ hs.map fun h => (h.lane, h.frame)) fun s x =>
    (s.status x.1 x.2 st 0 (fieldAt x.2.payload 8 4) (fieldAt x.2.payload 2 2)).frmDrop k

/-- A share is halted: every gather gets `CHECK`, or `SHARD_LOST` for a lost one, every pair carries the poisoned bit, and rebuilds end
(R266, R275). -/
def State.stopShare (s : State) (k : PlaneIx) (j : Job) (pj : PJob) (b devs : Nat) (lost : Bool) : State :=
  let s := s.updShare k j.id b fun h => { h with halted := true, lost := h.lost || lost, rebuilds := [], voteGen := none }
  (s.answerGathers k j b (if lost then .shardLost else .check)).shardReport k j pj b (if lost then 4 else 3) devs

/-- Halts a share (R266). -/
def State.haltShare (s : State) (k : PlaneIx) (j : Job) (pj : PJob) (b devs : Nat) : State := s.stopShare k j pj b devs false

/-- The share's last copy has failed (R275): lost, and halted. -/
def State.loseShare (s : State) (k : PlaneIx) (j : Job) (pj : PJob) (b devs : Nat) : State := s.stopShare k j pj b devs true

/-- Tells other devices of a share what has become of device `dev`'s copy: `CHECK` when it is expelled or its rebuild starts again, `OK` when
it is rebuilt.  The source gives no message for it; the model takes a status frame that answers a `DIGEST`, with the device in `CHUNK`
(DESIGN CHOICE, notes/assumptions 59). -/
def State.tellCopies (s : State) (k : PlaneIx) (j : Job) (pj : PJob) (b dev : Nat) (st : Status) (devs : List Nat) : State :=
  s.each (devs.filter (· != s.bidx)) fun s d =>
    s.toDevice k j d (statusFrame (some pj) { hdr := { op := opDigest, job := j.id, bucket := b, chunk := dev }, payload := [] } st dev 0 0 0 0) b

/-- The source of a rebuild: the home copy, or the lowest mirror, among the copies that agreed and can be reached (R267). -/
def State.rebuildSrc (s : State) (k : PlaneIx) (j : Job) (b : Nat) (h : Share) : Option Nat :=
  let good := (s.goodCopies j b h).filter fun d => d == s.bidx || !s.unreachable k j d
  if good.contains (s.homeDev j b) then some (s.homeDev j b) else good.min?

/-- The home plane starts a rebuild again at the next drain, from a copy that is still good; after four restarts the share is halted, and
without a good copy it is lost (R268, R275). -/
def State.restartRebuild (s : State) (k : PlaneIx) (j : Job) (pj : PJob) (b : Nat) (r : Rebuild) : State :=
  match (s.pjob k j.id).bind (·.findShare b) with
  | none => s
  | some h =>
    match s.rebuildSrc k j b h with
    | none => s.loseShare k j pj b (listMask (s.keepers j b))
    | some src =>
      if 4 ≤ r.restarts then s.haltShare k j pj b (listMask (s.keepers j b))
      else
        let r' : Rebuild := { srcDev := src, target := r.target, step := pj.orec.step, restarts := r.restarts + 1 }
        let s := (s.jobCtr k j.id .rebuildRs).updShare k j.id b fun h => { h with
          rebuilds := h.rebuilds.map fun x => if x.target == r.target then r' else x, digests := h.digests.filter (·.1 != r.target) }
        s.tellCopies k j pj b r.target .check (s.keepers j b)

/-- The home plane looks after the rebuilds whose source's device it can no longer reach (R268, R275). -/
def State.sourcesGone (s : State) (k : PlaneIx) (j : Job) : State :=
  match s.pjob k j.id with
  | none => s
  | some pj => s.each (pj.shares.filter fun h => h.role == .home && !h.halted) fun s h =>
      s.each (h.rebuilds.filter fun r => r.srcDev != s.bidx && s.unreachable k j r.srcDev) fun s r =>
        if ((s.pjob k j.id).bind (·.findShare h.bucket)).any (·.halted) then s else s.restartRebuild k j pj h.bucket r

/-- A plane that is about to lose what it keeps reports the mirrored shares whose last good copy it has (R275). -/
def State.reportLost (s : State) (k : PlaneIx) : State :=
  s.each (s.plane k).jobs fun s pj =>
    match s.findJob pj.id with
    | none => s
    | some j => s.each (pj.shares.filter fun h => h.role != .remote && (s.keepers j h.bucket).length ≠ 1 && !h.lost &&
          (s.goodCopies j h.bucket h).contains s.bidx &&
          (s.goodCopies j h.bucket h).all fun d => d == s.bidx || s.unreachable k j d) fun s h =>
        s.shardReport k j pj h.bucket 4 (listMask (s.keepers j h.bucket))

/-! ### Lanes going down -/

/-- Open jobs that use a lane on its plane, from the moment the plane has taken their `JOB_OPEN`: as a member lane or in a peer list (R228,
R308). -/
def State.laneJobs (s : State) (d : DevLane) : List Job :=
  s.jobs.filter fun j => j.st.isActive && (s.pjob (planeOf d) j.id).isSome &&
    ((s.laneMember j (planeOf d) (laneIn d)).isSome ||
     j.peers.any fun p => p.1 == (planeOf d).val && p.2.2 == (laneIn d).val)

/-- A frame whose last byte has not left when its lane goes down is lost with what it carried (R193, R226): it is taken back from what
the fibre has carried. -/
def State.cutFibre (s : State) (d : DevLane) : Bool × State :=
  let l := s.lane d
  if (s.plane (planeOf d)).cnt < l.sendEnd then
    (true, { (s.updLane d fun l => { l with sendEnd := 0 }) with
      out := { s.out with fibre := (s.out.fibre.reverse.eraseP (·.1 == d.val)).reverse } })
  else (false, s)

/-- What the loss of a lane means for the jobs on it, whether or not the plane has taken their `JOB_OPEN` yet: a member lane fences its
members (R155, R226); a peer lane drops its descriptors, fences the members attached to its far device in every job with members there, and
is used no more by the jobs that have it in their lists (R193). -/
def State.laneLost (s : State) (d : DevLane) : State :=
  let k := planeOf d
  let l := laneIn d
  let n := (s.lane d).egress.length + (s.lane d).egWait.length
  let s := s.updLane d fun x => { x with egress := [], egWait := [], drr := [] }
  let (cut, s) := s.cutFibre d
  let js := s.jobs.filter fun j => j.st.isActive && j.hdr.planes.getLsbD k.val
  let s :=
    if s.isPeer d then
      let s := s.laneCtr d .peerDrop n
      let far := s.farDev d
      let s := s.each (js.filter fun j => j.peers.any fun p => p.1 == k.val && p.2.2 == l.val) fun s j =>
        (s.updJob j.id fun j => { j with lostPeers := (k.val, l.val) :: j.lostPeers }).updPJob k j.id fun pj =>
          { pj with elidedPeers := l.val :: pj.elidedPeers }
      let s := s.each js fun s j => s.each ((List.range j.members.length).filter fun m => j.memberDev m == far) fun s m =>
        s.loseMember j.id m
      let s := s.each js fun s j => match s.pjob k j.id with
        | some pj => (s.normCheck k j.id pj.orec.step).sourcesGone k j
        | none => s
      s.each ((s.plane k).notices.mergeSort fun a b => a.job ≤ b.job) fun s c => s.noticeCheck k c false
    else
      let s := s.laneCtr d .downDrop (n + cut.toNat)
      s.each js fun s j => match s.laneMember j k l with
        | some m => s.loseMember j.id m
        | none => s
  s.replicator k

/-- The calibrated bias of a lane's laser, from the set in use (R230, R326). -/
def State.calBias (s : State) (d : DevLane) : Nat := fieldAt s.boot.calUsed (0x20 + 2 * d.val) 2

/-- A laser turns on at its calibrated bias and sends the pattern (R219, R230); its receiver locks to light that is there. -/
def Lane.laserStart (l : Lane) (bias t : Nat) : Lane := { l with laserOn := true, bias := bias, trainAt := t, clk := !l.los }

/-- A laser turns off: its bias current is 0, so that `BIASHI` is (R233). -/
def Lane.laserStop (l : Lane) : Lane := { l with laserOn := false, bias := 0, biasHi := false }

/-- Clock recovery is off, or has lost its lock: no FEC lock, no eye (R232). -/
def Lane.clockStop (l : Lane) : Lane := { l with clk := false, feclock := false }

/-- A change of lane state, stamped with the plane's counter (`LCHANGE`, R232). -/
def State.setLane (s : State) (d : DevLane) (st : LState) (f : Lane → Lane) : State :=
  let t := (s.plane (planeOf d)).cnt
  s.updLane d fun l => { f l with st := st, lchange := t }

/-- An `UP` lane goes down (R225, R226): the state, the cause, the report, the counter, the 1 ms hold-off, and what it means for
its jobs. -/
def State.laneDown (s : State) (d : DevLane) (cause : Nat) (st : LState) : State :=
  if (s.lane d).st != .up then s
  else
    let t := (s.plane (planeOf d)).cnt
    let s := s.setLane d st fun l => { l with
      lcause := cause, ready := false, echoOk := false, plock := false, holdoff := true, trainAt := t }
    let s := s.laneCtr d .downCnt
    let s := s.report 0xF005 0 0 (planeBit (planeOf d))
      (leBytes 1 d.val ++ leBytes 1 cause ++ zeros 6 ++ leBytes 8 (s.lane d).lchange)
    s.laneLost d

/-- The lane state to which a lane that trains again goes: `DARK` without light, `TRAINING` with it (R224, R225). -/
def Lane.retrain (l : Lane) : LState := if l.los then .dark else .training

/-! ### Planes leaving service -/

/-- Everything of the jobs on a plane is lost (R11, R151, R276): the jobs that name it lose what it kept and are fenced, and the frames that
it held are discarded (R179). -/
def State.dropPlaneJobs (s : State) (k : PlaneIx) (cause : Nat) : State :=
  let named := s.jobs.filter fun j => j.st.isOpen && j.hdr.planes.getLsbD k.val
  let s := s.each named fun s j => s.endReads k j.id
  let s := s.each ((s.plane k).waits.filter (·.cmd.isSome)) fun s w => s.endWait k w .fenced
  let s := s.each (s.plane k).applyQ fun s c => s.endApply k c
  let s := s.each ((s.plane k).cmdIn.map (·.held)) fun s c => s.planeAnswer c k .planedown []
  let s := s.updHost fun h => { h with cmdWait := h.cmdWait.filter (·.1 != k.val) }
  let s := s.each ((s.host.held.filter (·.left.contains k.val)).map (·.id)) fun s c => (s.deliverLeft k c).planeAnswer c k .planedown []
  let s := s.updPlane k fun p => { p with
    ctrs := ctrAdd p.ctrs .frmDrop (p.held.length + p.parked.length), parked := [], staged := [], upWait := [], downWait := [],
    jobs := [], waits := [], applyQ := [], cmdIn := [], fenceQ := [], scalarUp := [], scalarDown := [], gathers := [],
    retained := [], prefetch := [], adder := none, qParse := {}, qAdmit := {}, qGather := {}, qSpill := {}, qComplete := {},
    qResult := {}, qPublish := {}, held := [], notices := [], norms := [], ckpts := [], freeSync := List.range 2048,
    tests := p.tests.filter (·.cmd.isNone), segSlot := false, leaked := [], suspects := [],
    lanes := p.lanes.map fun l => { l with egress := [], egWait := [], drr := [] } }
  let s := s.each named fun s j => s.updJob j.id fun j => { j with keptLost := j.keptLost ||| planeBit k }
  let s := s.each named fun s j => s.fenceJob j.id cause
  s.each named fun s j => s.settleJob j.id

/-- Sets a bit of `HPFAULT`, and `HPFLT` in `ERRSUM` when it became 1 (R362, R363). -/
def State.setHpFault (s : State) (bit : Nat) : State :=
  if s.host.hpfault.getLsbD bit then s
  else (s.updHost fun h => { h with hpfault := h.hpfault ||| BitVec.ofNat 32 (2 ^ bit) }).setErrsum [esHpFlt]

/-- A plane is retired (R11, R253, R345): its jobs are fenced with cause 4 at once, its lanes turn off without reports, running
tests of a command end, and `PLANEOFF` is set.  A plane that boot still holds is retired in the same way. -/
def State.retirePlane (s : State) (k : PlaneIx) (rail : Bool) : State :=
  let t := (s.plane k).cnt
  let s := s.reportLost k
  let s := s.updPlane k fun p => { p with
    ps := .retired, railFault := p.railFault || rail, railsOn := !rail && p.railsOn,
    lanes := p.lanes.map fun l => { l.laserStop.clockStop with st := .disabled, lchange := t, ready := false, echoOk := false, plock := false } }
  let cmds := (s.plane k).tests.filterMap (·.cmd)
  let s := s.updPlane k fun p => { p with tests := [] }
  let s := s.each cmds fun s c => s.planeAnswer c k .planedown []
  let s := s.dropPlaneJobs k 4
  s.setHpFault 3

end Sys2Proof.Machine
end

