-- ==== Sys2Proof/Machine/Errors.lean ====
section
/-! DEFINITION. Errors (R235, R244): the error record, the logs, the summary and the report (R245 to R248), observation and
retirement (R249 to R253), and the checked item of arithmetic (R237 to R243). -/
namespace Sys2Proof.Machine

/-- What an error names: its block, class, unit, disposition bits and the operation concerned (R245 to R247).  `poisons`: data left unreadable
or unresolved poisons the bucket, so that its record carries `EPOISON`; `retires`: it retires the plane, so that its record carries
`ERETIRED`. -/
structure ErrInfo where
  block  : Nat
  cls    : Nat
  index  : Nat := 0
  disp   : Nat := 0
  job    : Nat := 0
  op     : Nat := 0
  opk    : Nat := 0
  pass   : Nat := 0
  bucket : Nat := 0
  chunk  : Nat := 0
  bits   : W32 := 0
  word   : W32 := 0
  kernel : Nat := 255
  redund : Nat := 0
  poisons : Bool := true
  retires : Bool := false
deriving DecidableEq, Repr, Inhabited

/-- `EDISP` bits of R247. -/
def dRetried : Nat := 1
def dRetryOk : Nat := 2
def dCheckWin : Nat := 4
def dSecond : Nat := 8
def dPoison : Nat := 16
def dObsEnt : Nat := 32
def dRetired : Nat := 64

/-- The disposition of an error whose data stayed unreadable or unresolved (R243, R247). -/
def ErrInfo.final (e : ErrInfo) : Nat := (if e.poisons then dPoison else 0) ||| (if e.retires then dRetired else 0)

/-- The unit that observation applies to: the lane, cell, slot or region of `EINDEX` for blocks 0x01, 0x02, 0x05, 0x08 and 0x09,
and the whole block otherwise (R250). -/
def obsUnit (block index : Nat) : Nat := if [1, 2, 5, 8, 9].contains block then index else 0

/-- Whether a block of a plane is under observation (R250). -/
def Plane.observed (p : Plane) (block : Nat) : Bool := p.obs.any (·.block == block)

/-- An error against the observation list (R251 to R253): the list afterwards, whether the unit entered observation, and whether it
is retired. -/
def obsError (obs : List Obs) (block unit limit : Nat) : List Obs × Bool × Bool :=
  match obs.find? (fun o => o.block == block && o.unit == unit) with
  | none => ({ block := block, unit := unit } :: obs, true, false)
  | some o =>
    let o' := { o with errs := o.errs + 1, passes := 0, overdue := false }
    (obs.map fun x => if x.block == block && x.unit == unit then o' else x, false, o'.errs ≥ limit)

/-- Open jobs of a plane (`PJOBS`, R365): those it holds that have a share or a member lane on it; a plane that has restarted keeps nothing of
the jobs it had (R151, R276). -/
def State.openJobs (s : State) (k : PlaneIx) : Nat :=
  ((s.plane k).jobs.filter fun pj => !pj.shares.isEmpty ||
    (s.findJob pj.id).any fun (j : Job) => j.members.any fun m => m.mdev == s.bidx).length

/-- A record appended to a log of `cap` records; the oldest is replaced when it is full (R248). -/
def logAdd (log : List ErrRec) (cap : Nat) (r : ErrRec) : List ErrRec × Bool :=
  if log.length < cap then (log ++ [r], false) else (log.drop 1 ++ [r], true)

/-- The `ERRSUM` bits a record calls for (R362). -/
def recBits (disp : Nat) : List Nat :=
  (if disp.testBit 4 then [esPoisRec] else []) ++ (if disp.testBit 5 then [esObsRec] else []) ++
  (if disp.testBit 6 then [esRetRec] else [])

/-- Writes a record into a plane's log with its summary bits and, where it carries `EPOISON`, `EOBSENT` or `ERETIRED`, posts it
as a report (R245, R248, R362); `underObs`: the block was under observation when the error came (`EREDUND`). -/
def State.writeRecord (s : State) (k : PlaneIx) (e : ErrInfo) (disp : Nat) (underObs : Bool) : State :=
  let p := s.plane k
  let (n, s) := s.takeFresh
  let occ : List Byte := (List.range 4).map fun i => BitVec.ofNat 8 ((Config.reading (4 * n + i)).toNat % 101)
  let count := (p.errCounts.lookup e.block).getD 0 + 1
  let r : ErrRec :=
    { eseq := p.errSeq, eplane := k.val, eblock := e.block, eclass := e.cls, edisp := BitVec.ofNat 8 disp, eindex := e.index,
      ecount := count, ejob := e.job, eop := e.op, eopk := e.opk, epass := e.pass, ebucket := e.bucket, echunk := e.chunk,
      ebits := e.bits, estep := ((p.findPJob e.job).map (·.orec.step)).getD 0, etime := p.cnt, etemp := p.dtemp, evcore := p.vcore,
      eocc := occ, ekernel := e.kernel, ejobs := s.openJobs k % 256,
      eredund := (if underObs && [4, 6, 7].contains e.block then 2 else e.redund) + (if underObs then 4 else 0), eword := e.word }
  let (log, lost) := logAdd p.errLog 1024 r
  let s := s.updPlane k fun p => { p with
    errLog := log, errSeq := p.errSeq + 1,
    errCounts := (e.block, count) :: p.errCounts.filter (·.1 != e.block) }
  let s := if lost then (s.planeCtr k .errLost).setErrsum [esErrLost] else s
  let s := s.setErrsum (k.val :: recBits disp)
  if disp / 16 % 8 = 0 then s else s.report 0xF008 0 e.job (planeBit k) (errBytes r)

/-- What the retirement of a unit means (R253).  A memory unit that a job's data are in is out of allocation once they have left it; `job`
is that job. -/
def State.retireUnit (s : State) (k : PlaneIx) (block index job : Nat) : State :=
  let s := if job = 0 then s else s.updPlane k fun p => { p with retHeld := (block, index, job) :: p.retHeld }
  match block with
  | 1 =>
    let d := devLane k (Fin.ofNat 16 index)
    let s := (s.laneDown d 7 .disabled).updLane d fun l => { l with retired := true }
    if (s.lane d).st = .disabled then s.updLane d fun l => l.laserStop.clockStop
    else s.setLane d .disabled fun l => { l.laserStop.clockStop with ready := false, plock := false, echoOk := false }
  | 2 => s.updPlane k fun p => { p with retCells := index :: p.retCells }
  | 5 => s.updPlane k fun p => { p with retSlots := index :: p.retSlots }
  | 8 => s.updPlane k fun p => { p with retScratch := index :: p.retScratch }
  | 9 => s.updPlane k fun p => { p with retHbm := index :: p.retHbm }
  | _ => s.retirePlane k false

/-- An error on a plane (R244): its record, and observation or retirement of the unit it names. -/
def State.error (s : State) (k : PlaneIx) (e : ErrInfo) : State :=
  let unit := obsUnit e.block e.index
  let (obs, entered, retired) := obsError (s.plane k).obs e.block unit s.host.obsretire
  let disp := e.disp ||| (if entered then dObsEnt else 0) ||| (if retired then dRetired else 0)
  let s := s.writeRecord k e disp !entered
  let s := s.updPlane k fun p => { p with obs := obs }
  if retired then
    let s := s.updPlane k fun p => { p with obs := p.obs.filter fun o => !(o.block == e.block && o.unit == unit) }
    s.retireUnit k e.block e.index e.job
  else s

/-- A record of the host port block: its own series, log of 256, and clock, and no occupancy, which is a plane's (R245, R248); the
temperature and voltage of a plane it is not on are free readings. -/
def State.hostRecord (s : State) (e : ErrInfo) (disp : Nat) (underObs : Bool) : State :=
  let h := s.host
  let count := (h.herrCounts.lookup e.block).getD 0 + 1
  let (n, s) := s.takeFresh
  let rd (i : Nat) : Nat := (Config.reading (4 * n + i)).toNat
  let step := ((planesOf 255).filterMap fun k => (s.pjob k e.job).map (·.orec.step)).headD 0
  let r : ErrRec :=
    { eseq := h.herrcnt, eplane := 255, eblock := e.block, eclass := e.cls, edisp := BitVec.ofNat 8 disp, eindex := e.index,
      ecount := count, ejob := e.job, eop := e.op, eopk := e.opk, estep := step, etime := h.hpcnt, etemp := signed 16 (rd 2 % 65536),
      evcore := rd 3 % 65536, ebits := e.bits, eword := e.word, ekernel := 255, eredund := e.redund + (if underObs then 4 else 0) }
  let (log, lost) := logAdd h.herrLog 256 r
  let s := s.updHost fun h => { h with
    herrLog := log, herrcnt := h.herrcnt + 1, herrlost := if lost then satAdd 32 h.herrlost 1 else h.herrlost,
    herrCounts := (e.block, count) :: h.herrCounts.filter (·.1 != e.block) }
  let s := if lost then s.setErrsum [esErrLost] else s
  let s := s.setErrsum (esHErr :: recBits disp)
  if disp / 16 % 8 = 0 then s else s.report 0xF008 0 e.job 0 (errBytes r)

/-- An error of a combiner chain (R242, R253): a retired chain is left out and shows in `CHAINOUT`. -/
def State.combError (s : State) (chain : Nat) (e : ErrInfo) : State :=
  let entry := s.comb.obs.find? fun o => o.unit == chain
  let (obs, entered, retired) := obsError s.comb.obs 0x0C chain s.host.obsretire
  let disp := e.disp ||| (if entry.isNone && entered then dObsEnt else 0) ||| (if retired then dRetired else 0)
  let s := s.hostRecord { e with block := 0x0C, index := chain } disp entry.isSome
  let s := { s with comb := { s.comb with obs := obs } }
  if retired then
    let s := { s with comb := { s.comb with obs := s.comb.obs.filter (·.unit != chain) } }
    s.setHpFault chain
  else s

/-- A bucket share is poisoned on a plane (R67): the share's flag and the plane's flag word. -/
def State.poison (s : State) (k : PlaneIx) (id b : Nat) : State :=
  s.updPJob k id fun pj =>
    { (pj.updShare b fun h => { h with poisoned := true }) with stepFlags := { pj.stepFlags with poisoned := true } }

/-- A bucket share's overflow flag (R65, R113). -/
def State.overflow (s : State) (k : PlaneIx) (id b : Nat) : State :=
  s.updPJob k id fun pj =>
    { (pj.updShare b fun h => { h with overflow := true }) with stepFlags := { pj.stepFlags with overflow := true } }

/-! ### Checked items (R237 to R243) -/

/-- Counts one check item of a block under SAMPLED (blocks 0x04, 0x06, 0x07); the item whose count is a multiple of 64 is
checked (R237). -/
def Plane.sample (p : Plane) (block : Nat) : Bool × Plane :=
  match block with
  | 4 => (p.sampAdd % 64 == 0, { p with sampAdd := p.sampAdd + 1 })
  | 6 => (p.sampVec % 64 == 0, { p with sampVec := p.sampVec + 1 })
  | 7 => (p.sampMat % 64 == 0, { p with sampMat := p.sampMat + 1 })
  | _ => (false, p)

/-- Whether the next item of a block is checked: FULL or observation always, SAMPLED one in 64 (R237, R250). -/
def State.itemChecked (s : State) (k : PlaneIx) (block redund : Nat) : Bool × State :=
  let p := s.plane k
  if redund = 1 then
    let (b, p) := p.sample block
    (b || p.observed block, s.setPlane k p)
  else (redund = 2 || p.observed block, s)

/-- The physical lane that computes logical lane `i` under assignment `a` (R239). -/
def physLane (block i a : Nat) : Nat :=
  match block with
  | 4 => (i + 32 * a) % 128
  | 6 => (i + 128 * a) % 512
  | _ => (i + (if a = 1 then 64 else if a = 2 then 32 else 0)) % 128

/-- One word after the comparison and majority of R240 and R241: the word that stands, and the suspect assignment (0 the primary's
lane, 1 the check's) or an unresolved word. -/
inductive Verdict
  | agreed
  | primaryStood
  | checkStood
  | unresolved
deriving DecidableEq, Repr, Inhabited

/-- The majority of R241 for one word under its disturbances. -/
def settleWord (w : W32) (f : WordFault) (checked : Bool) : W32 × Verdict :=
  let a := w ^^^ f.primary
  let b := w ^^^ f.check
  let c := w ^^^ f.third
  if !checked || a = b then (a, .agreed)
  else if c = a then (a, .primaryStood)
  else if c = b then (b, .checkStood)
  else (a, .unresolved)

/-- The words of an item as its unit delivers them, with a verdict for each disturbed word: (position, true word, fault, verdict). -/
def settleItem (ws : List W32) (fs : List WordFault) (checked : Bool) : List W32 × List (Nat × W32 × WordFault × Verdict) :=
  fs.foldl (fun acc f =>
    match acc.1[f.word]? with
    | none => acc
    | some w =>
      let r := settleWord w f checked
      (acc.1.set f.word r.1, acc.2 ++ [(f.word, w, f, r.2)])) (ws, [])

/-- The most frequent entry of a list of physical lanes, the lowest in a tie (R241). -/
def suspectLane (ls : List Nat) : Nat :=
  (ls.foldl (fun best l => if ls.count l > ls.count best || (ls.count l = ls.count best && l < best) then l else best) (ls.headD 0))

/-- Runs a check item through its unit (R240, R241, R244): the words that stand, whether the item is unresolved, and the state with
the item's error record. `lane` gives the logical lane of a word position. -/
def State.checkItem (s : State) (k : PlaneIx) (redund : Nat) (e : ErrInfo) (ws : List W32) (fs : List WordFault)
    (lane : Nat → Nat) : List W32 × Bool × State :=
  let (checked, s) := s.itemChecked k e.block redund
  let (out, vs) := settleItem ws fs checked
  let bad := vs.filter fun v => v.2.2.2 != .agreed
  let unres := (bad.filter fun v => v.2.2.2 == .unresolved).mergeSort fun a b => a.1 ≤ b.1
  match unres with
  | v :: _ =>
    let a := v.2.1 ^^^ v.2.2.1.primary
    (out, true, s.error k { e with
      cls := 5, index := physLane e.block (lane v.1) 0, disp := dRetried ||| e.final, bits := v.2.2.1.primary ^^^ v.2.2.1.check,
      word := a, redund := redund })
  | [] =>
    if bad.isEmpty then (out, false, s)
    else
      let suspects := bad.map fun v => physLane e.block (lane v.1) (if v.2.2.2 == .primaryStood then 1 else 0)
      let sus := suspectLane suspects
      let named := (bad.find? fun v => physLane e.block (lane v.1) (if v.2.2.2 == .primaryStood then 1 else 0) == sus).getD default
      let win := named.2.2.2 == .checkStood
      (out, false, s.error k { e with
        cls := if win then 4 else 3, index := sus, disp := dRetried ||| dRetryOk ||| (if win then dCheckWin else 0),
        bits := named.2.2.1.primary ^^^ named.2.2.1.check, word := out.getD named.1 0, redund := redund })

/-- A read of stored data whose byte parity fails `n` times (R63, R244): the first record, and after a failed retry the second,
which carries what follows from it.  Says whether the data stayed unreadable. -/
def State.parityRead (s : State) (k : PlaneIx) (e : ErrInfo) (n : Nat) : Bool × State :=
  if n = 0 then (false, s)
  else if n = 1 then (false, s.error k { e with cls := 1, disp := dRetried ||| dRetryOk })
  else
    let s := s.error k { e with cls := 1, disp := dRetried }
    (true, s.error k { e with cls := 1, disp := dSecond ||| e.final })

/-- A stored frame whose parity fails as a stage reads it is discarded: its bytes (R177), or its entry in queue or hold list `q` (R236). -/
def State.loseStored (s : State) (k : PlaneIx) (f : Frame) (x : StoredFault) (q : Nat) : State :=
  let e : ErrInfo := { block := 3, cls := 2, index := q, job := f.hdr.job, op := f.hdr.op, opk := 2, bucket := f.hdr.bucket, chunk := f.hdr.chunk }
  (s.frmDrop k).error k (match x with
    | .bytes i m => { e with block := 2, cls := 1, index := i, bits := m, word := BitVec.ofNat 32 i }
    | _ => e)

/-- A retired unit that still holds data of a job on the plane (R253). -/
def Plane.stillHolds (p : Plane) (block index : Nat) : Bool :=
  p.retHeld.any fun x => x.1 == block && x.2.1 == index &&
    (if block = 9 then p.jobs.any (·.id == x.2.2) else p.retained.any fun r => r.job == x.2.2)

/-- The job counters in the order of the counter sets 1 to 6 of R297. -/
def jobCounters : List JCtr :=
  [.frmRej, .frmStale, .dupChunk, .quotaRef, .qRounds, .redTmo, .spillBkt, .slotHwm, .precBlk, .rootRef, .rootRej, .refLate,
   .gathers, .gathCoal, .gathHeld, .gathRej, .genRej, .stashHit, .stashRel, .masterRg, .prefHit, .prefDrop, .elided, .retSend, .resend,
   .billGB, .billYB, .billGF, .billYF, .meterDrop, .partDrop, .digCmp, .digMiss, .expelled, .rebuilds, .rebuildRs, .syncSat, .ckptWait]

/-- The lane counters in the order of the lane sets of R297. -/
def laneCounters : List LCtr :=
  [.frmSize, .frmCrc, .frmStomp, .frmPar, .frmMal, .ovfDrop, .peerDrop, .downDrop, .gateHold, .shapeWait,
   .downCnt, .losCnt, .fecCor, .fecSym, .fecUnc, .blkErr, .trainErr, .polFlip, .idleDel]

/-- The plane counters. -/
def planeCounters : List PCtr := [.frmDrop, .peerWait, .bufLeak, .bufDup, .testLate, .errLost]

/-- A counter of a set at a position, set to 0. -/
def ctrZero {α : Type} [BEq α] (names : List α) (cs : List (α × Nat)) (n : Nat) : List (α × Nat) :=
  match names[n]? with
  | some c => ctrSet cs c 0
  | none => cs

/-- A record of the plane's log fails parity: it is replaced by a record of class 2 that names the log (R236; the log lies in the general
cores' memory, block 0x0B, R248). -/
def State.loseRecord (s : State) (k : PlaneIx) (n : Nat) : State :=
  let s := s.error k { block := 0x0B, cls := 2 }
  s.updPlane k fun p =>
    match p.errLog[n]?, p.errLog.getLast? with
    | some old, some new => { p with errLog := (p.errLog.set n { new with eseq := old.eseq }).dropLast }
    | _, _ => p

/-- A held frame's list entry fails parity: the entry is dropped and the frame it named is lost (R236). -/
def State.loseHeld (s : State) (k : PlaneIx) (n : Nat) : State :=
  match (s.plane k).held[n]? with
  | none => s
  | some h => (s.updPlane k fun p => { p with held := p.held.eraseIdx n }).loseStored k h.frame .entry 0

/-- A parity failure in a control structure (R236): one copy of a duplicated structure is rewritten from the other; both retire the
plane; bucket state poisons the bucket (the result's Bool); a counter is set to 0; a shaper bucket is filled at the next refill; a log record is
replaced; a held entry is dropped.  For a synchronisation value, whose job index `e.index` gives, `EWORD` shows the physical object's number
(R156).  A word of a shard that is read for a gather, digest or checkpoint fails as data (R244). -/
def State.ctlFault (s : State) (k : PlaneIx) (e : ErrInfo) (c : CtlFault) : Bool × State :=
  let word (n : Nat) : W32 := if n = 2 then BitVec.ofNat 32 (((s.pjob k e.job).bind fun j => j.syncPhys[e.index]?).getD 0) else e.word
  let counter (f : Plane → Plane) : State := (s.error k { e with block := 0x0B, cls := 2, index := 0 }).updPlane k f
  match c with
  | .none => (false, s)
  | .oneCopy n => (false, s.error k { e with block := 0x0A, cls := 2, index := n, disp := dRetried ||| dRetryOk, word := word n })
  | .bothCopies n =>
    let s := s.error k { e with block := 0x0A, cls := 2, index := n, disp := dRetired, word := word n }
    (false, if (s.plane k).ps = .retired then s else s.retirePlane k false)
  | .bucketState => (true, s.error k { e with block := 0x05, cls := 2, disp := dPoison })
  | .counter n => (false, counter fun p => p.updPJob e.job fun j => { j with ctrs := ctrZero jobCounters j.ctrs n })
  | .laneCounter l n => (false, counter fun p => p.updLane l fun x => { x with ctrs := ctrZero laneCounters x.ctrs n })
  | .planeCounter n => (false, counter fun p => { p with ctrs := ctrZero planeCounters p.ctrs n })
  | .drrTurn l => (false, counter fun p => p.updPJob e.job fun j => { j with drrTurns := j.drrTurns.filter (·.1 != l.val) })
  | .shaper l => (false, counter fun p => p.updLane l fun x => { x with shapeBad := true })
  | .logRecord n => (false, s.loseRecord k n)
  | .heldEntry n => (false, s.loseHeld k n)
  | .shardWord b index fails =>
    let r := s.parityRead k { e with block := 9, cls := 0, index := index, bucket := b } fails
    (false, if r.1 then r.2.poison k e.job b else r.2)

/-- The conditions a frame's handling meets (R236, R244), whatever the frame does. -/
def State.workFault (s : State) (k : PlaneIx) (job : Nat) (w : ItemFault) : State :=
  (s.ctlFault k { block := 0, cls := 0, index := w.index, job := job, bits := w.mask, word := BitVec.ofNat 32 w.index } w.ctl).2

end Sys2Proof.Machine
end

