-- ==== Sys2Proof/Machine/Optical.lean ====
section
/-! DEFINITION. Co-packaged optical lanes: bring-up, polarity and order correction, the causes of a lane going down, the dormant
state and the connection faults (R218 to R234). -/
namespace Sys2Proof.Machine

/-- The outcome of a command: a next state, always. -/
abbrev Out := Host.Outcome State Fault Refusal

/-! ### Identity, echo and the corrector -/

/-- Bits [6:0] of byte 1 that a lane of this device sends: `ROLE` 1, the plane and the board index (R219). -/
def State.ownByte1 (s : State) (d : DevLane) : Nat := 64 + 8 * (planeOf d).val + s.bidx

/-- The far end echoes this lane's own fields with `ECHOV` (R220): a member's own fields are zero, so that zero is what its lane must be
echoed, and what a device's lane must be echoed, by a member as well, is what it sends (R219, R222; DEDUCED, notes/assumptions 15). -/
def State.echoPasses (s : State) (d : DevLane) (t : TrainInfo) : Bool :=
  t.b3.getLsbD 7 && t.b3.toNat % 128 == s.ownByte1 d && t.b4.toNat % 16 == (laneIn d).val

/-- This end is the corrector of the lane's link (R221). -/
def State.corrector (s : State) (d : DevLane) : Bool := !s.isPeer d || s.bidx > s.farDev d

/-- The identity check of R223, without the echo: the role, the far device and plane, and the board index. -/
def State.identityOk (s : State) (d : DevLane) (t : TrainInfo) : Bool :=
  let role := t.b1.getLsbD 6
  let tplane := t.b1.toNat / 8 % 8
  let tbidx := t.b1.toNat % 8
  if s.isPeer d then role && tbidx == s.farDev d && tplane == (planeOf d).val && tbidx != s.bidx else !role

/-- The lane an echo names, within the plane: only where it echoes a lane of this device's plane. -/
def State.echoLane (s : State) (d : DevLane) (t : TrainInfo) : Option Nat :=
  if t.b3.getLsbD 7 && t.b3.toNat % 128 == s.ownByte1 d then some (t.b4.toNat % 16) else none

/-- The identity check of R223 whole: once the receive order is fixed, an echo that names anything but this lane fails it. -/
def State.wired (s : State) (d : DevLane) (t : TrainInfo) : Bool :=
  let e := (s.plane (planeOf d)).engines[engineIn (laneIn d)]
  s.identityOk d t && (!e.orderSet || !t.b3.getLsbD 7 || s.echoPasses d t)

/-! ### Engines -/

/-- The plane of an engine (R213). -/
def enginePlane (e : Fin 16) : PlaneIx := ⟨e.val / 2, by omega⟩

/-- The engine of its plane: 0 even, 1 odd (R213). -/
def engineSide (e : Fin 16) : Fin 2 := ⟨e.val % 2, by omega⟩

/-- The eight lanes of an engine (R213). -/
def engineLanes (e : Fin 16) : List DevLane := (List.finRange 128).filter fun d => d.val / 8 == e.val

/-- The engine of a lane. -/
def laneEngine (d : DevLane) : Fin 16 := ⟨d.val / 8, by omega⟩

def State.engine (s : State) (e : Fin 16) : Engine := (s.plane (enginePlane e)).engines[engineSide e]

def State.updEngine (s : State) (e : Fin 16) (f : Engine → Engine) : State :=
  s.updPlane (enginePlane e) fun p => { p with engines := p.engines.set (engineSide e) (f p.engines[engineSide e]) }

/-! ### Training -/

/-- The states in which a lane sends the pattern and listens. -/
def LState.trains : LState → Bool
  | .dark | .training | .hold | .miswired => true
  | _ => false

/-- Training starts again on a lane: lock and the 100 µs are lost (R220, R228).  What the last valid `TRAIN` block said stays (R232, R233). -/
def Lane.breakLock (l : Lane) : Lane := { l with plock := false, echoOk := false, ready := false }

/-- The identity of a `TRAIN` block kept for the lane status (R232). -/
def Lane.keepIdentity (l : Lane) (t : TrainInfo) : Lane :=
  { l with farid1 := t.b1, farid2 := t.b2, farReady := t.b1.getLsbD 7 }

/-- The report of a lane that enters `MISWIRED` (R223, R294). -/
def State.miswiredReport (s : State) (d : DevLane) (t : TrainInfo) : State :=
  s.report 0xF007 0 0 (planeBit (planeOf d))
    (leBytes 1 d.val ++ [t.b1, t.b2] ++ zeros 5 ++ leBytes 8 (s.lane d).lchange)

/-- Errored PRBS blocks received while a lane trains or is held (R228, R234). -/
def State.trainErrs (s : State) (d : DevLane) (n : Nat) : State :=
  if n = 0 || !(s.lane d).st.trains then s else s.laneCtr d .trainErr n

/-- What a lane sends while it trains: byte 1 to 4 of its `TRAIN` block (R219).  `READY` is withheld outside `TRAINING` (R228). -/
def State.trainBytes (s : State) (d : DevLane) : List Byte :=
  let l := s.lane d
  let e := s.engine (laneEngine d)
  leBytes 1 (s.ownByte1 d + 128 * (l.ready && l.st == .training).toNat) ++
  leBytes 1 ((laneIn d).val + 64 * e.polSwap.toNat + 128 * e.rxRev.toNat) ++
  (if l.plock then leBytes 1 (l.farid1.toNat % 128 + 128) ++ leBytes 1 (l.farid2.toNat % 16) else [0, 0])

/-- `TSEQ`: the groups of 5.12 ns sent since the lane began to send the pattern (R219; that its count begins there, DESIGN CHOICE,
notes/assumptions 78). -/
def State.trainSeq (s : State) (d : DevLane) : Nat := ((s.plane (planeOf d)).cnt - (s.lane d).trainAt) * 100 / 512

/-- The group that a training lane sends now (R219); none from a lane that is not training or whose laser is off. -/
def State.sentGroup (s : State) (d : DevLane) : Option (List Block66) :=
  let l := s.lane d
  if l.st.trains && l.laserOn then
    match s.trainBytes d with
    | [b1, b2, b3, b4] =>
      let n := s.trainSeq d
      some (trainGroup b1 b2 b3 b4 n (prbsSkip (1984 * n) (Config.prbsStart d.val)))
    | _ => none
  else none

/-- The receive order of the engine is set from the first lock whose echo names a lane of the same engine, while no lane of it is up (R222):
the corrector leaves or reverses it; at the other end, which never changes it, the first echo that names the lane itself shows it fixed
(DEDUCED, notes/assumptions 86). -/
def State.setOrder (s : State) (d : DevLane) (t : TrainInfo) : Bool × State :=
  let e := laneEngine d
  let p := (laneIn d).val % 8
  match s.echoLane d t with
  | some l =>
    if !(s.engine e).orderSet && l / 8 = (laneIn d).val / 8 && (engineLanes e).all (fun x => (s.lane x).st != .up) then
      if l % 8 = p then (false, s.updEngine e fun x => { x with orderSet := true })
      else if s.corrector d && l % 8 = 7 - p then
        let s := s.updEngine e fun x => { x with orderSet := true, rxRev := !x.rxRev }
        (true, s.each (engineLanes e) fun s d => s.updLane d Lane.breakLock)
      else (false, s)
    else (false, s)
  | none => (false, s)

/-- Pattern lock is declared on a lane in training, or its `TRAIN` block is evaluated again (R220): the identity is kept, the corrector may set
the receive order (R222), and the identity and echo checks are evaluated (R223); a check that fails breaks the 100 µs. -/
def State.patternLock (s : State) (d : DevLane) (t : TrainInfo) : State :=
  if !(s.lane d).st.trains then s
  else
    let s := (s.trainErrs d t.errs).updLane d fun l => { l.keepIdentity t with plock := true, feclock := true, clk := true }
    let (reversed, s) := s.setOrder d t
    if reversed then s
    else if s.wired d t then
      let echo := s.echoPasses d t
      let s := s.updLane d fun l => { l with echoOk := echo, ready := l.ready && echo, noEcho := l.noEcho && !echo }
      if (s.lane d).st = .miswired then s.setLane d .training id else s
    else
      let s := s.updLane d fun l => { l with echoOk := false, ready := false }
      if (s.lane d).st = .miswired || (s.lane d).st = .hold then s
      else (s.setLane d .miswired id).miswiredReport d t

/-- Loss of light (R225 cause 1, R231): counted, an `UP` lane goes down, a training lane is `DARK`. -/
def State.lossOfLight (s : State) (d : DevLane) : State :=
  let l := s.lane d
  if l.st = .disabled then s
  else
    let s := if l.los then s else s.laneCtr d .losCnt
    let s := s.updLane d fun l => { l.clockStop with los := true }
    if l.st = .up then s.laneDown d 1 .dark
    else
      let s := s.updLane d Lane.breakLock
      if l.st = .training || l.st = .miswired then s.setLane d .dark id else s

/-- An `UP` lane goes down with a cause and trains again; a training lane loses its lock. -/
def State.linkLoss (s : State) (d : DevLane) (cause : Nat) : State :=
  let l := s.lane d
  if l.st = .up then s.laneDown d cause l.retrain
  else if l.st.trains then s.updLane d Lane.breakLock else s

/-- `DORMANT` arrives (R229): an unused lane enters `DORMANT` (cause 6), a used one is marked down and keeps training (cause 5). -/
def State.dormantIn (s : State) (d : DevLane) : State :=
  let l := s.lane d
  if l.st = .disabled || l.st = .txfault || l.st = .dormant then s
  else if (s.laneJobs d).isEmpty then
    let s := if l.st = .up then s.laneDown d 6 .dormant else s.setLane d .dormant Lane.breakLock
    s.updLane d fun l => l.laserStop.clockStop
  else if l.st = .up then s.laneDown d 5 l.retrain else s

/-- A transmitter or engine fault on one lane (R231): laser off, `TXFAULT`, cause 8, and an error record of class 11.  A disabled lane, whose
laser is off, has none of its own; an engine control fault (`engine`) takes it too. -/
def State.txFault (s : State) (d : DevLane) (engine : Bool := false) : State :=
  let l := s.lane d
  if (l.st = .disabled && !engine) || l.st = .txfault then s
  else
    let s := if l.st = .up then s.laneDown d 8 .txfault else s.setLane d .txfault Lane.breakLock
    let s := s.updLane d Lane.laserStop
    s.error (planeOf d) { block := 1, cls := 11, index := (laneIn d).val }

/-- A lane comes up (R220 step 3, R226), unless it is held off for 1 ms after going down. -/
def State.bringUp (s : State) (d : DevLane) (t : TrainInfo) : State :=
  let s := s.trainErrs d t.errs
  let l := s.lane d
  if l.st = .training && l.ready && l.plock && l.echoOk && t.b1.getLsbD 7 && !l.holdoff then
    let us := BitVec.ofNat 32 (((s.plane (planeOf d)).cnt - l.lightAt) / 1000)
    let s := s.setLane d .up fun l => { l.keepIdentity t with trainus := us, noEcho := false }
    s.report 0xF006 0 0 (planeBit (planeOf d))
      (leBytes 1 d.val ++ zeros 3 ++ packFp32 [us] ++ leBytes 8 (s.lane d).lchange)
  else s

/-- Light reaches a lane's receiver: a `DARK` lane moves to `TRAINING` (R224, R231). -/
def State.lightIn (s : State) (d : DevLane) : State :=
  let l := s.lane d
  if l.st = .disabled || !l.los then s
  else
    let t := (s.plane (planeOf d)).cnt
    let s := s.updLane d fun l => { l with los := false, lightAt := t, clk := l.st != .dormant }
    if l.st = .dark then s.setLane d .training id else s

/-- A lane leaves `DORMANT`: its laser is turned on and it trains (R230). -/
def State.wakeLane (s : State) (d : DevLane) : State :=
  if (s.lane d).st = .dormant then
    let t := (s.plane (planeOf d)).cnt
    s.setLane d (s.lane d).retrain fun l => l.breakLock.laserStart (s.calBias d) t
  else s

/-- A polarity flip by the corrector (R221): every RX position of the engine dark, no flip under way. -/
def State.flipPolarity (s : State) (e : Fin 16) : State :=
  let ls := engineLanes e
  if ls.all (fun d => (s.lane d).los && (s.lane d).st != .up && s.corrector d) && !(s.engine e).flipping then
    let s := s.updEngine e fun x => { x with polSwap := !x.polSwap, flipping := true, flipsDark := x.flipsDark + 1 }
    s.each ls fun s d => s.laneCtr d .polFlip
  else s

/-- The flip completes; the receivers that it lit see light (R221). -/
def State.flipDone (s : State) (e : Fin 16) (lit : BitVec 8) : State :=
  if !(s.engine e).flipping then s
  else
    let s := s.updEngine e fun x => { x with flipping := false, flipsDark := if lit = 0 then x.flipsDark else 0 }
    s.each ((engineLanes e).filter fun d => lit.getLsbD (d.val % 8)) fun s d => s.lightIn d

/-! ### The rows -/

/-- The lane layer of a plane runs: it does not while boot holds the plane (R311, R353), nor on a retired plane (R11). -/
def Plane.linksRun (p : Plane) : Bool := p.ps != .held && p.ps != .retired

/-- An event of a lane or an engine, which has no effect while the lane layer of its plane does not run. -/
def State.onLinks (s : State) (k : PlaneIx) (f : State → State) : Out := .next (if (s.plane k).linksRun then f s else s)

def execLossOfLight (d : DevLane) (s : State) : Out := s.onLinks (planeOf d) fun s => s.lossOfLight d

/-- Receive clock lock lost (R225 cause 2). -/
def execReceiveClockLoss (d : DevLane) (s : State) : Out :=
  s.onLinks (planeOf d) fun s => if (s.lane d).st = .disabled then s else (s.updLane d Lane.clockStop).linkLoss d 2

/-- FEC lock lost, or 8 consecutive codewords uncorrectable, each counted in `FECUNC` (R225 cause 3, R218). -/
def execFecLockLoss (d : DevLane) (uncorrectable : Nat) (s : State) : Out :=
  s.onLinks (planeOf d) fun s =>
    if (s.lane d).st = .disabled then s
    else ((s.laneCtr d .fecUnc uncorrectable).updLane d fun l => { l with feclock := false }).linkLoss d 3

/-- A valid `TRAIN` block on an `UP` lane: the far end trains again (R225 cause 4). -/
def execTrainWhileUp (d : DevLane) (t : TrainInfo) (s : State) : Out :=
  s.onLinks (planeOf d) fun s =>
    if (s.lane d).st = .up then (s.laneDown d 4 (s.lane d).retrain).updLane d fun l => l.keepIdentity t else s

def execDormantReceived (d : DevLane) (s : State) : Out := s.onLinks (planeOf d) fun s => s.dormantIn d

def execTransmitterFault (d : DevLane) (s : State) : Out := s.onLinks (planeOf d) fun s => s.txFault d

/-- An engine control fault is a transmitter fault of each of the engine's 8 lanes (R231). -/
def execEngineControlFault (e : Fin 16) (s : State) : Out :=
  s.onLinks (enginePlane e) fun s => s.each (engineLanes e) fun s d => s.txFault d true

/-- High laser bias (R231, R233): `BIASHI` and an error record; the lane stays in use.  A laser that is off has no bias. -/
def execHighLaserBias (d : DevLane) (s : State) : Out :=
  s.onLinks (planeOf d) fun s =>
    if (s.lane d).laserOn then
      (s.updLane d fun l => { l with biasHi := true }).error (planeOf d) { block := 1, cls := 11, index := (laneIn d).val }
    else s

/-- An invalid block outside a frame, or a frame on a lane that is not `UP` (R218); a disabled receiver counts nothing (R11). -/
def execInvalidBlock (d : DevLane) (s : State) : Out :=
  s.onLinks (planeOf d) fun s => if (s.lane d).st = .disabled then s else s.laneCtr d .blkErr

def execPatternLock (d : DevLane) (t : TrainInfo) (s : State) : Out := s.onLinks (planeOf d) fun s => s.patternLock d t

/-- Pattern lock lost (R220): the errored blocks are counted in `TRAINERR` (R234) and the 100 µs restarts. -/
def execPatternLockLost (d : DevLane) (erroredBlocks : Nat) (s : State) : Out :=
  s.onLinks (planeOf d) fun s =>
    if (s.lane d).st.trains then (s.laneCtr d .trainErr erroredBlocks).updLane d Lane.breakLock else s

/-- Lock and a passing echo held for 100 µs: `READY` (R220 step 2); a held lane withholds it (R228). -/
def execReadyTimerExpiry (d : DevLane) (s : State) : Out :=
  s.onLinks (planeOf d) fun s =>
    if (s.lane d).st = .training && (s.lane d).plock && (s.lane d).echoOk then s.updLane d fun l => { l with ready := true } else s

def execLaneUp (d : DevLane) (t : TrainInfo) (s : State) : Out := s.onLinks (planeOf d) fun s => s.bringUp d t

/-- 1 ms since the lane went down (R220). -/
def execDownHoldoffExpiry (d : DevLane) (s : State) : Out :=
  s.onLinks (planeOf d) fun s => s.updLane d fun l => { l with holdoff := false }

/-- `NOECHO` (R233): lock for 1 ms without a passing echo check. -/
def execNoechoTimeout (d : DevLane) (s : State) : Out :=
  s.onLinks (planeOf d) fun s =>
    if (s.lane d).st.trains && (s.lane d).plock && !(s.lane d).echoOk then s.updLane d fun l => { l with noEcho := true } else s

def execPolarityFlip (e : Fin 16) (s : State) : Out := s.onLinks (enginePlane e) fun s => s.flipPolarity e

def execPolarityFlipDone (e : Fin 16) (lit : BitVec 8) (s : State) : Out := s.onLinks (enginePlane e) fun s => s.flipDone e lit

/-- All 8 lanes of an engine down together for 1 ms: polarity and order are evaluated afresh (R222). -/
def execEngineReevaluate (e : Fin 16) (s : State) : Out :=
  s.onLinks (enginePlane e) fun s =>
    if (engineLanes e).all fun d => (s.lane d).st != .up then s.updEngine e fun x => { x with orderSet := false } else s

/-- Light above the deassert level on a dormant lane (R230). -/
def execDormantWakeLight (d : DevLane) (s : State) : Out :=
  s.onLinks (planeOf d) fun s => if (s.lane d).st = .dormant then (s.lightIn d).wakeLane d else s

def execLightReturn (d : DevLane) (s : State) : Out := s.onLinks (planeOf d) fun s => s.lightIn d

/-- Whether the board size overrides a lane's cut-through settings (R25, R192). -/
def State.fwdOverridden (s : State) (d : DevLane) : Bool := 5 ≤ s.part.bsize || (3 ≤ s.part.bsize && s.isPeer d)

end Sys2Proof.Machine
end

