-- ==== Sys2Proof/Machine/Traffic.lean ====
section
/-! DEFINITION. The bytes of a frame (R169 to R172), the stage queues and their credits (R19, R236), the policer (R199 to R202), the
refill (R200, R201, R205, R207), the gates (R208 to R210) and egress selection (R203 to R205). -/
namespace Sys2Proof.Machine

/-! ### Frame bytes -/

/-- Bits [159:0] of a header as 20 bytes (R170). -/
def hdrLow (h : Hdr) (len : Nat) : List Byte :=
  leBytes 1 h.op ++ leBytes 1 (h.tent.toNat + 2 * h.final.toNat + 4 * h.rw.toNat + 16 * h.fmt) ++ leBytes 2 h.job ++ leBytes 2 len ++
  leBytes 2 h.bucket ++ leBytes 2 h.comma ++ leBytes 3 (h.chunk % 2 ^ 20) ++ leBytes 3 h.elemoff ++ leBytes 4 h.gen

/-- Bits [255:160] of the transit form (R171). -/
def hdrTransit (h : Hdr) : List Byte :=
  leBytes 2 h.mask ++ leBytes 1 h.cls ++ leBytes 1 (h.memb % 128 + 128 * h.uni.toNat) ++ leBytes 1 (h.srcdev % 8) ++ zeros 7

/-- Bits [255:160] of the delivery form (R172). -/
def hdrDelivery (h : Hdr) : List Byte := leBytes 4 h.rwkey ++ leBytes 8 h.rwaddr

/-- The types that use each field of bits [159:0] (R170, R173 to R175, R76, R126, R136, R137, R163, R165, R184, R261). -/
def usesFmt : List Nat := [opGrad, opPartial, opLoad, opParm, opRslt, opCkpt]
def usesBucket : List Nat := [opDone, opStatus, opAck, opRdreq, opSread, opDigest] ++ usesFmt
def usesComma : List Nat := [opGrad, opPartial, opDone, opStatus, opLoad, opRslt, opAck, opRdreq, opCkpt]
def usesChunk : List Nat := [opStatus, opAck, opRdreq, opSread] ++ usesFmt
def usesGen : List Nat := [opParm, opNotice, opRetract, opCkpt]

/-- The header as it is sent: a field that the type does not use is zero (R170), whatever a frame passed on carried there. -/
def Hdr.sent (h : Hdr) : Hdr :=
  let on (l : List Nat) (v : Nat) : Nat := if l.contains h.op then v else 0
  { h with
    tent := h.tent && h.op == opParm, final := h.final && h.op == opDone, fmt := on usesFmt h.fmt, bucket := on usesBucket h.bucket,
    comma := on usesComma h.comma, chunk := on usesChunk h.chunk, elemoff := on usesFmt h.elemoff, gen := on usesGen h.gen }

/-- The 32 header bytes of a frame with a payload of `len` bytes: the transit form on a peer lane, the delivery form on a member lane. -/
def headerBytes (peer : Bool) (h : Hdr) (len : Nat) : List Byte :=
  let h := h.sent
  hdrLow { h with rw := h.rw && !peer } len ++ (if peer then hdrTransit h else hdrDelivery h)

/-- The bytes of a frame with its trailer (R169, R176). -/
def frameBytes (peer : Bool) (f : Frame) : List Byte :=
  let pl := pad64 f.payload
  let b := headerBytes peer f.hdr pl.length ++ pl
  b ++ crcBytes b

/-- The blocks of the frames a lane has sent, in order (R217), before scrambling; `codedStream` gives the codewords (R215). -/
def State.sentBlocks (s : State) (d : DevLane) : List Block66 :=
  streamBlocks 0 ((s.out.fibre.filter (·.1 == d.val)).map (·.2))

/-- The header of 32 received bytes, in the transit form (R170, R171). -/
def parseHeader (b : List Byte) : Hdr :=
  let fl := fieldAt b 1 1
  { op := fieldAt b 0 1, tent := fl.testBit 0, final := fl.testBit 1, rw := fl.testBit 2, fmt := fl / 16, job := fieldAt b 2 2,
    len := fieldAt b 4 2, bucket := fieldAt b 6 2, comma := fieldAt b 8 2, chunk := fieldAt b 10 3 % 2 ^ 20, elemoff := fieldAt b 13 3,
    gen := fieldAt b 16 4, mask := fieldAt b 20 2, cls := fieldAt b 22 1, memb := fieldAt b 23 1 % 128,
    uni := (fieldAt b 23 1).testBit 7, srcdev := fieldAt b 24 1 % 8 }

/-- Reserved header bits of the transit form are zero: bits 11, [103:100] and [255:195] (R170, R171). -/
def hdrRsvdZero (b : List Byte) : Bool :=
  !(fieldAt b 1 1).testBit 3 && fieldAt b 12 1 / 16 == 0 && fieldAt b 24 1 / 8 == 0 && zeroAt b 25 7

/-! ### Credits (R19) -/

/-- What a dropped entry named is lost: the contribution of an Admit entry, the requests of a Gather entry (R236, R180). -/
def State.loseEntry (s : State) (k : PlaneIx) (q : Nat) (e : QEntry) : State :=
  if q = 1 then s.updShare k e.job e.bucket fun h => { h with
    contribs := h.contribs.filter fun c => !(c.chunk == e.chunk && c.pass == e.pass && c.member == e.member) }
  else if q = 2 then s.updPlane k fun p => { p with gathers := p.gathers.filter fun g => !(g.job == e.job && g.layer == e.bucket) }
  else if q = 0 then s.updPlane k fun p => { p with parked := p.parked.eraseIdx 1 }
  else s

/-- A lane's queue without one descriptor; a lent job left without frames leaves the round robin (R204). -/
def Lane.leave (l : Lane) (x : Desc) (q : List Desc) : Lane :=
  { l with egress := q, drr := if q.any (fun y => y.job == x.job && y.cls < 0x80) then l.drr else l.drr.filter (·.job != x.job) }

/-- A stage removes an entry from its input queue (R19); an entry whose parity fails is dropped with what it named (R236).  The heads of the
Parse, Spill, Result and Publish queues are removed as soon as the stage after them has a credit, so that a removal there finds none left to
do. -/
def State.creditReturn (s : State) (k : PlaneIx) (q : Fin 8) (l : LaneIx) (parityBad : Bool) : State :=
  if q.val = 7 then
    let d := devLane k l
    if parityBad then
      match (s.lane d).egress with
      | [] => s
      | x :: xs =>
        let s := s.updLane d fun n => n.leave x xs
        (s.frmDrop k).error k { block := 3, cls := 2, index := 7, job := x.job, op := x.frame.hdr.op, opk := 2 }
    else
      s.updLane d fun n =>
        match n.egWait with
        | [] => n
        | x :: xs => if n.egress.length < 128 then { (n.joinDrr x) with egress := n.egress ++ [x], egWait := xs } else n
  else
    let x := (s.plane k).queue q.val
    if parityBad then
      match x.entries with
      | [] => s
      | e :: _ =>
        let s := s.updPlane k fun p => p.setQueue q.val x.dropHead
        let s := s.loseEntry k q.val e
        (s.frmDrop k).error k { block := 3, cls := 2, index := q.val, job := e.job, bucket := e.bucket, chunk := e.chunk, pass := e.pass }
    else if q.val = 0 || q.val = 3 || q.val = 5 || q.val = 6 then s
    else s.updPlane k fun p => p.setQueue q.val x.credit

/-! ### The policer -/

/-- What the policer decides for a frame (R200). -/
inductive Colour
  | green | yellow | red | refused
deriving DecidableEq, Repr, Inhabited

/-- Colour and admission of `b` bytes against a job's buckets and its partition's (R200, R201). -/
def colourOf (r : RateBlock) (tc tp part b : Nat) : Colour :=
  if !r.unmetered && tp < b then .red
  else if part < b then .refused
  else if !r.unmetered && tc < b then .yellow
  else .green

/-- The policer (R199 to R202): whether the frame goes on, and the state with tokens, billing and drops. Only a frame on a member
lane of a job in `LOADING`, `RUNNING` or `RECLAIMING` is metered. -/
def State.police (s : State) (d : DevLane) (job bytes : Nat) : Bool × State :=
  let k := planeOf d
  match s.findJob job, s.pjob k job with
  | some j, some pj =>
    if s.isPeer d || !j.st.isActive || (s.laneMember j k (laneIn d)).isNone then (true, s)
    else
      let serve := j.hdr.serving
      let part := if serve then (s.plane k).tokServe else (s.plane k).tokLend
      match colourOf pj.rate pj.tc pj.tp part bytes with
      | .red => (false, (s.jobCtr k job .meterDrop).frmDrop k)
      | .refused => (false, (s.jobCtr k job .partDrop).frmDrop k)
      | c =>
        let free := pj.rate.unmetered
        let green := c == .green
        let s := s.updPJob k job fun pj => { pj with
          tp := if free then pj.tp else pj.tp - bytes
          tc := if free || !green then pj.tc else pj.tc - bytes }
        let s := s.updPlane k fun p => if serve then { p with tokServe := p.tokServe - bytes } else { p with tokLend := p.tokLend - bytes }
        let s := s.jobCtr64 k job (if green then .billGB else .billYB) bytes
        (true, s.jobCtr64 k job (if green then .billGF else .billYF) 1)
  | _, _ => (true, s)

/-! ### The refill -/

/-- A job's buckets at a refill: a pending contract takes effect, the rates are added, the sizes bound them (R200, R207); buckets
whose parity failed are filled (R236). -/
def PJob.refill (j : PJob) : PJob :=
  let r := j.pendRate.getD j.rate
  if j.meterBad then { j with rate := r, pendRate := none, tc := r.cbs, tp := r.pbs, meterBad := false }
  else { j with rate := r, pendRate := none, tc := min (j.tc + r.cir) r.cbs, tp := min (j.tp + r.pir) r.pbs }

/-- A lane's shaper at a refill (R205, R207); a bucket whose parity failed is filled (R236). -/
def Lane.refill (l : Lane) : Lane :=
  let (rate, burst, ovh) := l.pendShape.getD (l.shrate, l.shburst, l.shovh)
  { l with shrate := rate, shburst := burst, shovh := ovh, pendShape := none, shapeBad := false,
           ts := if l.shapeBad then burst else min (l.ts + rate) burst }

/-- The refill of a plane (R200, R201, R205, R207); `parityBadJob` names a job whose meter buckets fail parity as they are read. -/
def State.refill (s : State) (k : PlaneIx) (parityBadJob : Option Nat) : State :=
  let part := s.part
  let s := s.updPlane k fun p => { p with
    jobs := p.jobs.map PJob.refill
    lanes := p.lanes.map Lane.refill
    tokLend := min (p.tokLend + part.lend.partceil) part.lend.partburst
    tokServe := min (p.tokServe + part.serve.partceil) part.serve.partburst }
  match parityBadJob with
  | none => s
  | some id =>
    match s.pjob k id with
    | none => s
    | some _ => (s.updPJob k id fun j => { j with meterBad := true }).error k { block := 0x0B, cls := 2, job := id }

def execRefill (k : PlaneIx) (parityBadJob : Option Nat) (s : State) : Out := .next (s.refill k parityBadJob)

/-! ### Gates -/

/-- Where a counter value stands in a gate cycle of length `g` under a phase (R209). -/
def gatePos (g phase cnt : Nat) : Nat := (cnt + g - phase % g) % g

/-- The start of the cycle that comes next on a plane (R209): the end of the running one, or, with a phase waiting, the first counter value
at or after the end of the cycle that ran when the plane took it that satisfies the new phase. -/
def Plane.nextCycle (p : Plane) (g : Nat) : Nat :=
  match p.pendPhase with
  | none => p.cnt + (g - gatePos g p.gphase p.cnt)
  | some np => p.gateEnd + (g - gatePos g np p.gateEnd) % g

/-- The end of the running cycle, kept from a phase that already waits (R209). -/
def Plane.nextGateEnd (p : Plane) (g : Nat) : Nat := if p.pendPhase.isSome then p.gateEnd else p.nextCycle g

/-- The distance in ns from the plane's counter to the start of the next serving window (R208, R209); none without gates.  Between the end
of a cycle and the start of the next under a new phase there is no window. -/
def State.nextWindow (s : State) (k : PlaneIx) : Option Nat :=
  let g := s.part.gcycle
  if s.part.gnwin = 0 || g = 0 then none
  else
    let p := s.plane k
    let pos := gatePos g p.gphase p.cnt
    let ws := s.part.gstart.take s.part.gnwin
    match if p.pendPhase.isSome && p.gateEnd ≤ p.cnt then none else ws.find? (· ≥ pos) with
    | some w => some (w - pos)
    | none => some (p.nextCycle g + ws.headD 0 - p.cnt)

/-- The payload length a frame is sent with. -/
def Frame.len (f : Frame) : Nat := (pad64 f.payload).length

/-- The wire bytes of a frame of a payload length for the guard band: `SHOVH` is taken as 20 where it is set lower (R206, R210, R217). -/
def guardBytes (l : Lane) (len : Nat) : Nat := len + 36 + max l.shovh 20

/-- Whether a lent frame of a payload length may start on a lane now: the gate is open, and it finishes before the next window (R203, R208,
R210). -/
def State.gateAllows (s : State) (d : DevLane) (len : Nat) : Bool :=
  let k := planeOf d
  if s.laneOwner d != 2 then true
  else if (s.plane k).window then false
  else (s.nextWindow k).all fun t => (guardBytes (s.lane d) len + 49) / 50 ≤ t

/-- A serving window opens on a plane (R208). -/
def execGateWindowOpen (k : PlaneIx) (s : State) : Out :=
  if s.part.gnwin = 0 then .next s else .next (s.updPlane k fun p => { p with window := true })

/-- A serving window closes (R208). -/
def execGateWindowClose (k : PlaneIx) (s : State) : Out := .next (s.updPlane k fun p => { p with window := false })

/-- A gate cycle starts; a pending phase takes effect (R209). -/
def execGateCycleStart (k : PlaneIx) (s : State) : Out :=
  if s.part.gnwin = 0 then .next (s.updPlane k fun p => { p with gphase := p.pendPhase.getD p.gphase, pendPhase := none })
  else .next (s.updPlane k fun p => { p with
    gphase := p.pendPhase.getD p.gphase, pendPhase := none,
    window := false })

/-! ### Selection -/

/-- The serving frame of rule 1 of R203: the first frame of the highest level waiting. -/
def servingPick (q : List Desc) : Option Desc :=
  ([0x80, 0x81, 0x82, 0x83].filterMap fun c => q.find? (·.cls == c)).head?

/-- Whether two descriptors are the same entry: removal takes the first equal one, which is the one selected. -/
def eraseFirst (q : List Desc) (d : Desc) : List Desc := q.erase d

/-- The deficit round robin of R204, by fuel: the selected descriptor, the list afterwards, and the jobs whose turns started. -/
def drrPick (quantum : Nat → Nat) (q : List Desc) : Nat → List DrrEntry → List Nat → Option Desc × List DrrEntry × List Nat
  | 0, es, ts => (none, es, ts)
  | _, [], ts => (none, [], ts)
  | n + 1, e :: es, ts =>
    match q.find? (fun d => d.job == e.job && d.cls < 0x80) with
    | none => drrPick quantum q n es ts
    | some d =>
      let (e', ts) := if e.started then (e, ts) else ({ e with deficit := e.deficit + quantum e.job, started := true }, ts ++ [e.job])
      if d.frame.bytes ≤ e'.deficit then (some d, e' :: es, ts)
      else drrPick quantum q n (es ++ [{ e' with started := false }]) ts

/-- The lane time in ns of a frame of a payload length, at 50 bytes per ns (R215, R217). -/
def laneTime (len : Nat) : Nat := (len + 48 + 49) / 50

/-- The selected descriptor leaves its queue, its deficit charged, and a waiting descriptor takes the freed entry (R19, R204). -/
def Lane.takeOut (l : Lane) (x : Desc) : Lane :=
  let q := eraseFirst l.egress x
  let l := if x.cls ≥ 0x80 then { l with egress := q }
    else
      let l := l.leave x q
      { l with drr := l.drr.map fun e => if e.job == x.job then { e with deficit := e.deficit - x.frame.bytes } else e }
  match l.egWait with
  | [] => l
  | y :: ys => { l.joinDrr y with egress := l.egress ++ [y], egWait := ys }

/-- A stored frame whose byte parity fails as the serialiser reads it is discarded (R177, R235); a queue entry's parity is R236's. -/
def State.loseSent (s : State) (d : DevLane) (x : Desc) : State :=
  let k := planeOf d
  ((s.updLane d fun l => l.takeOut x).loseStored k { x.frame with hdr := { x.frame.hdr with job := x.job } } x.later 7).replicator k

/-- A frame starts on a lane (R203 to R205): the shaper's tokens are taken, the deficit is charged, and the bytes go out, the last one
`laneTime` later (R217, R226); the replicator goes on with the credit (R19). -/
def State.startFrame (s : State) (d : DevLane) (x : Desc) : State :=
  let peer := s.isPeer d
  let now := (s.plane (planeOf d)).cnt
  let s := s.updLane d fun l =>
    { l.takeOut x with ts := l.ts - (x.frame.len + 36 + l.shovh), sendEnd := now + laneTime x.frame.len }
  ({ s with out := { s.out with fibre := s.out.fibre ++ [(d.val, frameBytes peer x.frame)] } } : State).replicator (planeOf d)

/-- Marks one waiting descriptor. -/
def Lane.mark (l : Lane) (x y : Desc) : Lane := { l with egress := l.egress.replace x y }

/-- The chosen frame starts when the shaper holds its wire bytes; until then the lane sends nothing, counted once in `SHAPEWAIT`
(R203, R205, R211). -/
def State.shape (s : State) (d : DevLane) (x : Desc) : State :=
  let l := s.lane d
  if x.later != .none then s.loseSent d x
  else if x.frame.len + 36 + l.shovh ≤ l.ts then s.startFrame d x
  else if x.waited then s
  else (s.laneCtr d .shapeWait).updLane d fun l => l.mark x { x with waited := true }

/-- A turn started is counted in `DRRTURN` (R211). -/
def State.drrTurn (s : State) (k : PlaneIx) (l : LaneIx) (job : Nat) : State :=
  s.updPJob k job fun j => { j with drrTurns := ctrAdd j.drrTurns l.val 1 }

/-- The frame chosen before that still waits for tokens: nothing passes it, unless it is lent and the gate now holds it (R203). -/
def State.chosen (s : State) (d : DevLane) : Option Desc :=
  (s.lane d).egress.find? fun x => x.waited && (0x80 ≤ x.cls || s.gateAllows d x.frame.len)

/-- The egress shaper of a lane chooses and starts a frame (R203 to R205, R210). -/
def State.egressSelect (s : State) (d : DevLane) : State :=
  let l := s.lane d
  if l.st != .up then s
  else match (s.chosen d).or (servingPick l.egress) with
  | some x => s.shape d x
  | none =>
    let k := planeOf d
    if s.laneOwner d = 2 && (s.plane k).window then s
    else
      let quantum (job : Nat) : Nat := ((s.pjob k job).map (·.rate.quantum)).getD 65536
      let (pick, drr, turns) := drrPick quantum l.egress (2 * l.drr.length + 1) l.drr []
      let s := s.updLane d fun l => { l with drr := drr }
      let s := s.each turns fun s j => s.drrTurn k (laneIn d) j
      match pick with
      | none => s
      | some x =>
        if s.gateAllows d x.frame.len then s.shape d x
        else if x.held then s
        else (s.laneCtr d .gateHold).updLane d fun l => l.mark x { x with held := true }

def execEgressSelect (d : DevLane) (s : State) : Out := .next (s.egressSelect d)

end Sys2Proof.Machine
end

