-- ==== Sys2Proof/Machine/Boot.lean ====
section
/-! DEFINITION. Boot, security and calibration: the package and manifest checks (R312 to R321), the boot sequence (R314, R315), and
the calibration set (R326, R327). -/
namespace Sys2Proof.Machine

/-- A signature verifies over covered bytes (R312): the signed message is their SHA3-512 hash.  The relation of FIPS 204 is free but for the
delivered signatures, which verify (R2, notes/assumptions 8). -/
def NonVol.verifies (nv : NonVol) (key covered sig : List Byte) : Bool :=
  nv.validSigs.contains (key, sha3_512 covered, sig) || Config.mldsaVerifies key (sha3_512 covered) sig

/-- The package header of R316. -/
structure PkgHdr where
  pklen   : Nat
  fver    : Nat
  fsvn    : Nat
  fflags  : Nat
  codelen : Nat
  codeoff : Nat
  fsigoff : Nat
  manoff  : Nat
  mkeyoff : Nat
deriving DecidableEq, Repr, Inhabited

/-- The fields of a package header. -/
def pkgHdr (b : List Byte) : PkgHdr :=
  { pklen := fieldAt b 0 4, fver := fieldAt b 4 4, fsvn := fieldAt b 8 4, fflags := fieldAt b 0x0C 4, codelen := fieldAt b 0x10 4,
    codeoff := fieldAt b 0x14 4, fsigoff := fieldAt b 0x18 4, manoff := fieldAt b 0x1C 4, mkeyoff := fieldAt b 0x20 4 }

/-- Two regions (offset, length) share no byte. -/
def disjointRegions (a b : Nat × Nat) : Bool := a.1 + a.2 ≤ b.1 || b.1 + b.2 ≤ a.1

/-- Every two regions of a list share no byte. -/
def regionsOk : List (Nat × Nat) → Bool
  | [] => true
  | r :: rs => rs.all (disjointRegions r) && regionsOk rs

/-- The header can be read: 64 bytes are there and they are not all zero (an empty slot has none). -/
def pkgReadable (b : List Byte) : Bool := 64 ≤ b.length && !allZero (b.take 64)

/-- The header is valid (R316): the length, the alignments, the zero fields, and offsets that lie within `PKLEN` and do not
overlap. -/
def pkgValid (b : List Byte) : Bool :=
  let h := pkgHdr b
  let rs := [(0, 64), (h.codeoff, h.codelen), (h.fsigoff, 4627), (h.manoff, 9619)] ++
    (if h.mkeyoff = 0 then [] else [(h.mkeyoff, 2592)])
  pkgReadable b && h.pklen ≤ 33554432 && h.pklen ≤ b.length && h.fsvn ≤ 63 && h.fflags < 2 && h.codeoff % 4096 == 0 &&
  h.fsigoff % 4 == 0 && h.manoff % 4096 == 0 && zeroAt b 0x24 28 && regionsOk rs && rs.all fun r => r.1 + r.2 ≤ h.pklen

/-- The bytes the firmware signature and `MFW` cover (R316). -/
def fwCovered (b : List Byte) : List Byte := slice b 4 16 ++ slice b (pkgHdr b).codeoff (pkgHdr b).codelen

/-- The manifest of a package. -/
def pkgManifest (b : List Byte) : List Byte := slice b (pkgHdr b).manoff 9619

/-- A partition block of a manifest (R319). -/
def parsePart (b : List Byte) : PartBlock :=
  { hbmu := fieldAt b 0 4, slots := fieldAt b 4 2, jobceil := fieldAt b 8 4, partceil := fieldAt b 0x0C 4,
    partburst := fieldAt b 0x10 4, ovfmib := fieldAt b 0x14 4 }

/-- The rate rules of R320 for a partition block. -/
def partRatesOk (p : PartBlock) : Bool :=
  16 * p.ovfmib ≤ p.hbmu && p.partceil ≤ 800000 && p.jobceil ≤ p.partceil &&
  (if p.partceil = 0 then p.partburst == 0 else 8228 ≤ p.partburst && p.partburst ≤ 67108864)

/-- `GSTART` or `GLEN` of a manifest. -/
def gateList (m : List Byte) (off : Nat) : List Nat := (List.range 16).map fun i => fieldAt m (off + 4 * i) 4

/-- The windows of a schedule: ascending, 1,000 ns or more, each ending at least 1,000 ns before the next and by the end of the cycle
(R208). -/
def windowsOk (cycle : Nat) : List (Nat × Nat) → Bool
  | [] => true
  | [(a, n)] => 1000 ≤ n && a + n ≤ cycle && a + 1000 ≤ cycle
  | (a, n) :: (a', n') :: ws => 1000 ≤ n && a + n + 1000 ≤ a' && windowsOk cycle ((a', n') :: ws)

/-- The gate fields of R208 and R320. -/
def gatesOk (m : List Byte) : Bool :=
  let cycle := fieldAt m 0xD0 4
  let n := fieldAt m 0xD4 1
  let st := gateList m 0xD8
  let ln := gateList m 0x118
  if n = 0 then cycle == 0 && st.all (· == 0) && ln.all (· == 0)
  else n ≤ 16 && 10000 ≤ cycle && cycle ≤ 1000000000 && windowsOk cycle ((st.zip ln).take n)

/-- `OWNER[d][l]` and `FARDEV[d][l]` of a manifest (R319). -/
def manOwner (m : List Byte) (d l : Nat) : Nat := fieldAt m (0x160 + 128 * d + l) 1
def manFar (m : List Byte) (d l : Nat) : Nat := fieldAt m (0x560 + 128 * d + l) 1

/-- The lanes of device `d` on plane `k` whose far end is `e`. -/
def linkCount (m : List Byte) (k d e : Nat) : Nat := ((List.range 16).filter fun l => manFar m d (16 * k + l) == e).length

/-- The `FARDEV` and topology rules of R320. -/
def topologyOk (m : List Byte) (n : Nat) : Bool :=
  ((List.range 8).all fun d => (List.range 128).all fun l =>
    let f := manFar m d l
    if d < n then f == 0xFF || (f < n && f != d) else f == 0xFF) &&
  (List.range 8).all fun k => (List.range n).all fun d => (List.range n).all fun e => d == e || linkCount m k d e == linkCount m k e d

/-- The rules of R320 in the order of its table, after the signature: the code of R315 of the first that is broken. -/
def manifestCode (m serial : List Byte) (strap : Nat) : Option Nat :=
  let n := fieldAt m 3 1
  let bind := fieldAt m 4 1
  let l := parsePart (slice m 0x90 32)
  let v := parsePart (slice m 0xB0 32)
  if !(fieldAt m 0 2 == 1 && fieldAt m 8 4 == 9619 && zeroAt m 6 2 && zeroAt m 0x0C 4 && zeroAt m 0xD5 3 && zeroAt m 0x158 8 &&
       zeroAt m 0x96 2 && zeroAt m 0xA8 8 && zeroAt m 0xB6 2 && zeroAt m 0xC8 8 && fieldAt m 5 1 < 2) then some 6
  else if bind > 8 || (bind != 0 && !((List.range bind).any fun i => slice m (0x10 + 16 * i) 16 == serial)) then some 5
  else if !(1 ≤ n && n ≤ 8 && strap < n) then some 7
  else if l.hbmu + v.hbmu > 1204319 || l.slots + v.slots > 768 || !partRatesOk l || !partRatesOk v || !gatesOk m then some 6
  else if !((List.range 8).all fun d => (List.range 128).all fun i => if d < n then manOwner m d i ≤ 2 else manOwner m d i == 0) then some 6
  else if !topologyOk m n then some 7
  else if fieldAt m 5 1 = 0 && !zeroAt m 0x960 2592 then some 6
  else none

/-- Steps 3 and 4 of R314 on a package, with the fuses and the strap (R315, R317): the code of the first failure. -/
def verifyPackage (nv : NonVol) (strap : Nat) (b : List Byte) : Option Nat :=
  let h := pkgHdr b
  let m := pkgManifest b
  let signer := fieldAt m 2 1
  let key := if signer = 0 then Config.mallinelManifestKey else slice b h.mkeyoff 2592
  if !pkgValid b then some 1
  else if h.fsvn < nv.minSvn then some 3
  else if !nv.verifies Config.mallinelFirmwareKey (fwCovered b) (slice b h.fsigoff 4627) then some 2
  else if signer = 0 && h.mkeyoff != 0 then some 1
  else if signer > 1 || (signer = 1 && (allZero nv.opKeyHash || h.mkeyoff == 0 || sha3_512 key != nv.opKeyHash)) then some 4
  else if !nv.verifies key (m.take 0x1380) (m.drop 0x1380) then some 4
  else manifestCode m nv.serial strap

/-- Whether a failure code is one of step 3 (R315). -/
def stepThreeCode (c : Nat) : Bool := c ≤ 3

/-! ### The calibration set -/

/-- A signed 16-bit field within a range. -/
def inRange (b : List Byte) (off : Nat) (lo hi : Int) : Bool :=
  let v := signed 16 (fieldAt b off 2)
  lo ≤ v && v ≤ hi

/-- The checks of R326 and R327 on a set, other than `CORIGIN` being 1. -/
def calOk (b serial : List Byte) : Bool :=
  b.length == 480 && fieldAt b 0 2 == 1 && fieldAt b 2 2 == 480 && zeroAt b 4 4 && slice b 8 16 == serial && fieldAt b 0x18 1 ≤ 1 &&
  zeroAt b 0x19 7 && (List.range 128).all (fun i => 100 ≤ fieldAt b (0x20 + 2 * i) 2 && fieldAt b (0x20 + 2 * i) 2 ≤ 1500) &&
  (List.range 128).all (fun i => fieldAt b (0x120 + i) 1 ≤ 15) && (List.range 9).all (fun i => inRange b (0x1A0 + 2 * i) (-500) 500) &&
  (List.range 9).all (fun i => inRange b (0x1B2 + 2 * i) (-200) 200) &&
  (List.range 9).all (fun i => 29491 ≤ fieldAt b (0x1C4 + 2 * i) 2 && fieldAt b (0x1C4 + 2 * i) 2 ≤ 36045) && zeroAt b 0x1D6 6 &&
  b.drop 0x1DC == crcBytes (b.take 0x1DC)

/-- The set the planes are given: the stored one, or the ROM nominal set (R327). -/
def calInUse (nv : NonVol) : List Byte × Bool :=
  if calOk nv.cal nv.serial then (nv.cal, false) else (nominalCal nv.serial, true)

/-- The trim of a signed field of the set in use; 0 before boot has read one (R326, R327). -/
def State.calField (s : State) (off : Nat) : Int := if s.boot.calUsed.isEmpty then 0 else signed 16 (fieldAt s.boot.calUsed off 2)

/-- A temperature in 0.1 °C as its sensor `i` reads it, corrected by `CTTRIM[i]` in 0.01 °C (R326; rounded down, DESIGN CHOICE,
notes/assumptions 87). -/
def State.trimTemp (s : State) (i : Nat) (raw : Int) : Int := (10 * raw + s.calField (0x1A0 + 2 * i)) / 10

/-- A voltage in mV as its sensor `i` reads it, corrected by `CVGAIN[i]` and then `CVTRIM[i]` in 0.1 mV (R326; the order and the rounding
down, DESIGN CHOICE, notes/assumptions 87). -/
def State.trimMv (s : State) (i : Nat) (raw : Nat) : Nat :=
  let gain := if s.boot.calUsed.isEmpty then 32768 else fieldAt s.boot.calUsed (0x1C4 + 2 * i) 2
  ((((10 * raw * gain / 32768 : Nat) : Int) + s.calField (0x1B2 + 2 * i)) / 10).toNat

/-! ### The boot sequence -/

/-- The partition view of a manifest for a board index (R321, R368, R369). -/
def partOf (m : List Byte) (d : Nat) : PartView :=
  { locked := true, bsize := fieldAt m 3 1, ukey := fieldAt m 5 1 == 1, signer := fieldAt m 2 1 == 1, lend := parsePart (slice m 0x90 32),
    serve := parsePart (slice m 0xB0 32), gcycle := fieldAt m 0xD0 4, gnwin := fieldAt m 0xD4 1, gstart := gateList m 0xD8,
    glen := gateList m 0x118, owner := (List.range 128).map (manOwner m d), far := (List.range 128).map (manFar m d) }

/-- Steps 1 to 4 (R314, R315): the measurements, over the bytes found where a part fails, and what the registers show of the slot. -/
def State.measure (s : State) (code : Option Nat) : State :=
  let b := s.nv.slot
  let h := pkgHdr b
  let readable := pkgReadable b
  let four := match code with
    | none => true
    | some c => !stepThreeCode c
  { s with boot := { s.boot with
    mboot := Config.bootRomHash
    mfw := if readable then sha3_512 (fwCovered b) else zeros 64
    mman := if readable && four then sha3_512 ((pkgManifest b).take 0x1380) else zeros 64
    fwver := if readable then BitVec.ofNat 32 h.fver else 0
    fsvn := if readable then h.fsvn else 0
    fwlen := if readable then h.pklen else 0 } }

/-- Steps 5 and 6: the calibration set in use, and the locked partition view. -/
def State.partitionUp (s : State) : State :=
  let m := pkgManifest s.nv.slot
  let (cal, bad) := calInUse s.nv
  { s with
    part := partOf m s.bidx
    boot := { s.boot with manifest := m, calUsed := cal, calBad := bad, mcal := sha3_512 cal } }

/-- Step 7 (R314, R318): `MINSVN` is raised where `RAISESVN` asks for it. -/
def State.raiseSvn (s : State) (svnFails : Bool) : State :=
  let h := pkgHdr s.nv.slot
  if h.fflags % 2 = 1 && h.fsvn > s.nv.minSvn then
    if svnFails then { s with boot := { s.boot with svnBad := true } } else { s with nv := { s.nv with minSvn := h.fsvn } }
  else s

/-- Step 8 on one plane (R314, R364, R201, R205, R227): the plane runs, its counter starts at 0, its buckets are full, its lanes turn
on at their calibrated bias with their peaking defaults.  A plane retired in this boot stays off. -/
def Plane.release (p : Plane) (k : PlaneIx) (part : PartView) (cal : List Byte) : Plane :=
  if p.railFault then { p with ps := .retired }
  else { p with
    ps := .inService, cnt := 0, tokLend := part.lend.partburst, tokServe := part.serve.partburst,
    lanes := Vector.ofFn fun l : Fin 16 =>
      let x := p.lanes[l]
      let i := 16 * k.val + l.val
      { x.laserStart (fieldAt cal (0x20 + 2 * i) 2) 0 with peak := fieldAt cal (0x120 + i) 1 % 16, st := x.retrain } }

/-- Steps 1 to 8 of R314 where steps 3 and 4 pass. -/
def State.releasePlanes (s : State) (svnFails : Bool) : State :=
  let s := ((s.measure none).partitionUp).raiseSvn svnFails
  let s := s.each allPlanes fun s k => s.updPlane k fun p => p.release k s.part s.boot.calUsed
  let s := { s with boot := { s.boot with bootstep := 8 } }
  if allPlanes.any fun k => (s.plane k).ps == .retired then s.setHpFault 3 else s

/-- Boot is running: reset is released and no outcome code stands (R355). -/
def State.booting (s : State) : Bool := !s.mod.inReset && s.mod.railsOn && s.boot.bcode == 255

/-- Step 8 is reached only where steps 3 and 4 pass (R314, R315); whether step 7 before it fails is free. -/
def execPlanesReleased (s : State) : Out :=
  if s.booting && s.boot.bootstep < 8 && (verifyPackage s.nv s.bidx s.nv.slot).isNone then
    let (n, s) := s.takeFresh
    .next (s.releasePlanes (Config.svnFuseFails n))
  else .next s

/-- What the registers show as boot ends: `PLANEOFF` for a plane retired in this boot (R363), and `UPALERT` while the pin is low (R335), which
both wait for this moment (R353). -/
def State.bootSettled (s : State) : State :=
  let s := if allPlanes.any fun k => (s.plane k).ps == .retired then s.setHpFault 3 else s
  if s.mod.alertIn then s.setErrsum [esUpAlert] else s

/-- The end of the boot (R314, R315, R318): service mode, with `svnFails` the outcome of step 7 where the planes are not released yet, or
recovery mode. -/
def State.bootEnd (s : State) (svnFails : Bool) : State :=
  match verifyPackage s.nv s.bidx s.nv.slot with
  | some c =>
    let s := s.measure (some c)
    ({ s with boot := { s.boot with recmode := true, bcode := c, bootstep := if stepThreeCode c then 2 else 3 } } : State).bootSettled
  | none =>
    let s := if s.boot.bootstep < 8 then s.releasePlanes svnFails else s
    ({ s with boot := { s.boot with
      bootstep := 9, bcode := if s.boot.calBad then 8 else if s.boot.svnBad then 9 else 0 } } : State).bootSettled

def execBootEnd (svnFails : Bool) (s : State) : Out := if s.booting then .next (s.bootEnd svnFails) else .next s

/-! ### Registers of identity and boot -/

/-- `BOOTSTAT` (R355). -/
def State.bootstat (s : State) : W32 :=
  BitVec.ofNat 32 (s.boot.bcode + 256 * s.boot.bootstep + 65536 * s.boot.recmode.toNat + 1048576 * s.boot.rstcause)

/-- Planes in service, as a mask (R355). -/
def State.inServiceMask (s : State) : Nat := listMask ((allPlanes.filter fun k => (s.plane k).ps == .inService).map (·.val))

/-- Planes retired since reset, as a mask (R355). -/
def State.retiredMask (s : State) : Nat := listMask ((allPlanes.filter fun k => (s.plane k).ps == .retired).map (·.val))

end Sys2Proof.Machine
end

