-- ==== Sys2Proof/Machine/Module.lean ====
section
/-! DEFINITION. The module: input power and rails, resets, the thermal trip and throttle, the power cap, rail faults, the alert ring,
the reference clock and the SMBus interface (R329 to R347). -/
namespace Sys2Proof.Machine

/-- A slot whose programming was cut short: it fails verification at the next boot (R317; its bytes are DESIGN CHOICE,
notes/assumptions 16). -/
def tornSlot : List Byte := []

/-- A calibration set whose write was cut short: it fails its CRC (R327; bytes DESIGN CHOICE, notes/assumptions 16). -/
def tornCal : List Byte := zeros 480

/-- What survives a reset (R336): fuses, slot and calibration set, with a write under way cut short. -/
def State.keptNv (s : State) : NonVol :=
  { s.nv with
    slot := if s.host.programming.isSome then tornSlot else s.nv.slot
    cal := if s.host.calWriting.isSome then tornCal else s.nv.cal }

/-- The device is held in reset (R336): everything returns to its reset state, lasers are off, HBM is lost; the standby domain's
flags, the strap and `RSTCAUSE` stay, and the power cap, which holds the planes, ends (R343, R353). -/
def State.holdReset (s : State) : State :=
  { State.reset with
    pending := s.pending, fresh := s.fresh, nv := s.keptNv, out := s.out
    mod := { s.mod with inReset := true, pwrCap := false }
    boot := { bidx := s.boot.bidx, rstcause := s.boot.rstcause } }

/-- All rails turned on or off on every plane. -/
def State.setRails (s : State) (on : Bool) : State :=
  let s := { s with mod := { s.mod with railsOn := on } }
  s.each allPlanes fun s k => s.updPlane k fun p => { p with railsOn := on }

/-- The input is gone (R341, R344): the device is off, the standby rail last, and the trip latch and every other bit of the SMBus status word
are cleared (R339). -/
def State.powerOff (s : State) : State :=
  let s := s.holdReset.setRails false
  { s with mod := { s.mod with inputGood := false, standby := false, rstOutLow := true, tripLatch := false, pwrCap := false,
                               lowIn := false, diodes := [], smbusOut := none, alertIn := false, alertStuck := false } }

/-- The input rises through 49.0 V with mate detect closed (R340, R341): rails ramp, the device stays in reset.  After an
over-voltage it must have returned below 61.0 V. -/
def execInputPowerUp (millivolts : Nat) (s : State) : Out :=
  if s.mod.inputGood then .next { s with mod := { s.mod with vin := millivolts } }
  else if millivolts < 49000 || millivolts > (if s.mod.overvolt then 61000 else 62000) then
    .next { s with mod := { s.mod with vin := millivolts } }
  else
    let s := s.setRails true
    .next { s with mod := { s.mod with
      vin := millivolts, inputGood := true, mated := true, fuseOpen := false, overvolt := false, standby := true, inReset := true,
      rstOutLow := true, lowIn := millivolts < 50000 } }

/-- The input stays below 47.0 V for 50 µs (R341). -/
def execInputUndervoltage (s : State) : Out := .next s.powerOff

/-- The input rises above 62.0 V (R341). -/
def execInputOvervoltage (millivolts : Nat) (s : State) : Out :=
  if millivolts ≤ 62000 then .next { s with mod := { s.mod with vin := millivolts } }
  else
    let s := s.powerOff
    .next { s with mod := { s.mod with vin := millivolts, overvolt := true } }

/-- The mate-detect loop opens (R329). -/
def execMateDetectOpen (s : State) : Out :=
  let s := s.powerOff
  .next { s with mod := { s.mod with mated := false } }

/-- The input fuse opens on a short (R344). -/
def execInputFuseOpen (s : State) : Out :=
  let s := s.powerOff
  .next { s with mod := { s.mod with fuseOpen := true } }

/-- The input crosses 50.0 V above the falling threshold (R341). -/
def execInputLowRange (millivolts : Nat) (s : State) : Out :=
  if s.mod.inputGood then .next { s with mod := { s.mod with vin := millivolts, lowIn := millivolts < 50000 } } else .next s

/-- All nine standby diodes have been read below 90.0 °C (R347). -/
def Module.cool (m : Module) : Bool := m.diodes.length == 9 && m.diodes.all (· < 900)

/-- A reset through `RST_IN#` or `PERST#`: while a trip is latched it releases the latch and powers the rails only where the diodes
read below 90.0 °C, and is ignored otherwise (R347). -/
def State.pinReset (s : State) : State :=
  if !s.mod.standby then s
  else if s.mod.tripLatch then
    if s.mod.cool then
      let s := s.setRails true
      { s with mod := { s.mod with tripLatch := false } }
    else s
  else s.holdReset

/-- `RST_IN#` goes low (R336): the device is held in reset and `RST_OUT#` goes low. -/
def execRstInAssert (s : State) : Out :=
  let s := s.pinReset
  .next { s with mod := { s.mod with rstIn := true, rstOutLow := true } }

/-- `PERST#` goes low (R336). -/
def execPerstAssert (s : State) : Out :=
  let s := s.pinReset
  .next { s with mod := { s.mod with perst := true } }

/-- `RSTCAUSE` codes of R355. -/
def ResetSource.code : ResetSource → Nat
  | .power => 1 | .rstIn => 2 | .perst => 3 | .watchdog => 4 | .tripRelease => 5

/-- The last reset source deasserts with rails good (R336): the strap is sampled (R334), the reference is chosen (R337), and this is
boot time 0.  A plane whose rails failed in this power-up stays off (R340). -/
def execResetRelease (source : ResetSource) (strap : BitVec 3) (refInGood : Bool) (s : State) : Out :=
  if s.mod.inReset && s.mod.railsOn && s.mod.inputGood && !s.mod.tripLatch then
    let s := s.each allPlanes fun s k => s.updPlane k fun p => { p with refSel := refInGood }
    .next { s with
      boot := { bidx := strap, rstcause := ResetSource.code source }
      mod := { s.mod with inReset := false, rstIn := false, perst := false, strap := strap, refIn := refInGood } }
  else .next s

/-- 5 ms after the release of the device's own reset (R336). -/
def execRstOutRelease (s : State) : Out :=
  if s.mod.inReset then .next s else .next { s with mod := { s.mod with rstOutLow := false } }

/-- The device watchdog resets the device (R336). -/
def execDeviceWatchdogExpiry (s : State) : Out := if s.mod.inReset then .next s else .next s.holdReset

/-- A thermal trip (R347): every rail but standby off, and the trip latches. -/
def execThermalTrip (s : State) : Out :=
  if s.mod.railsOn then
    let s := s.holdReset.setRails false
    .next { s with mod := { s.mod with tripLatch := true, diodes := [] } }
  else .next s

/-- The standby controller's readings (R347), taken while a plane's rails are off (R338). -/
def execStandbyDiodeRead (diodes : List Int) (s : State) : Out :=
  if s.mod.standby && (s.mod.tripLatch || !(allPlanes.all fun k => (s.plane k).railsOn)) then
    .next { s with mod := { s.mod with diodes := diodes } }
  else .next s

/-! ### Plane rails, throttle and cap -/

/-- A plane whose rails fail before boot step 8 is retired in this boot (R340, R345): its lanes stay off (R11). -/
def Plane.railsOff (p : Plane) : Plane :=
  { p with railFault := true, railsOn := false, ps := .retired, dtemp := -32768, vcore := 0,
           lanes := p.lanes.map fun l => { l.laserStop.clockStop with st := .disabled } }

/-- A plane's rails fail (R345): its regulators shut down and the plane is retired, with `RAILFAULT` set and no error record. -/
def State.railFails (s : State) (k : PlaneIx) : State :=
  if (s.plane k).railFault then s
  else if s.boot.bcode = 255 && s.boot.bootstep < 8 then s.updPlane k Plane.railsOff
  else (s.retirePlane k true).updPlane k fun p => { p with dtemp := -32768, hbmTemp := -32768, vcore := 0, thermStep := 0, hbmThr := false }

/-- A plane's rails are not good by 30 ms (R340). -/
def execPlaneRailTimeout (k : PlaneIx) (s : State) : Out := .next (s.railFails k)

def execRailFault (k : PlaneIx) (s : State) : Out := .next (s.railFails k)

/-- Enter and leave temperatures of a throttle step, 0.1 °C (R346). -/
def stepEnter (n : Nat) : Int := [0, 970, 990, 1010, 1040].getD n 30000
def stepLeave (n : Nat) : Int := [-30000, 950, 970, 990, 1020].getD n 0

/-- The thermal step after one evaluation: at most one step up or down (R346). -/
def thermNext (step : Nat) (t : Int) : Nat :=
  if step < 4 && t ≥ stepEnter (step + 1) then step + 1
  else if step > 0 && t < stepLeave step then step - 1 else step

/-- The evaluation of a plane's sensors every 100 µs of its counter (R346, R365): the readings of the die sensor and the core rail, corrected
by the calibration trims (R326).  A plane held in reset, whose counter does not run, evaluates nothing; a plane retired for errors does. -/
def execThrottleEvaluation (k : PlaneIx) (dieTemp hbmTemp : Int) (vcore : Nat) (s : State) : Out :=
  if (s.plane k).railsOn && (s.plane k).ps != .held then
    let t := s.trimTemp k.val dieTemp
    .next (s.updPlane k fun p => { p with
      dtemp := t, hbmTemp := hbmTemp, vcore := s.trimMv k.val vcore, thermStep := thermNext p.thermStep t,
      hbmThr := if hbmTemp ≥ 950 then true else if hbmTemp < 920 then false else p.hbmThr })
  else .next s

/-- The 10 ms average input power (R343): the cap starts above 1,150 W and ends below 1,080 W; no plane runs in reset, so none is capped. -/
def execPowerCapEvaluation (deciwatts : Nat) (s : State) : Out :=
  if s.mod.inReset then .next { s with mod := { s.mod with power := deciwatts } }
  else .next { s with mod := { s.mod with
    power := deciwatts, pwrCap := if deciwatts > 11500 then true else if deciwatts < 10800 then false else s.mod.pwrCap } }

/-- The throttle step in force on a plane: the higher of its thermal step and the cap's (R343, R365); 0 while it is held in reset. -/
def State.throttle (s : State) (k : PlaneIx) : Nat := if (s.plane k).ps = .held then 0 else max (s.plane k).thermStep (if s.mod.pwrCap then 1 else 0)

/-- The highest step of any plane. -/
def State.topThrottle (s : State) : Nat := (allPlanes.map s.throttle).foldl max 0

/-- The reference input stops while it is in use (R337): each plane switches to its crystal and sets `REFLOST`. -/
def execReferenceClockLoss (s : State) : Out :=
  let s := s.each allPlanes fun s k => s.updPlane k fun p => { p with refLost := p.refLost || p.refSel }
  .next { s with mod := { s.mod with refIn := false } }

/-! ### The alert ring -/

/-- The device drives `ALERT_OUT#` low (R335). -/
def State.alertOut (s : State) : Bool :=
  s.mod.tripLatch || allPlanes.any (fun k => (s.plane k).railFault) || s.topThrottle ≥ 3 || s.boot.recmode

/-- `ALERT_IN#` goes low (R335): `UPALERT` in the SMBus word and in `ERRSUM`, in the latter once boot has ended (R353). -/
def execAlertInLow (s : State) : Out :=
  let s := { s with mod := { s.mod with alertIn := true } }
  if s.boot.bcode != 255 then .next (s.setErrsum [esUpAlert]) else .next s

/-- `ALERT_IN#` returns high (R335). -/
def execAlertInRelease (s : State) : Out := .next { s with mod := { s.mod with alertIn := false } }

/-- The read-back of `ALERT_OUT#` finds it low while the device does not drive it (R339, R344). -/
def execAlertOutStuck (s : State) : Out :=
  if s.alertOut then .next s else .next { s with mod := { s.mod with alertStuck := true } }

/-! ### SMBus -/

/-- The SMBus status word (R339). -/
def State.smbusStatus (s : State) : W16 :=
  let b (x : Bool) (n : Nat) : Nat := if x then 2 ^ n else 0
  BitVec.ofNat 16 (b s.mod.tripLatch 7 + b (allPlanes.any fun k => (s.plane k).railFault) 6 + b s.mod.alertIn 5 + b s.alertOut 4 +
    b (s.mod.alertStuck && !s.alertOut) 3 + b s.mod.pwrCap 2 + b s.mod.lowIn 1 + b s.mod.inReset 0)

/-- A 16-bit code of a signed reading. -/
def code16 (v : Int) : W16 := BitVec.ofInt 16 v

/-- The word of a command code (R338), with the input voltage corrected by the host port block's trims (R326): the sensors that no row supplies (input current, the host port block's temperature) are free
readings. -/
def State.smbusWord (s : State) (code : Byte) (n : Nat) : W16 :=
  let c := code.toNat
  if c = 0 then 0x4880
  else if c = 1 then s.smbusStatus
  else if c = 2 then BitVec.ofNat 16 (s.trimMv 8 s.mod.vin / 10)
  else if c = 3 then BitVec.ofNat 16 (Config.reading n).toNat
  else if c = 4 then BitVec.ofNat 16 s.mod.power
  else if 5 ≤ c && c ≤ 12 then
    let p := s.plane (Fin.ofNat 8 (c - 5))
    if p.railsOn then code16 p.dtemp else code16 (s.mod.diodes.getD (c - 5) (-32768))
  else if c = 13 then
    if s.mod.railsOn then BitVec.ofNat 16 (Config.reading n).toNat else code16 (s.mod.diodes.getD 8 (-32768))
  else if c = 14 then
    code16 (((allPlanes.filter fun k => (s.plane k).railsOn).map fun k => (s.plane k).hbmTemp).foldl max (-32768))
  else if c = 15 then BitVec.ofNat 16 (s.mod.strap.toNat + 16 * s.topThrottle + 256 * s.boot.recmode.toNat)
  else 0xFFFF

/-- A transfer is addressed to this device: 0x50 plus the live strap (R334, R338). -/
def smbusHere (t : SmbusTarget) : Bool := t.addr.toNat == 0x50 + t.strap.toNat

/-- An SMBus Read Word (R338): answered whenever the standby rail is up and the address is the device's.  The pins are read as they are: the live
strap, and `ALERT_OUT#`, which is no longer stuck once it reads high (R339). -/
def execSmbusReadWord (target : SmbusTarget) (s : State) : Out :=
  if s.mod.standby && smbusHere target then
    let (n, s) := s.takeFresh
    let s := { s with mod := { s.mod with strap := target.strap, alertStuck := s.mod.alertStuck && target.alertLow } }
    .next { s with mod := { s.mod with smbusOut := some (s.smbusWord target.code n) } }
  else .next { s with mod := { s.mod with smbusOut := none } }

/-- An SMBus write is acknowledged and ignored (R338). -/
def execSmbusWrite (_target : SmbusTarget) (_value : W16) (s : State) : Out := .next s

/-- A transaction held low for more than 35 ms is abandoned (R338). -/
def execSmbusTimeout (s : State) : Out := .next { s with mod := { s.mod with smbusOut := none } }

end Sys2Proof.Machine
end

