-- ==== Sys2Proof/Machine/HostPort.lean ====
section
/-! DEFINITION. The host port block: the command aperture and the checks on a taken packet (R281 to R287, R370), the reply ring
(R288 to R293, R358 to R361), and the register map of BAR0 (R351 to R369). -/
namespace Sys2Proof.Machine

/-- The bytes of the aperture ring (R281). -/
def apertureSize : Nat := 1048576

/-- The host port block is out of reset (R336, R353). -/
def State.hostUp (s : State) : Bool := s.mod.railsOn && !s.mod.inReset

/-- Boot has ended, so the dispatcher runs (R353). -/
def State.booted (s : State) : Bool := s.boot.bcode != 255

/-! ### The aperture -/

/-- The aperture byte at ring offset `a` has been written for a packet not yet taken. -/
def HostPort.isWritten (h : HostPort) (a : Nat) : Bool :=
  h.written.any fun w => (a % apertureSize + apertureSize - w.1) % apertureSize < w.2

/-- All of `n` bytes from offset `a` have been written. -/
def HostPort.allWritten (h : HostPort) (a n : Nat) : Bool := (List.range n).all fun i => h.isWritten (a + i)

/-- The header of the packet at the expected offset is read once its 16 bytes are written (R281). -/
def HostPort.readHeader (h : HostPort) : HostPort :=
  if h.cahdr = 0 && h.allWritten h.caexp 16 then
    { h with cahdr := leNat (ringRead h.aperture apertureSize (h.caexp + 4) 2) + 1 }
  else h

/-- A write lands on a packet that was taken and that the tail has not passed (R282). -/
def HostPort.overruns (h : HostPort) (off n : Nat) : Bool :=
  (List.range n).any fun i => ((off + i) % apertureSize + apertureSize - h.catail) % apertureSize < h.lastLen

/-- A host write into the aperture (R281 to R283, R360). -/
def HostPort.apertureWrite (h : HostPort) (off : Nat) (data : List Byte) : HostPort :=
  if !h.raen || h.radrain || data.isEmpty then h
  else if h.overruns off data.length then { h with caovrun := satAdd 32 h.caovrun 1 }
  else ({ h with aperture := ringWrite h.aperture apertureSize off data
                 written := (off, data.length) :: h.written.filter fun w => !(w.1 == off && w.2 ≤ data.length) } : HostPort).readHeader

def execApertureWrite (off : BitVec 20) (data : List Byte) (s : State) : Out :=
  if s.hostUp then .next (s.updHost fun h => h.apertureWrite off.toNat data) else .next s

/-- An aperture restart (R286): everything not taken is discarded. -/
def HostPort.restart (h : HostPort) : HostPort :=
  { h with catail := 0, caexp := 0, cahdr := 0, lastLen := 0, cacrc := 0, aperture := [], written := [], carestart := true }

/-! ### Room in the ring (R361) -/

/-- Entries of the ring. -/
def HostPort.rasize (h : HostPort) : Nat := 2 ^ h.ralog

/-- Entries a reply occupies (R289). -/
def Reply.entries (r : Reply) : Nat := (32 + r.payload.length + 63) / 64

/-- The ring has room for `n` entries (R361). -/
def HostPort.room (h : HostPort) (n : Nat) : Bool :=
  (h.rahead + h.rasize - h.ratail) % h.rasize + n ≤ h.rasize - 1

/-- The next complete reply to write, in the order of completion (R287). -/
def HostPort.nextReply (h : HostPort) : Option Held := h.held.find? fun c => c.phase == .ready

/-- The 32-bit word a host read of BAR2, the command aperture, returns (R281): always zero, and the read has no other effect. -/
def State.bar2Word (_s : State) (_off : Nat) : W32 := 0

/-- `CATAKE` (R356): out of boot, enabled, not draining, fewer than 64 commands held, no reply waiting for room. -/
def State.catake (s : State) : Bool :=
  let h := s.host
  s.hostUp && s.booted && h.raen && !h.radrain && h.held.length < 64 &&
  (h.nextReply.bind (·.reply)).all fun r => h.room r.entries

/-! ### Taking a packet -/

/-- The bytes of the packet at the expected offset. -/
def HostPort.packetBytes (h : HostPort) (n : Nat) : List Byte := ringRead h.aperture apertureSize h.caexp n

/-- The first multiple of 64 at or after an offset, modulo the ring (R281). -/
def nextOffset (a : Nat) : Nat := (a + 63) / 64 * 64 % apertureSize

/-- The dispatcher copies a packet and holds it (R282, R287). -/
def HostPort.hold (h : HostPort) (p : Packet) : HostPort :=
  { h with held := h.held ++ [{ id := h.nextHeld, pkt := p }], nextHeld := h.nextHeld + 1 }

/-- What is left of a write (offset, length) once `span` bytes from `start` are used up: the part past them, if any. -/
def cutWrite (start span next : Nat) (w : Nat × Nat) : Option (Nat × Nat) :=
  let d := (w.1 + apertureSize - start) % apertureSize
  if d < span then (if d + w.2 > span then some (next, d + w.2 - span) else none) else some w

/-- The dispatcher moves on by `LEN` words: the tail stands past the packets before, the expected offset past this one, and what
was written there is used up (R281, R282). -/
def HostPort.moveOn (h : HostPort) (len : Nat) : HostPort :=
  let h := h.settleTail
  let next := nextOffset (h.caexp + 4 * len)
  let span := (next + apertureSize - h.caexp - 1) % apertureSize + 1
  ({ h with
    written := h.written.filterMap fun w => cutWrite h.caexp span next w
    caexp := next, cahdr := 0, lastLen := (h.caexp + 4 * len + apertureSize - h.catail) % apertureSize } : HostPort).readHeader

/-- The reserved bytes of a packet header are zero (R284). -/
def headerZero (bs : List Byte) : Bool := allZero (slice bs 9 3)

/-- Rows 3 to 6 of R286, and R370 after them: the status of the first check that fails. -/
def packetCheck (p : Packet) (recovery : Bool) (hdrZero : Bool) : Option Status :=
  if (opScope p.opcode.toNat p.params).isNone then some .opcode
  else if recovery && !recoveryOps.contains p.opcode.toNat then some .recovery
  else if p.len != 5 + paramLen p.opcode.toNat p.params / 4 then some .length
  else if !rowSixOk p hdrZero then some .param
  else if countBad p.opcode.toNat p.params then some .length
  else none

/-- A failing packet is held and answered at once, with no other effect (R286). -/
def State.refusePacket (s : State) (p : Packet) (st : Status) : State :=
  let id := s.host.nextHeld
  (s.updHost fun h => h.hold p).answer id st []

/-- The take of a packet whose last word is written (R282, R286). -/
def State.takePacket (s : State) (len : Nat) : State :=
  let bs := s.host.packetBytes (4 * len)
  let p := { parsePacket bs with len := len, params := (bs.drop 16).take (4 * len - 20) }
  if bs.drop (4 * len - 4) ≠ crcBytes (bs.take (4 * len - 4)) then
    if s.host.cacrc ≥ 3 then (s.updHost HostPort.restart).refusePacket p .crcerr
    else (s.updHost fun h => { h.moveOn len with cacrc := h.cacrc + 1 }).refusePacket p .crcerr
  else
    let s := s.updHost fun h => { h.moveOn len with cacrc := 0 }
    match packetCheck p s.boot.recmode (headerZero bs) with
    | some st => s.refusePacket p st
    | none => s.updHost fun h => h.hold p

/-- `PACKET_TAKE`: the checks of R286, on the packet at the expected offset. -/
def State.packetTake (s : State) : State :=
  if !s.catake then s
  else match s.host.cahdr with
  | 0 => s
  | len + 1 =>
    if len < 5 then
      let p := { parsePacket (s.host.packetBytes 16) with len := len, params := [] }
      (s.updHost HostPort.restart).refusePacket p .length
    else if s.host.allWritten (s.host.caexp + 4 * len - 4) 4 then s.takePacket len
    else s

def execPacketTake (s : State) : Out := .next s.packetTake

/-! ### Replies -/

/-- The 32-byte reply header (R289), without the padding of its payload. -/
def Reply.bytes (r : Reply) (seq : W32) (atail : Nat) : List Byte :=
  leBytes 4 seq.toNat ++ leBytes 4 r.tag.toNat ++ leBytes 2 r.opcode ++ leBytes 2 r.status ++ leBytes 2 r.entries ++
  leBytes 2 r.report.toNat ++ leBytes 2 r.job ++ [r.pmask, 0] ++ leBytes 4 r.payload.length ++ leBytes 4 atail ++ zeros 4 ++
  r.payload

/-- The bytes of host memory that ring offset `a` (in bytes) and those after it name. -/
def hostWrite (m : Mem) (base size a : Nat) : List Byte → Mem
  | [] => m
  | b :: bs => hostWrite (memWrite m ((base + a % size) % 2 ^ 64) b) base size (a + 1) bs

/-- The sequence number after one (R290). -/
def nextSeq (q : W32) : W32 := if q = 0xFFFFFFFF then 1 else q + 1

/-- A reply goes into the ring (R289, R290, R293): its entries, `RSEQ` last, then the interrupt.  No rule says what the bytes after
the payload in the last entry hold: free values (notes/assumptions 3). -/
def State.writeReply (s : State) (r : Reply) : State :=
  let h := s.host
  let body := r.bytes h.rseqnext h.catail
  let pad := 64 * r.entries - body.length
  let bytes := body ++ (List.range pad).map fun i => BitVec.ofNat 8 (Config.reading (s.fresh + i)).toNat
  let s := { s with
    fresh := s.fresh + pad
    out := { s.out with hostMem := hostWrite s.out.hostMem h.rabase.toNat (64 * h.rasize) (64 * h.rahead) bytes }
    host := { h with rahead := (h.rahead + r.entries) % h.rasize, rseqnext := nextSeq h.rseqnext } }
  if r.report then if h.rptirqen then s.msixSend 1 else s
  else if h.rirqen || r.irq then s.msixSend 0 else s

/-- `REPLY_WRITE`: the first complete reply, or the oldest queued report, once R361 leaves room.  Reports stay queued during a drain
and while the area is disabled (R360). -/
def State.replyWrite (s : State) (report : Bool) : State :=
  let s := s.updHost HostPort.settleTail
  if !s.host.raen then s
  else if report then
    match s.host.reports with
    | [] => s
    | r :: rs => if s.host.radrain || !s.host.room r.entries then s else (s.updHost fun h => { h with reports := rs }).writeReply r
  else
    match s.host.nextReply with
    | none => s
    | some c => match c.reply with
      | none => s
      | some r =>
        if s.host.room r.entries then
          ((s.writeReply r).updHost fun h => ({ h with
            held := h.held.filter fun o => o.id != c.id
            closeReplies := h.closeReplies.filter (·.1 != c.id) } : HostPort).barriers.endDrain)
        else s

def execReplyWrite (report : Bool) (s : State) : Out := .next (s.replyWrite report)

/-! ### RACTL, RABASE, RASIZE, RATAIL -/

/-- The three interrupt enables of `RACTL`: bit 0 `RIRQEN`, 1 `RPTIRQEN`, 2 `ERRIRQEN` (R358, R359). -/
def HostPort.setEnables (h : HostPort) (e : BitVec 3) : HostPort :=
  { h with rirqen := e.getLsbD 0, rptirqen := e.getLsbD 1, errirqen := e.getLsbD 2 }

/-- The reply area comes up (R359): indices and offsets 0, sequence 1, the counters of R357 cleared. -/
def HostPort.enable (h : HostPort) : HostPort :=
  { h with raen := true, rahead := 0, ratail := 0, rseqnext := 1, catail := 0, caexp := 0, cahdr := 0, lastLen := 0,
           aperture := [], written := [], caovrun := 0, rptlost := 0 }

/-- A write of `RACTL` with `RAEN` 1 (R359, R360). -/
def State.raenOn (s : State) (e : BitVec 3) : State :=
  let s := s.updHost fun h => h.setEnables e
  if s.host.radrain then s.badAcc
  else if s.host.raen then s
  else s.updHost HostPort.enable

/-- A write of `RACTL` with `RAEN` 0 (R360): from now on aperture writes are discarded, and packets not taken with them. -/
def State.raenOff (s : State) (e : BitVec 3) : State :=
  s.updHost fun h =>
    let h := h.setEnables e
    if h.raen && !h.radrain then
      ({ h.settleTail with radrain := true, aperture := [], written := [], cahdr := 0 } : HostPort).endDrain
    else h

def execRaenEnable (e : BitVec 3) (s : State) : Out := if s.hostUp then .next (s.raenOn e) else .next s

def execRaenDisable (e : BitVec 3) (s : State) : Out := if s.hostUp then .next (s.raenOff e) else .next s

def execInterruptEnableWrite (e : BitVec 3) (s : State) : Out :=
  if s.hostUp then .next (s.updHost fun h => h.setEnables e) else .next s

/-- A write of `RABASE`, whole or by halves; bits [11:0] stay zero (R354, R359). -/
def State.writeRabase (s : State) (part : RegPart) (v : W64) : State :=
  if s.host.raen || s.host.radrain then s.badAcc
  else s.updHost fun h => { h with rabase := match part with
    | .whole => v &&& (0xFFFFFFFFFFFFF000 : W64)
    | .lower => (h.rabase &&& (0xFFFFFFFF00000000 : W64)) ||| (v &&& (0xFFFFF000 : W64))
    | .upper => (h.rabase &&& (0xFFFFFFFF : W64)) ||| (v <<< 32) }

def execRabaseWrite (part : RegPart) (v : W64) (s : State) : Out := if s.hostUp then .next (s.writeRabase part v) else .next s

/-- A write of `RASIZE` (R358, R359). -/
def State.writeRasize (s : State) (v : W32) : State :=
  let n := v.toNat % 32
  if s.host.raen || s.host.radrain || n < 9 || 16 < n then s.badAcc else s.updHost fun h => { h with ralog := n }

def execRasizeWrite (v : W32) (s : State) : Out := if s.hostUp then .next (s.writeRasize v) else .next s

/-- A write of `RATAIL` (R361); its reserved bits are ignored (R352). -/
def State.writeRatail (s : State) (v : W32) : State :=
  let n := v.toNat % 65536
  if n ≥ s.host.rasize then s.badAcc else s.updHost fun h => { h with ratail := n }

def execRatailWrite (v : W32) (s : State) : Out := if s.hostUp then .next (s.writeRatail v) else .next s

/-! ### W1C registers, MSI-X -/

/-- A write to `ERRSUM` (R362): `UPALERT` sets again at once while the pin is low. -/
def State.clearErrsum (s : State) (v : W32) : State :=
  let again := s.mod.alertIn && s.host.errsum.getLsbD esUpAlert && v.getLsbD esUpAlert
  let s := s.updHost fun h => { h with errsum := h.errsum &&& ~~~v }
  if again then s.setErrsum [esUpAlert] else s

def execErrsumClear (v : W32) (s : State) : Out := if s.hostUp then .next (s.clearErrsum v) else .next s

/-- A write to `CASTAT` (R356). -/
def State.clearCarestart (s : State) (v : W32) : State :=
  s.updHost fun h => { h with carestart := h.carestart && !v.getLsbD 16 }

def execCarestartClear (v : W32) (s : State) : Out := if s.hostUp then .next (s.clearCarestart v) else .next s

/-- A vector's control word (R367): an unmasked vector whose pending bit is set sends its message. -/
def State.msixControl (s : State) (v : Fin 3) (ctrl : W32) : State :=
  let s := s.updHost fun h => { h with msix := h.msix.set v { h.msix[v] with ctrl := ctrl &&& 1 } }
  if ctrl &&& 1 = 0 && s.host.msixPend.getLsbD v.val then
    (s.updHost fun h => { h with msixPend := h.msixPend &&& ~~~((1 : BitVec 3) <<< v.val) }).msixSend v
  else s

def execMsixVectorUnmask (v : Fin 3) (s : State) : Out := if s.hostUp then .next (s.msixControl v 0) else .next s

/-! ### Counters -/

/-- A plane's counter as it reads (R364): 0 while the plane is held in reset. -/
def State.pcnt (s : State) (k : PlaneIx) : Nat := if (s.plane k).ps = .held then 0 else (s.plane k).cnt % 2 ^ 64

/-- A 4-byte read of a counter's lower word takes a snapshot and latches its upper half (R364). -/
def State.counterLower (s : State) (c : CounterSel) : State :=
  match c with
  | .plane k =>
    let v := s.pcnt k
    let s := s.updPlane k fun p => { p with latch := BitVec.ofNat 32 (v / 2 ^ 32) }
    { s with out := { s.out with read := BitVec.ofNat 64 (v % 2 ^ 32) } }
  | .host =>
    let v := s.host.hpcnt % 2 ^ 64
    let s := s.updHost fun h => { h with latch := BitVec.ofNat 32 (v / 2 ^ 32) }
    { s with out := { s.out with read := BitVec.ofNat 64 (v % 2 ^ 32) } }

def execCounterLowerRead (c : CounterSel) (s : State) : Out := if s.hostUp then .next (s.counterLower c) else .next s

/-! ### The register map, read (R354 to R369) -/

/-- Four bytes of a byte list, as a register word. -/
def byteWord (bs : List Byte) (i : Nat) : W32 := BitVec.ofNat 32 (fieldAt bs (4 * i) 4)

/-- `BOARD` (R355). -/
def State.boardReg (s : State) : W32 :=
  BitVec.ofNat 32 (s.bidx + 256 * s.part.bsize + 65536 * s.inServiceMask + 16777216 * s.retiredMask)

/-- `CASTAT` (R356). -/
def State.castat (s : State) : W32 :=
  BitVec.ofNat 32 (s.host.held.length + 256 * s.host.cacrc + 65536 * s.host.carestart.toNat + 131072 * s.catake.toNat)

/-- `RACTL` (R358). -/
def HostPort.ractl (h : HostPort) : W32 :=
  BitVec.ofNat 32 (h.raen.toNat + 2 * h.rirqen.toNat + 4 * h.rptirqen.toNat + 8 * h.errirqen.toNat + 256 * h.radrain.toNat)

/-- `PSTAT[k]` (R365). -/
def State.pstat (s : State) (k : PlaneIx) : W32 :=
  let p := s.plane k
  BitVec.ofNat 32 (p.ps.code + 16 * s.throttle k + 256 * p.refSel.toNat + 512 * p.refLost.toNat + 1024 * p.hbmThr.toNat +
    2048 * (!p.obs.isEmpty).toNat + 4096 * p.railFault.toNat + 65536 * s.openJobs k)

/-- `PSENS[k]` (R365). -/
def State.psens (s : State) (k : PlaneIx) : W32 :=
  let p := s.plane k
  if p.railsOn then BitVec.ofNat 32 ((BitVec.ofInt 16 p.dtemp).toNat + 65536 * (p.vcore % 65536)) else 0x8000

/-- `PVSTAT` (R368). -/
def State.pvstat (s : State) : W32 :=
  if s.part.locked then
    BitVec.ofNat 32 (1 + 2 * s.part.signer.toNat + 4 * s.part.ukey.toNat + 256 * s.part.bsize)
  else 0

/-- The 32 bytes of a partition block (R319, R369). -/
def partBytes (p : PartBlock) : List Byte :=
  leBytes 4 p.hbmu ++ leBytes 2 p.slots ++ zeros 2 ++ leBytes 4 p.jobceil ++ leBytes 4 p.partceil ++ leBytes 4 p.partburst ++
  leBytes 4 p.ovfmib ++ zeros 8

/-- `PVOWNER[k]` (R369). -/
def State.pvowner (s : State) (k : Nat) : W32 :=
  BitVec.ofNat 32 ((List.range 16).map fun l => s.part.owner.getD (16 * k + l) 0 * 4 ^ l).sum

/-- `PVFAR[m]` (R369). -/
def State.pvfar (s : State) (m : Nat) : W32 :=
  BitVec.ofNat 32 ((List.range 8).map fun i => (s.part.far.getD (8 * m + i) 0xFF) % 16 * 16 ^ i).sum

/-- The partition view (R368, R369), zero until it is locked. -/
def State.viewRead (s : State) (off : Nat) : W32 :=
  if off = 0x1000 then s.pvstat
  else if !s.part.locked then 0
  else if 0x1010 ≤ off && off < 0x1030 then byteWord (partBytes s.part.lend) ((off - 0x1010) / 4)
  else if 0x1030 ≤ off && off < 0x1050 then byteWord (partBytes s.part.serve) ((off - 0x1030) / 4)
  else if off = 0x1050 then BitVec.ofNat 32 s.part.gcycle
  else if off = 0x1054 then BitVec.ofNat 32 s.part.gnwin
  else if 0x1058 ≤ off && off < 0x1098 then BitVec.ofNat 32 (s.part.gstart.getD ((off - 0x1058) / 4) 0)
  else if 0x1098 ≤ off && off < 0x10D8 then BitVec.ofNat 32 (s.part.glen.getD ((off - 0x1098) / 4) 0)
  else if 0x1100 ≤ off && off < 0x1120 then s.pvowner ((off - 0x1100) / 4)
  else if 0x1120 ≤ off && off < 0x1160 then s.pvfar ((off - 0x1120) / 4)
  else 0

/-- A plane's registers (R364, R365). -/
def State.planeRead (s : State) (k : PlaneIx) (off : Nat) : W32 :=
  match off with
  | 0x00 => s.pstat k
  | 0x04 => s.psens k
  | 0x08 => BitVec.ofNat 32 (s.pcnt k)
  | 0x0C => (s.plane k).latch
  | 0x10 => BitVec.ofNat 32 (s.plane k).errSeq
  | _ => 0

/-- The MSI-X table and pending bits (R367). -/
def HostPort.msixRead (h : HostPort) (off : Nat) : W32 :=
  if off = 0x9000 then BitVec.ofNat 32 h.msixPend.toNat
  else if 0x8000 ≤ off && off < 0x8030 then
    let e := h.msix[Fin.ofNat 3 ((off - 0x8000) / 16)]
    match off % 16 with
    | 0 => BitVec.ofNat 32 e.addr.toNat
    | 4 => BitVec.ofNat 32 (e.addr.toNat / 2 ^ 32)
    | 8 => e.data
    | _ => e.ctrl
  else 0

/-- The bytes of "CKT-4880-A" and two zeros (R355). -/
def ordernum : List Byte := [0x43, 0x4B, 0x54, 0x2D, 0x34, 0x38, 0x38, 0x30, 0x2D, 0x41, 0, 0]

/-- The 32-bit word at an aligned offset of BAR0 (R354); an unlisted offset reads zero (R352). -/
def State.bar0Word (s : State) (off : Nat) : W32 :=
  let h := s.host
  match off with
  | 0x0000 => 0x01414880
  | 0x0004 => s.boot.fwver
  | 0x0008 => s.boardReg
  | 0x0010 | 0x0014 | 0x0018 => byteWord ordernum ((off - 0x10) / 4)
  | 0x0020 | 0x0024 | 0x0028 | 0x002C => byteWord s.nv.serial ((off - 0x20) / 4)
  | 0x0030 => s.bootstat
  | 0x0100 => BitVec.ofNat 32 h.catail
  | 0x0104 => BitVec.ofNat 32 h.caexp
  | 0x0108 => s.castat
  | 0x010C => BitVec.ofNat 32 h.caovrun
  | 0x0110 => BitVec.ofNat 32 h.rabase.toNat
  | 0x0114 => BitVec.ofNat 32 (h.rabase.toNat / 2 ^ 32)
  | 0x0118 => BitVec.ofNat 32 h.ralog
  | 0x011C => h.ractl
  | 0x0120 => BitVec.ofNat 32 h.rahead
  | 0x0124 => BitVec.ofNat 32 h.ratail
  | 0x0128 => h.rseqnext
  | 0x012C => BitVec.ofNat 32 h.reports.length
  | 0x0130 => BitVec.ofNat 32 h.rptlost
  | 0x0140 => h.errsum
  | 0x0144 => h.hpfault
  | 0x0148 => BitVec.ofNat 32 h.hpcnt
  | 0x014C => h.latch
  | 0x0150 => BitVec.ofNat 32 h.herrcnt
  | 0x0154 => BitVec.ofNat 32 h.herrlost
  | 0x0158 => BitVec.ofNat 32 h.pairdrop
  | _ =>
    if 0x0200 ≤ off && off < 0x0400 then s.planeRead (Fin.ofNat 8 ((off - 0x0200) / 0x40)) (off % 0x40)
    else if 0x1000 ≤ off && off < 0x1160 then s.viewRead off
    else h.msixRead off

/-- An 8-byte read of a 64-bit counter returns one snapshot whole (R364). -/
def State.counterWhole (s : State) (off : Nat) : Option W64 :=
  if off = 0x0148 then some (BitVec.ofNat 64 s.host.hpcnt)
  else if 0x0200 ≤ off && off < 0x0400 && off % 0x40 = 8 then some (BitVec.ofNat 64 (s.pcnt (Fin.ofNat 8 ((off - 0x0200) / 0x40))))
  else none

/-- The counter whose lower word lies at an offset. -/
def counterAt (off : Nat) : Option CounterSel :=
  if off = 0x0148 then some .host
  else if 0x0200 ≤ off && off < 0x0400 && off % 0x40 = 8 then some (.plane (Fin.ofNat 8 ((off - 0x0200) / 0x40)))
  else none

/-- A read of BAR0 (R351, R352): a malformed one returns zero and sets `BADACC`; a 4-byte read of a counter's lower word latches. -/
def State.bar0Read (s : State) (off size : Nat) : State :=
  let put (s : State) (v : W64) : State := { s with out := { s.out with read := v } }
  if !(size == 1 || size == 2 || size == 4 || size == 8) || off % size != 0 then (put s 0).badAcc
  else if size = 8 then
    put s ((s.counterWhole off).getD (BitVec.ofNat 64 ((s.bar0Word off).toNat + 2 ^ 32 * (s.bar0Word (off + 4)).toNat)))
  else if size = 4 then
    match counterAt off with
    | some c => s.counterLower c
    | none => put s (BitVec.ofNat 64 (s.bar0Word off).toNat)
  else put s (BitVec.ofNat 64 ((s.bar0Word (off / 4 * 4)).toNat / 256 ^ (off % 4) % 256 ^ size))

def execBar0MalformedRead (off size : Nat) (s : State) : Out := if s.hostUp then .next (s.bar0Read off size) else .next s

/-! ### The register map, written -/

/-- A 4-byte word of the MSI-X table (R367). -/
def State.msixWrite (s : State) (off : Nat) (v : W32) : State :=
  let i : Fin 3 := Fin.ofNat 3 ((off - 0x8000) / 16)
  let upd (f : MsixEnt → MsixEnt) : State := s.updHost fun h => { h with msix := h.msix.set i (f h.msix[i]) }
  match off % 16 with
  | 0 => upd fun e => { e with addr := (e.addr &&& 0xFFFFFFFF00000000) ||| BitVec.ofNat 64 v.toNat }
  | 4 => upd fun e => { e with addr := (e.addr &&& 0xFFFFFFFF) ||| BitVec.ofNat 64 (v.toNat * 2 ^ 32) }
  | 8 => upd fun e => { e with data := v }
  | _ => s.msixControl i v

/-- An aligned 4-byte write (R352): a register with a writable field takes it, and any other target sets `BADACC`. -/
def State.bar0Write4 (s : State) (off : Nat) (v : W32) : State :=
  match off with
  | 0x0108 => s.clearCarestart v
  | 0x0110 => s.writeRabase .lower (BitVec.ofNat 64 v.toNat)
  | 0x0114 => s.writeRabase .upper (BitVec.ofNat 64 v.toNat)
  | 0x0118 => s.writeRasize v
  | 0x011C =>
    let e : BitVec 3 := BitVec.ofNat 3 (v.toNat / 2)
    if v.getLsbD 0 then s.raenOn e else s.raenOff e
  | 0x0124 => s.writeRatail v
  | 0x0140 => s.clearErrsum v
  | _ => if 0x8000 ≤ off && off < 0x8030 then s.msixWrite off v else s.badAcc

/-- A write of BAR0 (R351): 4 or 8 naturally aligned bytes, the lower register first; any other is discarded with `BADACC`. -/
def State.bar0Write (s : State) (off size : Nat) (v : W64) : State :=
  let lo : W32 := BitVec.ofNat 32 v.toNat
  if size = 4 && off % 4 = 0 then s.bar0Write4 off lo
  else if size = 8 && off % 8 = 0 then (s.bar0Write4 off lo).bar0Write4 (off + 4) (BitVec.ofNat 32 (v.toNat / 2 ^ 32))
  else s.badAcc

def execBar0Write (off size : Nat) (v : W64) (s : State) : Out := if s.hostUp then .next (s.bar0Write off size v) else .next s

end Sys2Proof.Machine
end

