-- ==== Sys2Proof/Machine/DeviceCmds.lean ====
section
/-! DEFINITION. The device, information, traffic, lane, board, checking, firmware and calibration commands (R296, R297, R303 to R306,
with R192, R198, R205, R209, R227 to R231, R249, R257, R317, R323, R327).  For a command that planes execute, `exec…` is what the
dispatcher does and `take…` what the plane does when it takes the command. -/
namespace Sys2Proof.Machine

/-! ### Device and information (R296) -/

/-- The command's packet after the dispatcher's own checks goes to the planes of `PMASK`. -/
def State.toPlanes (s : State) (c : Held) : State := s.handOut c (planesOf c.pkt.pmask.toNat)

/-- A command by lane mask whose value lies out of range: every named lane refuses, so that each plane's section is the lowest of them
(R291); with an empty mask there is none (DESIGN CHOICE, notes/assumptions 31). -/
def State.refuseLanes (s : State) (c : Held) : State :=
  s.replyPlanes c (planesOf c.pkt.pmask.toNat) .param (((lanesOf (pf c.pkt 0 2)).head?.map fun l => leBytes 1 l.val).getD [])

/-- The number of open jobs (R147 row 5). -/
def State.jobsOpen (s : State) : Nat := (s.jobs.filter fun j => j.st.isOpen).length

def execDevInfo (p : Packet) (s : State) : Out :=
  .next (s.dispatch 0x0101 p fun c s =>
    let m (n : Nat) : Nat := if s.boot.recmode then 0 else n
    s.reply c .ok (ordernum ++ [0x41] ++ leBytes 1 s.bidx ++ leBytes 1 s.part.bsize ++ leBytes 1 (m s.inServiceMask) ++
      leBytes 1 s.retiredMask ++ zeros 3 ++ leBytes 4 s.boot.fwver.toNat ++ leBytes 2 s.jobsOpen ++
      leBytes 2 (1024 - s.groups.length) ++ zeros 36))

/-- Blocks of a plane under observation, as a mask by `EBLOCK` (R296, R305). -/
def Plane.obsMask (p : Plane) : Nat := listMask ((p.obs.map (·.block)).dedup)

/-- Reduction slots of a plane that shares hold. -/
def Plane.usedSlots (p : Plane) : List Nat := p.jobs.flatMap fun j => j.shares.flatMap (·.slots)

/-- Reduction slots that are neither held nor retired (R7, R253). -/
def Plane.freeSlots (p : Plane) : List Nat :=
  let used := p.usedSlots
  (List.range 768).filter fun n => !used.contains n && !p.retSlots.contains n

/-- HBM units of a partition that jobs may take: its share less its overflow region (R181, R319). -/
def PartBlock.units (b : PartBlock) : Nat := b.hbmu - 16 * b.ovfmib

/-- HBM units that the open jobs of a partition hold on a plane (R143, R151: until the job is closed). -/
def State.hbmHeld (s : State) (k : PlaneIx) (serving : Bool) : Nat :=
  ((s.jobs.filter fun j => j.st.isOpen && j.hdr.planes.getLsbD k.val && j.hdr.serving == serving).map (·.hdr.hbmq)).sum

/-- Free HBM units of a partition on a plane.  Retired regions leave allocation (R253); they count against the lendable partition
(DESIGN CHOICE, notes/assumptions 51). -/
def State.hbmFreeOf (s : State) (k : PlaneIx) (serving : Bool) : Nat :=
  if serving then s.part.serve.units - s.hbmHeld k true
  else s.part.lend.units - s.hbmHeld k false - ((s.plane k).retHbm.filter fun r => !(s.plane k).stillHolds 9 r).length

/-- Free HBM units of a plane, in both partitions (R296). -/
def State.hbmFree (s : State) (k : PlaneIx) : Nat := s.hbmFreeOf k false + s.hbmFreeOf k true

def execDevStatus (p : Packet) (s : State) : Out := .next (s.dispatch 0x0102 p fun c s => s.toPlanes c)

def State.takeDevStatus (s : State) (k : PlaneIx) (c : PlaneCmd) : State :=
  let p := s.plane k
  s.planeAnswer c.held k .ok (leBytes 1 p.ps.code ++ [0] ++ leInt 2 p.dtemp ++ leBytes 2 p.vcore ++ leBytes 2 p.obsMask ++
    leBytes 2 p.freeSlots.length ++ leBytes 1 (min (s.openJobs k) 255) ++ [0] ++ leBytes 4 (s.hbmFree k) ++ leBytes 8 p.cnt)

def execAstatRead (p : Packet) (s : State) : Out := .next (s.dispatch 0x0104 p fun c s => s.toPlanes c)

def State.takeAstatRead (s : State) (k : PlaneIx) (c : PlaneCmd) : State :=
  let v := (s.plane k).astat
  let s := if c.pkt.flags.getLsbD 8 then s.updPlane k fun p => { p with astat := 0 } else s
  s.planeAnswer c.held k .ok (leBytes 4 v.toNat)

/-- `BARRIER` is held until every command taken earlier has been answered (R296). -/
def execBarrier (p : Packet) (s : State) : Out :=
  .next (s.dispatch 0x0105 p fun c s =>
    (s.updHeld c.id fun c => { c with phase := .waiting }).updHost fun h => h.barriers.endDrain)

/-! ### Counters (R297) -/

/-- The job counters of sets 1 to 6, in table order; the billing counters are 8 bytes wide and are never cleared. -/
def jobCtrSet (set : Nat) : List JCtr :=
  match set with
  | 1 => [.frmRej, .frmStale, .dupChunk, .quotaRef, .qRounds, .redTmo, .spillBkt, .slotHwm]
  | 2 => [.precBlk, .rootRef, .rootRej, .refLate]
  | 3 => [.gathers, .gathCoal, .gathHeld, .gathRej, .genRej, .stashHit, .stashRel, .masterRg, .prefHit, .prefDrop, .elided,
          .retSend, .resend]
  | 4 => [.billGB, .billYB, .billGF, .billYF, .meterDrop, .partDrop]
  | 5 => [.digCmp, .digMiss, .expelled, .rebuilds, .rebuildRs]
  | 6 => [.syncSat, .ckptWait]
  | _ => []

/-- The billing counters of R211. -/
def JCtr.billing : JCtr → Bool
  | .billGB | .billYB | .billGF | .billYF => true
  | _ => false

/-- The lane counters of sets 8 and 9. -/
def laneCtrSet (set : Nat) : List LCtr :=
  if set = 8 then [.frmSize, .frmCrc, .frmStomp, .frmPar, .frmMal, .ovfDrop, .peerDrop, .downDrop, .gateHold, .shapeWait]
  else [.downCnt, .losCnt, .fecCor, .fecSym, .fecUnc, .blkErr, .trainErr, .polFlip, .idleDel]

/-- The plane counters of set 10. -/
def planeCtrSet : List PCtr := [.frmDrop, .peerWait, .bufLeak, .bufDup, .testLate, .errLost]

/-- A job-and-planes command: a job that holds nothing is `NOJOB`; otherwise the planes take it (R285, R291). -/
def State.toJobPlanes (s : State) (c : Held) : State :=
  match s.findJob c.pkt.job with
  | none => s.replyPlanes c (planesOf c.pkt.pmask.toNat) .nojob
  | some j =>
    if j.st.isOpen then s.handOut c (namedPlanes c.pkt j.hdr.planes)
    else s.replyPlanes c (namedPlanes c.pkt j.hdr.planes) .nojob

/-- What a plane answers for a job it does not hold (R291): `PARAM` outside the job's `PLANES`, `FENCED` after a restart, and
`NOJOB` where the job is gone. -/
def State.noJobHere (s : State) (k : PlaneIx) (c : PlaneCmd) : State :=
  match s.findJob c.pkt.job with
  | none => s.planeAnswer c.held k .nojob []
  | some j =>
    if !j.st.isOpen then s.planeAnswer c.held k .nojob []
    else if j.hdr.planes.getLsbD k.val then s.planeAnswer c.held k .fenced []
    else s.planeAnswer c.held k .param []

/-- A plane's part of a job command: on the job it holds. -/
def State.withPJob (s : State) (k : PlaneIx) (c : PlaneCmd) (f : Job → PJob → State) : State :=
  match s.findJob c.pkt.job, s.pjob k c.pkt.job with
  | some j, some pj => f j pj
  | _, _ => s.noJobHere k c

def execCntRead (p : Packet) (s : State) : Out :=
  .next (s.dispatch 0x0103 p fun c s =>
    let set := pf c.pkt 0 1
    if set ≥ 8 then s.toPlanes c
    else match s.findJob c.pkt.job with
      | some j =>
        if set = 2 && j.st.isOpen && j.hdr.opt.kernel != 4 then s.replyPlanes c (namedPlanes c.pkt j.hdr.planes) .param
        else s.toJobPlanes c
      | none => s.toJobPlanes c)

/-- Each plane returns the set's counters and clears them, the billing counters excepted. -/
def State.takeCntRead (s : State) (k : PlaneIx) (c : PlaneCmd) : State :=
  let set := pf c.pkt 0 1
  let lanes := lanesOf (pf c.pkt 2 2)
  let p := s.plane k
  if set = 10 then
    (s.updPlane k fun p => { p with ctrs := [] }).planeAnswer c.held k .ok
      (planeCtrSet.flatMap fun x => leBytes 4 (ctrGet p.ctrs x))
  else if set = 8 || set = 9 then
    let sec := lanes.flatMap fun l => (laneCtrSet set).flatMap fun x => leBytes 4 (ctrGet p.lanes[l].ctrs x)
    let s := s.each lanes fun s l => s.updLane (devLane k l) fun n =>
      { n with ctrs := n.ctrs.filter fun e => !(laneCtrSet set).contains e.1 }
    s.planeAnswer c.held k .ok sec
  else s.withPJob k c fun _ pj =>
    if set = 7 then
      let sec := lanes.flatMap fun l => leBytes 4 (ctrGet pj.drrTurns l.val)
      (s.updPJob k pj.id fun j => { j with drrTurns := j.drrTurns.filter fun e => !(lanes.map (·.val)).contains e.1 }).planeAnswer
        c.held k .ok sec
    else
      let sec := (jobCtrSet set).flatMap fun x => leBytes (if x.billing then 8 else 4) (ctrGet pj.ctrs x)
      (s.updPJob k pj.id fun j => { j with ctrs := j.ctrs.filter fun e => !(jobCtrSet set).contains e.1 || e.1.billing }).planeAnswer
        c.held k .ok sec

/-! ### Traffic control (R303) -/

def execRateSet (p : Packet) (s : State) : Out :=
  .next (s.dispatch 0x0701 p fun c s =>
    match s.findJob c.pkt.job with
    | none => s.reply c .nojob
    | some j =>
      let r := parseRate c.pkt.params
      let ceil := if j.hdr.serving then s.part.serve.jobceil else s.part.lend.jobceil
      if !j.st.isActive then s.reply c .nojob
      else if !rateRangeOk r j.hdr.serving ceil || r.unmetered != j.hdr.rate.unmetered then s.reply c .param
      else s.handOut c j.planes)

/-- The new contract waits for the plane's next refill (R207). -/
def State.takeRateSet (s : State) (k : PlaneIx) (c : PlaneCmd) : State :=
  (s.updPJob k c.pkt.job fun pj => { pj with pendRate := some (parseRate c.pkt.params) }).planeAnswer c.held k .ok []

def execRateRead (p : Packet) (s : State) : Out := .next (s.dispatch 0x0702 p fun c s => s.toJobPlanes c)

def State.takeRateRead (s : State) (k : PlaneIx) (c : PlaneCmd) : State :=
  s.withPJob k c fun _ pj => s.planeAnswer c.held k .ok (rateBytes pj.rate ++ leBytes 4 pj.tc ++ leBytes 4 pj.tp)

/-- The ranges of R205. -/
def shapeOk (rate burst ovh : Nat) : Bool :=
  1000 ≤ rate && rate ≤ 50000 && 8292 ≤ burst && burst ≤ 1048576 && ovh ≤ 64

def execShapeSet (p : Packet) (s : State) : Out :=
  .next (s.dispatch 0x0703 p fun c s =>
    if shapeOk (pf c.pkt 4 4) (pf c.pkt 8 4) (pf c.pkt 12 1) then s.toPlanes c
    else s.refuseLanes c)

/-- The new settings wait for the plane's next refill (R207). -/
def State.takeShapeSet (s : State) (k : PlaneIx) (c : PlaneCmd) : State :=
  let set := (pf c.pkt 4 4, pf c.pkt 8 4, pf c.pkt 12 1)
  let s := s.each (lanesOf (pf c.pkt 0 2)) fun s l => s.updLane (devLane k l) fun n => { n with pendShape := some set }
  s.planeAnswer c.held k .ok []

def execShapeRead (p : Packet) (s : State) : Out := .next (s.dispatch 0x0704 p fun c s => s.toPlanes c)

def State.takeShapeRead (s : State) (k : PlaneIx) (c : PlaneCmd) : State :=
  s.planeAnswer c.held k .ok ((lanesOf (pf c.pkt 0 2)).flatMap fun l =>
    let n := s.lane (devLane k l)
    leBytes 4 n.shrate ++ leBytes 4 n.shburst ++ leBytes 1 n.shovh ++ zeros 3 ++ leBytes 4 n.ts)

def execGatePhase (p : Packet) (s : State) : Out :=
  .next (s.dispatch 0x0705 p fun c s =>
    if pf c.pkt 0 4 < s.part.gcycle then s.toPlanes c else s.replyPlanes c (planesOf c.pkt.pmask.toNat) .param)

/-- The new phase waits for the end of the running cycle (R209). -/
def State.takeGatePhase (s : State) (k : PlaneIx) (c : PlaneCmd) : State :=
  (s.updPlane k fun p => { p with pendPhase := some (pf c.pkt 0 4), gateEnd := p.nextGateEnd s.part.gcycle }).planeAnswer c.held k .ok []

def execGateRead (p : Packet) (s : State) : Out := .next (s.dispatch 0x0706 p fun c s => s.toPlanes c)

def State.takeGateRead (s : State) (k : PlaneIx) (c : PlaneCmd) : State :=
  let n := s.part.gnwin
  s.planeAnswer c.held k .ok (leBytes 4 s.part.gcycle ++ leBytes 1 n ++ zeros 3 ++ leBytes 4 (s.plane k).gphase ++ zeros 4 ++
    (List.range n).flatMap fun i => leBytes 4 (s.part.gstart.getD i 0) ++ leBytes 4 (s.part.glen.getD i 0))

/-! ### Lanes (R304) -/

/-- A lane command on a plane: applied to every named lane, or to none where one refuses; the refusal carries the lowest lane that
refused and its status (R291). -/
def State.laneCmd (s : State) (k : PlaneIx) (c : PlaneCmd) (refuse : DevLane → Option Status)
    (act : State → DevLane → State) : State :=
  let ls := lanesOf (pf c.pkt 0 2)
  match ls.find? fun l => (refuse (devLane k l)).isSome with
  | some l => s.planeAnswer c.held k ((refuse (devLane k l)).getD .busy) (leBytes 1 l.val)
  | none => (s.each ls fun s l => act s (devLane k l)).planeAnswer c.held k .ok []

/-- An open job uses the lane, as a member lane or in a peer list (R228). -/
def State.laneUsed (s : State) (d : DevLane) : Bool := !(s.laneJobs d).isEmpty

/-- `LFLAGS` (R233); which end is the corrector is known once the manifest is locked. -/
def State.lflags (s : State) (d : DevLane) : Nat :=
  let l := s.lane d
  let e := s.engine (laneEngine d)
  l.los.toNat + 2 * l.feclock.toNat + 4 * (if l.st = .up then l.feclock else l.plock).toNat + 8 * l.farReady.toNat +
  16 * (s.part.locked && s.corrector d).toNat + 32 * e.polSwap.toNat + 64 * e.rxRev.toNat + 128 * l.noEcho.toNat + 256 * l.biasHi.toNat +
  512 * (s.fwdOverridden d && !l.cutClasses.isEmpty).toNat

/-- The lane status record (R232); its five analogue readings are free values, the bias moving from its calibrated
value and 0 with the laser off; there is no eye without receive clock lock. -/
def State.laneRecord (s : State) (d : DevLane) (n : Nat) : List Byte :=
  let l := s.lane d
  let rd (i : Nat) : List Byte := leBytes 2 (Config.reading (n + i)).toNat
  leBytes 1 d.val ++ leBytes 1 l.st.code ++ leBytes 1 l.lcause ++ leBytes 1 l.peak ++ leBytes 4 (s.lflags d) ++
  [l.farid1, l.farid2] ++ (if l.clk then rd 0 else zeros 2) ++ rd 1 ++ rd 2 ++
  (if l.laserOn then leBytes 2 (l.bias + (Config.reading (n + 3)).toNat) else zeros 2) ++ rd 4 ++ leBytes 4 l.trainus.toNat ++
  leBytes 8 l.lchange

def execLaneStatus (p : Packet) (s : State) : Out := .next (s.dispatch 0x0801 p fun c s => s.toPlanes c)

def State.takeLaneStatus (s : State) (k : PlaneIx) (c : PlaneCmd) : State :=
  let ls := lanesOf (pf c.pkt 0 2)
  let n := s.fresh
  let sec := (ls.zipIdx).flatMap fun (l, i) => s.laneRecord (devLane k l) (n + 5 * i)
  ({ s with fresh := n + 5 * ls.length } : State).planeAnswer c.held k .ok sec

/-- `PEAK` above 15 is no code of R227. -/
def execLaneEq (p : Packet) (s : State) : Out :=
  .next (s.dispatch 0x0802 p fun c s => if pf c.pkt 4 1 ≤ 15 then s.toPlanes c else s.refuseLanes c)

/-- The peaking of lanes that are not `UP` (R228). -/
def State.takeLaneEq (s : State) (k : PlaneIx) (c : PlaneCmd) : State :=
  s.laneCmd k c (fun d => if (s.lane d).st = .up then some .busy else none) fun s d =>
    s.updLane d fun l =>
      let l := { l with peak := pf c.pkt 4 1 }
      if l.st = .training then l.breakLock else l

def execLaneHold (p : Packet) (s : State) : Out := .next (s.dispatch 0x0803 p fun c s => s.toPlanes c)

/-- `LANE_HOLD` (R228); a lane that is dormant, disabled or faulted leaves that state only by its own commands (R230, R231), so it
refuses (DESIGN CHOICE of the status, notes/assumptions 31). -/
def State.takeLaneHold (s : State) (k : PlaneIx) (c : PlaneCmd) : State :=
  s.laneCmd k c
    (fun d =>
      let st := (s.lane d).st
      if st = .hold then none
      else if s.laneUsed d || st = .disabled || st = .txfault || st = .dormant then some .busy else none)
    fun s d =>
      let st := (s.lane d).st
      if st = .hold then s
      else if st = .up then s.laneDown d 7 .hold
      else s.setLane d .hold fun l => { l with ready := false }

def execLaneRelease (p : Packet) (s : State) : Out := .next (s.dispatch 0x0804 p fun c s => s.toPlanes c)

/-- The states of a lane that trains outside `HOLD`: `LANE_RELEASE` has nothing to do (R228, R304). -/
def LState.released : LState → Bool
  | .dark | .training | .miswired => true
  | _ => false

/-- `LANE_RELEASE` (R228): a lane that an open job uses refuses unless it trains already (R304). -/
def State.takeLaneRelease (s : State) (k : PlaneIx) (c : PlaneCmd) : State :=
  s.laneCmd k c (fun d => if s.laneUsed d && !(s.lane d).st.released then some .busy else none) fun s d =>
    if (s.lane d).st = .hold then s.setLane d (s.lane d).retrain id else s

def execLaneDormant (p : Packet) (s : State) : Out := .next (s.dispatch 0x0805 p fun c s => s.toPlanes c)

/-- `LANE_DORMANT` (R229): 64 `DORMANT` blocks if the laser is on, then the dormant state. -/
def State.takeLaneDormant (s : State) (k : PlaneIx) (c : PlaneCmd) : State :=
  s.laneCmd k c
    (fun d =>
      let st := (s.lane d).st
      if st = .dormant then none
      else if s.laneUsed d then some .busy
      else if st = .disabled || st = .txfault then some .param else none)
    fun s d =>
      let l := s.lane d
      if l.st = .dormant then s
      else
        let s := if l.laserOn then { s with out := { s.out with dormant := s.out.dormant ++ [d.val] } } else s
        let s := if l.st = .up then s.laneDown d 7 .dormant else s.setLane d .dormant Lane.breakLock
        s.updLane d fun l => l.laserStop.clockStop

def execLaneWake (p : Packet) (s : State) : Out := .next (s.dispatch 0x0806 p fun c s => s.toPlanes c)

/-- `LANE_WAKE` (R230). -/
def State.takeLaneWake (s : State) (k : PlaneIx) (c : PlaneCmd) : State :=
  s.laneCmd k c (fun _ => none) fun s d => s.wakeLane d

def execLaneDisable (p : Packet) (s : State) : Out := .next (s.dispatch 0x0807 p fun c s => s.toPlanes c)

/-- `LANE_DISABLE` (R231): always accepted for a lane in `TXFAULT`. -/
def State.takeLaneDisable (s : State) (k : PlaneIx) (c : PlaneCmd) : State :=
  s.laneCmd k c
    (fun d =>
      let st := (s.lane d).st
      if st = .disabled || st = .txfault then none else if s.laneUsed d then some .busy else none)
    fun s d =>
      let st := (s.lane d).st
      if st = .disabled then s
      else
        let s := if st = .up then s.laneDown d 7 .disabled else s.setLane d .disabled Lane.breakLock
        s.updLane d fun l => l.laserStop.clockStop

def execLaneEnable (p : Packet) (s : State) : Out := .next (s.dispatch 0x0808 p fun c s => s.toPlanes c)

/-- `LANE_ENABLE` (R231): a disabled lane turns its laser on and trains; light that is there already counts from this moment (`TRAINUS`).  A
retired lane stays off until the next reset (R253; answered `BUSY`, DESIGN CHOICE, notes/assumptions 31). -/
def State.takeLaneEnable (s : State) (k : PlaneIx) (c : PlaneCmd) : State :=
  s.laneCmd k c (fun d => if (s.lane d).st = .disabled && (s.laneUsed d || (s.lane d).retired) then some .busy else none) fun s d =>
    if (s.lane d).st = .disabled then
      let t := (s.plane k).cnt
      s.setLane d (s.lane d).retrain fun l =>
        { l.breakLock.laserStart (s.calBias d) t with lightAt := if l.los then l.lightAt else t } else s

/-- The class values of R196. -/
def classes : List Nat := [0x80, 0x81, 0x82, 0x83, 0x00]

def execLaneFwd (p : Packet) (s : State) : Out :=
  .next (s.dispatch 0x0809 p fun c s =>
    if classes.contains (pf c.pkt 4 1) && pf c.pkt 5 1 ≤ 1 then s.toPlanes c
    else s.refuseLanes c)

/-- `LANE_FWD` (R192). -/
def State.takeLaneFwd (s : State) (k : PlaneIx) (c : PlaneCmd) : State :=
  let cls := pf c.pkt 4 1
  s.laneCmd k c (fun _ => none) fun s d => s.updLane d fun l =>
    let rest := l.cutClasses.filter (· != cls)
    { l with cutClasses := if pf c.pkt 5 1 = 1 then cls :: rest else rest }

def execBoardQuery (p : Packet) (s : State) : Out :=
  .next (s.dispatch 0x080A p fun c s =>
    s.reply c .ok (leBytes 1 s.bidx ++ leBytes 1 s.part.bsize ++ zeros 2 ++
      (List.range 128).flatMap fun l => leBytes 1 (s.part.far.getD l 0xFF)))

/-! ### Checking (R305) -/

/-- The log that a target names: `none` for a target that is neither a plane nor the host port block. -/
def State.errTarget (s : State) (t : Nat) : Option (List ErrRec) :=
  if t < 8 then some (s.plane (Fin.ofNat 8 t)).errLog else if t = 255 then some s.host.herrLog else none

/-- `ERRLOG_READ`; where no record is returned, no rule gives `NEXTSEQ`: a free value (notes/assumptions 3). -/
def execErrlogRead (p : Packet) (s : State) : Out :=
  .next (s.dispatch 0x0901 p fun c s =>
    let t := pf c.pkt 0 1
    match s.errTarget t with
    | none => s.reply c .param
    | some log =>
      if t < 8 && (s.plane (Fin.ofNat 8 t)).ps != .inService then s.reply c .planedown
      else
        let rs := (log.filter fun r => pf c.pkt 4 4 ≤ r.eseq).take (pf c.pkt 1 1)
        let (n, s) := s.takeFresh
        let next := match rs.getLast? with
          | some r => r.eseq + 1
          | none => (Config.reading n).toNat
        s.reply c .ok (leBytes 1 rs.length ++ zeros 3 ++ leBytes 4 next ++ rs.flatMap errBytes))

/-- `OBS_SET` (R249): a value outside its range changes nothing. -/
def execObsSet (p : Packet) (s : State) : Out :=
  .next (s.dispatch 0x0902 p fun c s =>
    let r := pf c.pkt 0 1
    let cl := pf c.pkt 1 1
    let ti := pf c.pkt 4 4
    let tg := pf c.pkt 8 4
    if 1 ≤ r && 1 ≤ cl && 10 ≤ ti && ti ≤ 86400 && 1 ≤ tg && tg ≤ 3600 then
      (s.updHost fun h => { h with obsretire := r, obsclear := cl, testint := ti, testgrace := tg }).reply c .ok
    else s.reply c .param)

/-- Errors under observation of a block (R305); the combiner's chains are the host port block's, shown with every plane. -/
def State.obsErr (s : State) (k : PlaneIx) (block : Nat) : Nat :=
  let l := if block = 12 then s.comb.obs else (s.plane k).obs
  min ((l.filter (·.block == block)).map (·.errs)).sum 255

def execObsRead (p : Packet) (s : State) : Out :=
  .next (s.dispatch 0x0903 p fun c s =>
    let h := s.host
    s.reply c .ok (leBytes 1 h.obsretire ++ leBytes 1 h.obsclear ++ zeros 2 ++ leBytes 4 h.testint ++ leBytes 4 h.testgrace ++
      allPlanes.flatMap fun k =>
        let comb := if s.comb.obs.isEmpty then 0 else 4096
        leBytes 2 ((s.plane k).obsMask ||| comb) ++ zeros 2 ++ (List.range 12).flatMap fun b => leBytes 1 (s.obsErr k (b + 1))))

/-- The segments of a block's test (R254); 0 for a block that has none.  The generators' segments belong to the vector unit. -/
def testSegments (block : Nat) : Nat :=
  match block with
  | 2 => 16
  | 4 => 4
  | 5 => 24
  | 6 => 10
  | 7 => 8
  | 8 => 8
  | 9 => 2
  | _ => 0

/-- The blocks of a mask, ascending. -/
def testBlocks (m : Nat) : List Nat := maskList 16 m

/-- A plane has a job in `RUNNING` or `RECLAIMING` (R255, R257). -/
def State.planeRuns (s : State) (k : PlaneIx) : Bool :=
  s.jobs.any fun j => j.st.isRunning && (s.pjob k j.id).any fun pj => pj.fs != .loading

/-- A mask that names a block without a test is no value of `BLOCKS`. -/
def execTestRun (p : Packet) (s : State) : Out :=
  .next (s.dispatch 0x0904 p fun c s =>
    if (testBlocks (pf c.pkt 0 2)).all fun b => testSegments b != 0 then s.toPlanes c
    else s.replyPlanes c (planesOf c.pkt.pmask.toNat) .param)

/-- `TEST_RUN` on its plane (R257): the runs are queued; the answer comes when they end. -/
def State.takeTestRun (s : State) (k : PlaneIx) (c : PlaneCmd) : State :=
  let bs := testBlocks (pf c.pkt 0 2)
  if c.pkt.flags.getLsbD 8 && s.planeRuns k then s.planeAnswer c.held k .busy []
  else if bs.isEmpty then s.planeAnswer c.held k .ok (zeros 4)
  else s.updPlane k fun p => { p with tests := p.tests ++ bs.map fun b =>
    { block := b, segsLeft := testSegments b, repeats := pf c.pkt 2 2, cmd := some c.held } }

/-! ### Firmware, attestation, calibration (R306) -/

/-- The size of the staging buffer (R317). -/
def stagingSize : Nat := 33554432

def execFwQuery (p : Packet) (s : State) : Out :=
  .next (s.dispatch 0x0A01 p fun c s =>
    s.reply c .ok (leBytes 4 s.boot.fwver.toNat ++ leBytes 4 s.boot.fwlen ++ fixLen 64 s.boot.mfw ++ leBytes 1 s.boot.recmode.toNat ++
      zeros 3))

def execFwLoad (p : Packet) (s : State) : Out :=
  .next (s.dispatch 0x0A02 p fun c s =>
    let off := pf c.pkt 0 4
    let n := pf c.pkt 4 4
    if off + n > stagingSize then s.reply c .length
    else (s.updHost fun h => { h with staging := memWriteN h.staging off (slice c.pkt.params 8 n) }).reply c .ok)

/-- `FW_COMMIT` (R317): only a package that verifies starts programming the slot; the staging buffer is zero after it. -/
def execFwCommit (p : Packet) (s : State) : Out :=
  .next (s.dispatch 0x0A03 p fun c s =>
    let n := pf c.pkt 0 4
    if s.jobsOpen != 0 || s.host.programming.isSome then s.reply c .busy
    else
      let pkg := memReadN s.host.staging 0 (min n stagingSize)
      if n ≤ stagingSize && (pkgHdr pkg).pklen == n && (verifyPackage s.nv s.bidx pkg).isNone then
        (s.updHeld c.id fun c => { c with phase := .waiting }).updHost fun h => { h with programming := some (c.id, pkg) }
      else (s.updHost fun h => { h with staging := [] }).reply c .auth)

/-- Programming ends (R317): the slot holds the package, the buffer is zeroed, and the reply is written. -/
def execFwCommitProgramDone (s : State) : Out :=
  match s.host.programming with
  | none => .next s
  | some (id, pkg) =>
    let s := s.updHost fun h => { h with programming := none, staging := [] }
    let s := { s with
      nv := { s.nv with slot := pkg }
      boot := { s.boot with fwver := BitVec.ofNat 32 (pkgHdr pkg).fver, fwlen := (pkgHdr pkg).pklen } }
    .next (s.answer id .ok [])

/-- The attestation report, less its signature (R323). -/
def State.attestBody (s : State) (nonce : List Byte) (count : Nat) : List Byte :=
  leBytes 2 1 ++ [0x41] ++ leBytes 1 s.boot.recmode.toNat ++ leBytes 1 s.bidx ++
  leBytes 1 (if s.boot.recmode then 0 else s.inServiceMask) ++ leBytes 2 s.boot.bcode ++ fixLen 16 s.nv.serial ++
  fixLen 32 nonce ++ leBytes 4 s.boot.fsvn ++ leBytes 4 s.nv.minSvn ++ fixLen 64 s.boot.mboot ++ fixLen 64 s.boot.mfw ++
  fixLen 64 s.boot.mman ++ fixLen 64 s.boot.mcal ++ leBytes 8 count ++ zeros 8 ++ fixLen 2592 s.nv.idPub ++
  fixLen 4627 s.nv.idCert ++ zeros 1

/-- `ATTEST` (R312, R323): the identity key signs the report's SHA3-512 hash; the signature is opaque. -/
def execAttest (p : Packet) (s : State) : Out :=
  .next (s.dispatch 0x0A04 p fun c s =>
    let n := s.host.acount + 1
    let body := s.attestBody c.pkt.params n
    (s.updHost fun h => { h with acount := n }).reply c .ok (body ++ fixLen 4627 (Config.identitySign (sha3_512 body))))

/-- A read of a range that ends beyond its object is `LENGTH` (R306). -/
def State.readRange (s : State) (c : Held) (bs : List Byte) (size : Nat) : State :=
  let off := pf c.pkt 0 4
  let n := pf c.pkt 4 4
  if off + n > size then s.reply c .length else s.reply c .ok (slice bs off n)

def execManifestRead (p : Packet) (s : State) : Out :=
  .next (s.dispatch 0x0A05 p fun c s => s.readRange c s.boot.manifest 9619)

def execCalRead (p : Packet) (s : State) : Out := .next (s.dispatch 0x0B01 p fun c s => s.readRange c s.nv.cal 480)

/-- `CAL_WRITE` (R327). -/
def execCalWrite (p : Packet) (s : State) : Out :=
  .next (s.dispatch 0x0B02 p fun c s =>
    let b := slice c.pkt.params 4 480
    if !calOk b s.nv.serial || fieldAt b 0x18 1 != 1 then s.reply c .param
    else if s.jobsOpen != 0 || s.host.programming.isSome || s.host.calWriting.isSome then s.reply c .busy
    else (s.updHeld c.id fun c => { c with phase := .waiting }).updHost fun h => { h with calWriting := some (c.id, b) })

/-- The write of the calibration set has finished (R327); the new values act at the next reset. -/
def execCalWriteDone (s : State) : Out :=
  match s.host.calWriting with
  | none => .next s
  | some (id, b) =>
    let s := s.updHost fun h => { h with calWriting := none }
    .next (({ s with nv := { s.nv with cal := b } } : State).answer id .ok [])

end Sys2Proof.Machine
end

