-- ==== Sys2Proof/Machine/Kernels.lean ====
section
/-! DEFINITION. The kernels (R78 to R84), the norm in 512 lanes (R66), the stochastic images (R45), the matrix engine (R104 to R106),
the steps of a KRONECKER block (R112, R113) and its root refresh (R115), and the digest of a share (R263). -/
namespace Sys2Proof.Machine

/-! ### Expressions with flags (R79): one operator at a time, each rounded once -/

def frOf (w : W32) : FR := (w, 0)
def frAdd (a b : FR) : FR := let r := fadd a.1 b.1; (r.1, a.2 ||| b.2 ||| r.2)
def frSub (a b : FR) : FR := let r := fsub a.1 b.1; (r.1, a.2 ||| b.2 ||| r.2)
def frMul (a b : FR) : FR := let r := fmul a.1 b.1; (r.1, a.2 ||| b.2 ||| r.2)
def frDiv (a b : FR) : FR := let r := fdiv a.1 b.1; (r.1, a.2 ||| b.2 ||| r.2)
def frFma (a b c : FR) : FR := let r := ffma a.1 b.1 c.1; (r.1, a.2 ||| b.2 ||| c.2 ||| r.2)
def frSqrt (a : FR) : FR := let r := fsqrt a.1; (r.1, a.2 ||| r.2)

/-- The flags of a list of results. -/
def frFlags (l : List FR) : W32 := l.foldl (fun f r => f ||| r.2) 0

/-- The contribution count A of a step (R78): `MEANDIV` takes the group members on the board times the passes or the thinning
factor. -/
def acountOf (h : JobHdr) (groupSize : Nat) : Nat := if h.opt.meandiv then groupSize * h.accn else 1

/-- The unscaling factor u = 1 / (`LSCALE` × A) (R78). -/
def unscale (lscale : W32) (a : Nat) : FR := frDiv (frOf fone) (frMul (frOf lscale) (frOf (ofNatF a)))

/-- The constants of a step (R80, R81): the block, u, c, and om1, om2, bc1, bc2. -/
structure KConst where
  opt : OptBlock
  u   : W32
  c   : W32
  om1 : W32
  om2 : W32
  bc1 : W32
  bc2 : W32
deriving DecidableEq, Repr, Inhabited

/-- The step constants with the flags that computing them sets. -/
def stepConsts (o : OptBlock) (pow1 pow2 u c : W32) : KConst × W32 :=
  let one := frOf fone
  let om1 := frSub one (frOf o.mu)
  let om2 := frSub one (frOf o.beta2)
  let bc1 := frDiv one (frSub one (frMul (frOf pow1) (frOf o.mu)))
  let bc2 := frDiv one (frSub one (frMul (frOf pow2) (frOf o.beta2)))
  ({ opt := o, u := u, c := c, om1 := om1.1, om2 := om2.1, bc1 := bc1.1, bc2 := bc2.1 }, frFlags [om1, om2, bc1, bc2])

/-- The input words of an element (R39, R84): r and the indicative words. -/
structure ElemIn where
  r  : W32
  w0 : W32
  m0 : W32 := 0
  v0 : W32 := 0
deriving DecidableEq, Repr, Inhabited

/-- The elements of a share from its reduced values and its indicative arrays. -/
def elemsOf : List W32 → List W32 → List W32 → List W32 → List ElemIn
  | r :: rs, ws, ms, vs => { r := r, w0 := ws.headD 0, m0 := ms.headD 0, v0 := vs.headD 0 } :: elemsOf rs ws.tail ms.tail vs.tail
  | [], _, _, _ => []

/-- The flags of an element's decoded inputs (R39). -/
def ElemIn.inFlags (e : ElemIn) : W32 := inFlagsAll [e.r, e.w0, e.m0, e.v0]

/-- g = (r × u) × c (R78). -/
def gradOf (k : KConst) (r : W32) : FR := frMul (frMul (frOf r) (frOf k.u)) (frOf k.c)

/-- What a kernel writes for an element: its words in array order and its flags. -/
abbrev ElemOut := List W32 × W32

/-- MOMENTUM (R80). -/
def kMomentum (k : KConst) (e : ElemIn) : ElemOut :=
  let g := frFma (frOf k.opt.wd) (frOf e.w0) (gradOf k e.r)
  let m := frFma (frOf k.opt.mu) (frOf e.m0) g
  let d := if k.opt.nesterov then frFma (frOf k.opt.mu) m g else m
  let w := frFma (frOf (fneg k.opt.lr)) d (frOf e.w0)
  ([w.1, m.1], w.2 ||| m.2 ||| e.inFlags)

/-- The moments of ADAPTIVE (R81): g, m, v. -/
def kMoments (k : KConst) (e : ElemIn) : FR × FR × FR :=
  let g := gradOf k e.r
  let m := frFma (frOf k.opt.mu) (frOf e.m0) (frMul (frOf k.om1) g)
  let v := frFma (frOf k.opt.beta2) (frOf e.v0) (frMul (frOf k.om2) (frMul g g))
  (g, m, v)

/-- (m × bc1) / (sqrtf(v × bc2) + EPS) (R81). -/
def kDir (k : KConst) (m v : FR) : FR :=
  frDiv (frMul m (frOf k.bc1)) (frAdd (frSqrt (frMul v (frOf k.bc2))) (frOf k.opt.eps))

/-- ADAPTIVE (R81). -/
def kAdaptive (k : KConst) (e : ElemIn) : ElemOut :=
  let (_, m, v) := kMoments k e
  let w := frSub (frOf e.w0) (frMul (frOf k.opt.lr) (frFma (frOf k.opt.wd) (frOf e.w0) (kDir k m v)))
  ([w.1, m.1, v.1], w.2 ||| e.inFlags)

/-- One piece of at most 512 words into the squared-norm lanes. -/
def laneSquares : List FR → List W32 → List FR
  | l :: ls, x :: xs => frFma (frOf x) (frOf x) l :: laneSquares ls xs
  | ls, _ => ls

/-- The squares summed in the 512 lanes, a piece at a time (R66). -/
def squareLanes (xs : List W32) : List FR := (chunksOf 512 xs).foldl laneSquares (List.replicate 512 (0, 0))

/-- The sum of squares in 512 lanes, the lanes summed in order from +0 (R66). -/
def sumSquares (xs : List W32) : FR := (squareLanes xs).foldl frAdd (0, 0)

/-- norm(X) of R112. -/
def normOf (xs : List W32) : FR := frSqrt (sumSquares xs)

/-- The trust ratio of R82 from the two norms' squares. -/
def trustRatio (o : OptBlock) (wsum dsum : FR) : FR :=
  let q := frDiv (frSqrt wsum) (frSqrt dsum)
  (if fgt q.1 0 then (if fgt o.trustmax q.1 then q.1 else o.trustmax) else fone, q.2)

/-- LAYERWISE over one trust unit (R82). -/
def kLayerwise (k : KConst) (es : List ElemIn) : List ElemOut :=
  let ds := es.map fun e =>
    let (_, m, v) := kMoments k e
    (e, m, v, frFma (frOf k.opt.wd) (frOf e.w0) (kDir k m v))
  let wsum := sumSquares (es.map (·.w0))
  let dsum := sumSquares (ds.map fun x => x.2.2.2.1)
  let tr := trustRatio k.opt wsum dsum
  let step := frMul (frOf k.opt.lr) tr
  ds.map fun (e, m, v, d) =>
    let w := frFma (fneg step.1, step.2) d (frOf e.w0)
    ([w.1, m.1, v.1], w.2 ||| e.inFlags)

/-- The inputs of a user kernel in the order of R84. -/
def userInputs (k : KConst) (r : W32) (words : List W32) : List W32 :=
  [r, k.u, k.c] ++ words ++ [k.opt.lr, k.opt.mu, k.opt.beta2, k.opt.eps, k.opt.wd] ++ k.opt.uparam

/-- Arrays of a share: array k as the k-th word of each element. -/
def arraysOf (n : Nat) (rows : List (List W32)) : List (List W32) := (List.range n).map fun i => rows.map fun r => r.getD i 0

/-- The words of each element, from arrays. -/
def rowsOf (n : Nat) (arrays : List (List W32)) : List (List W32) := (List.range n).map fun i => arrays.map fun a => a.getD i 0

/-- The words per parameter in a copy (R73). -/
def wordsOf (o : OptBlock) : Nat :=
  match kernelOf o.kernel with
  | .none => 0
  | .momentum => 2
  | .adaptive | .layerwise | .kronecker => 3
  | .user => 1 + o.userwords

/-- What a kernel run gives: the arrays of the subjunctive copy, the vector unit's flags, and the first element on which a user kernel
faulted. -/
structure KOut where
  arrays : List (List W32)
  flags  : W32 := 0
  fault  : Option Nat := none
deriving DecidableEq, Repr, Inhabited

/-- The results of a kernel as arrays. -/
def koutOf (n : Nat) (es : List ElemOut) : KOut :=
  { arrays := arraysOf n (es.map (·.1)), flags := es.foldl (fun f e => f ||| e.2) 0 }

/-- A word as the device writes it: every NaN is the canonical one (R38). -/
def canonWord (w : W32) : W32 := if isNaN w then qNaN else w

/-- A user kernel over a share (R84); one faulting element poisons the bucket.  Which arithmetic flags its instructions set is free. -/
def kUser (img : List Byte) (k : KConst) (rs : List W32) (arrays : List (List W32)) : KOut :=
  let n := 1 + k.opt.userwords
  let rows := rs.zip (rowsOf rs.length arrays)
  let outs := rows.map fun (r, ws) => Config.userKernel img (userInputs k r ws)
  { arrays := arraysOf n (outs.map fun o => (((o.getD []) ++ List.replicate n 0).take n).map canonWord)
    flags := rows.foldl (fun f x =>
      f ||| inFlagsAll (x.1 :: x.2) ||| (Config.userFlags img (userInputs k x.1 x.2) &&& 7)) 0
    fault := outs.findIdx? (·.isNone) }

/-- A kernel over elements with no preconditioned block: every kernel but KRONECKER, whose tail is ADAPTIVE (R109). -/
def kVector (img : List Byte) (k : KConst) (rs : List W32) (arrays : List (List W32)) : KOut :=
  let es := elemsOf rs (arrays.getD 0 []) (arrays.getD 1 []) (arrays.getD 2 [])
  match kernelOf k.opt.kernel with
  | .none => { arrays := [] }
  | .momentum => koutOf 2 (es.map (kMomentum k))
  | .adaptive | .kronecker => koutOf 3 (es.map (kAdaptive k))
  | .layerwise => koutOf 3 (kLayerwise k es)
  | .user => kUser img k rs arrays

/-! ### The matrix engine (R34 to R36, R104 to R106) -/

/-- The block edge b (R107). -/
def blockEdge (p : PrecBlock) : Nat := 128 * 2 ^ p.block

/-- A square matrix, row-major, as rows. -/
def matRows (b : Nat) (ws : List W32) : List (List W32) := chunksOf b ws

/-- The transpose of a `b` by `b` matrix given as rows. -/
def transpose (b : Nat) (rows : List (List W32)) : List (List W32) := (List.range b).map fun i => rows.map fun r => r.getD i 0

/-- T(X) of R112. -/
def matT (b : Nat) (ws : List W32) : List W32 := (transpose b (matRows b ws)).flatten

/-- The stager narrows FP32 to E8M7, to nearest even (R106). -/
def narrow (w : W32) : FR := let r := e8m7Rne w; (ofE8m7 r.1, r.2)

/-- A dot product of the array: the products truncated (R35), then the rounded sum from +0 in ascending order (R34, R36, R40). -/
def dot (r c : List W32) : FR :=
  let ps := (r.zip c).map fun ab => mulFx true (fx ab.1) (fx ab.2)
  let s := fsum (ps.map (·.1))
  (s.1, ps.foldl (fun f p => f ||| p.2) s.2)

/-- mm(X, Y) with E8M7 operands (R105, R106): each output sums k ascending from +0. -/
def matMul (b : Nat) (x y : List W32) : List FR :=
  let xn := x.map narrow
  let yn := y.map narrow
  let inF := frFlags xn ||| frFlags yn ||| inFlagsAll (xn.map (·.1)) ||| inFlagsAll (yn.map (·.1))
  let xr := matRows b (xn.map (·.1))
  let yc := transpose b (matRows b (yn.map (·.1)))
  match (xr.flatMap fun r => yc.map fun c => dot r c) with
  | [] => []
  | o :: os => (o.1, o.2 ||| inF) :: os

/-- The words of results. -/
def frWords (l : List FR) : List W32 := l.map (·.1)

/-- The identity matrix (R111). -/
def identity (b : Nat) : List W32 := (List.range b).flatMap fun y => (List.range b).map fun x => if x = y then fone else 0

/-! ### One block of KRONECKER (R112) -/

/-- A KRONECKER block as it stands at job open (R111). -/
def KBlock.fresh (b : Nat) : KBlock :=
  { buf0 := List.replicate (b * b) 0, buf1 := List.replicate (b * b) 0, buf2 := List.replicate (b * b) 0,
    ql := identity b, qr := identity b }

/-- A statistics buffer by number. -/
def KBlock.buf (q : KBlock) (i : Nat) : List W32 := match i with
  | 0 => q.buf0
  | 1 => q.buf1
  | _ => q.buf2

def KBlock.setBuf (q : KBlock) (i : Nat) (ws : List W32) : KBlock := match i with
  | 0 => { q with buf0 := ws }
  | 1 => { q with buf1 := ws }
  | _ => { q with buf2 := ws }

/-- The spare buffer: the one neither map entry names (R110). -/
def KBlock.spare (q : KBlock) : Nat := 3 - q.mapL - q.mapR

/-- The indicative statistics of side `s`: 0 left, 1 right. -/
def KBlock.stat (q : KBlock) (s : Nat) : List W32 := q.buf (if s = 0 then q.mapL else q.mapR)

/-- The root of side `s`. -/
def KBlock.root (q : KBlock) (s : Nat) : List W32 := if s = 0 then q.ql else q.qr

/-- The map after a commit or clip: the spare becomes side `s` (R121). -/
def KBlock.flip (q : KBlock) (s : Nat) : KBlock :=
  if s = 0 then { q with mapL := q.spare } else { q with mapR := q.spare }

/-- The first vector steps of R112 for one element: m, v, MH, A, G. -/
structure KronElem where
  e  : ElemIn
  m  : FR
  v  : FR
  mh : FR
  a  : FR
  g  : FR
deriving DecidableEq, Repr, Inhabited

def kronElem (k : KConst) (e : ElemIn) : KronElem :=
  let (g, m, v) := kMoments k e
  let mh := frMul m (frOf k.bc1)
  { e := e, m := m, v := v, mh := mh, g := g, a := frDiv mh (frAdd (frSqrt (frMul v (frOf k.bc2))) (frOf k.opt.eps)) }

/-- The statistics product PI of side `s` (R112). -/
def kronPI (b s : Nat) (g : List W32) : List FR := if s = 0 then matMul b g (matT b g) else matMul b (matT b g) g

/-- The apply product P of side `s` (R112). -/
def kronP (b s : Nat) (q : KBlock) (mh : List W32) : List FR :=
  if s = 0 then matMul b q.ql mh else matMul b mh q.qr

/-- The new statistics SN of side `s` (R112); the statistics are input words (R39). -/
def kronSN (p : PrecBlock) (s : Nat) (q : KBlock) (pi : List W32) : List FR :=
  let omS := frSub (frOf fone) (frOf p.sdecay)
  (q.stat s).zipWith (fun st x => frFma (frOf p.sdecay) (st, inFlagsAll [st]) (frMul omS (frOf x))) pi

/-- The graft and the update of R112 from P. -/
def kronApply (k : KConst) (es : List KronElem) (p : List W32) : List ElemOut :=
  let an := normOf (es.map (·.a.1))
  let pn := normOf p
  let pos := fgt pn.1 0
  let kk : FR := if pos then frDiv an pn else (0, an.2 ||| pn.2)
  (es.zip p).map fun (x, pw) =>
    let d := if pos then frMul kk (frOf pw) else (x.a.1, x.a.2 ||| kk.2)
    let w := frSub (frOf x.e.w0) (frMul (frOf k.opt.lr) (frFma (frOf k.opt.wd) (frOf x.e.w0) d))
    ([w.1, x.m.1, x.v.1], w.2 ||| x.m.2 ||| x.v.2 ||| x.a.2 ||| x.g.2 ||| x.e.inFlags)

/-- Any NaN or infinity among words (R113). -/
def anyNonFinite (ws : List W32) : Bool := ws.any fun w => !isFinite w

/-! ### Root refresh (R115, R116) -/

/-- T of one iteration from H (R115). -/
def newtonT (b : Nat) (h : List W32) : List FR :=
  h.zipIdx.map fun (w, i) => frFma (frOf 0xBF000000) (frOf w) (frOf (if i / b = i % b then 0x3FC00000 else 0))

/-- S with `DAMP` added on its diagonal (R115). -/
def dampStat (p : PrecBlock) (stat : List W32) : List FR :=
  let b := blockEdge p
  stat.zipIdx.map fun (w, i) => if i / b = i % b then frAdd (frOf w) (frOf p.damp) else frOf w

/-- One coupled Newton iteration: (Y, Z) to their successors, with flags. -/
def newtonStep (b : Nat) (yz : List W32 × List W32 × W32 × W32) : List W32 × List W32 × W32 × W32 :=
  let (y, z, fv, fm) := yz
  let h := matMul b z y
  let t := newtonT b (frWords h)
  let y' := matMul b y (frWords t)
  let z' := matMul b (frWords t) z
  (frWords y', frWords z', fv ||| frFlags t, fm ||| frFlags h ||| frFlags y' ||| frFlags z')

def newtonIter (b : Nat) : Nat → List W32 × List W32 × W32 × W32 → List W32 × List W32 × W32 × W32
  | 0, yz => yz
  | n + 1, yz => newtonIter b n (newtonStep b yz)

/-- The iterate Z before its last scaling, the factor, and the flags of the vector unit and of the engine. -/
def rootRefresh (p : PrecBlock) (stat : List W32) : List W32 × FR × W32 × W32 :=
  let b := blockEdge p
  let s := dampStat p stat
  let fn := normOf (frWords s)
  let inv := frDiv (frOf fone) fn
  let y := (frWords s).map fun w => frMul (frOf w) (frOf inv.1)
  let (_, z, fv, fm) := newtonIter b p.nsiter (frWords y, identity b, 0, 0)
  let k := frDiv (frOf fone) (frSqrt fn)
  (z, (k.1, 0), inFlagsAll stat ||| frFlags s ||| inv.2 ||| frFlags y ||| fv ||| k.2, fm)

/-- The root from the settled iterate. -/
def rootScale (z : List W32) (k : W32) : List FR := z.map fun w => frMul (frOf w) (frOf k)

/-- A root that is installed: every word finite and of magnitude at most 2 to the 127 (R116). -/
def rootOk (q : List W32) : Bool := q.all fun w => isFinite w && !fgt (w &&& 0x7FFFFFFF) 0x7F000000

/-! ### Images and digests -/

/-- The E8M7 images of master words under stochastic rounding, from the random values numbered from `n` (R44, R45). -/
def srImages (n : Nat) (ws : List W32) : List (W16 × W32) :=
  ws.zipIdx.map fun (w, i) => e8m7Sr w (Config.randomBits (n + i))

/-- The digest of a share: the first 16 bytes of the SHA3-512 hash of its FP32 arrays (R263). -/
def digestOf (arrays : List (List W32)) : List Byte := (sha3_512 (arrays.flatMap packFp32)).take 16

end Sys2Proof.Machine
end

