-- ==== Sys2Proof/Machine/KernelRun.lean ====
section
/-! DEFINITION. Running a kernel on a bucket share (R85, R93, R112, R237, R261): the copies and the selector (R74), checked result
blocks and tiles, the blocks of a plane and their refreshes (R109, R114 to R116), the arrays sent to mirrors, and the log. -/
namespace Sys2Proof.Machine

/-! ### Copies (R74) -/

/-- The indicative copy. -/
def Share.ind (h : Share) : List (List W32) := if h.sel then h.copyB else h.copyA

/-- The indicative image. -/
def Share.indImg (h : Share) : List W16 := if h.sel then h.imgB else h.imgA

/-- The subjunctive copy. -/
def Share.sub (h : Share) : List (List W32) := if h.sel then h.copyA else h.copyB

/-- The subjunctive image. -/
def Share.subImg (h : Share) : List W16 := if h.sel then h.imgA else h.imgB

def Share.setSub (h : Share) (a : List (List W32)) (img : List W16) : Share :=
  if h.sel then { h with copyA := a, imgA := img } else { h with copyB := a, imgB := img }

def Share.setInd (h : Share) (a : List (List W32)) (img : List W16) : Share :=
  if h.sel then { h with copyB := a, imgB := img } else { h with copyA := a, imgA := img }

/-- The share is kept here, as the home copy or a mirror's. -/
def Share.kept (h : Share) : Bool := h.role != .remote

/-- The values of a log slot for a step (R270). -/
def Share.logVals (h : Share) (logl step : Nat) : List W32 :=
  match h.log.lookup (step % logl) with
  | some v => v.vals
  | none => []

/-- Writes the log slot of a step. -/
def Share.setLog (h : Share) (logl step : Nat) (vs : List W32) : Share :=
  let i := step % logl
  { h with log := (i, { step := step, vals := vs }) :: h.log.filter (·.1 != i) }

/-! ### Checked items -/

/-- Runs the items of a result one after another: `itemOf` gives the item of a word position. -/
def State.checkItems (s : State) (k : PlaneIx) (redund : Nat) (e : ErrInfo) (ws : List W32) (fs : List WordFault) (items : Nat)
    (itemOf lane : Nat → Nat) : List W32 × Bool × State :=
  (List.range items).foldl (fun acc i =>
    let r := acc.2.2.checkItem k redund { e with chunk := i } acc.1 (fs.filter fun f => itemOf f.word == i) lane
    (r.1, acc.2.1 || r.2.1, r.2.2)) (ws, false, s)

/-- Words in a result block of 4 KiB (R19). -/
def blockWords : Nat := 1024

/-- The word faults of a range of positions, renumbered from 0. -/
def shiftFaults (fs : List WordFault) (from' n : Nat) : List WordFault :=
  (fs.filter fun f => from' ≤ f.word && f.word < from' + n).map fun f => { f with word := f.word - from' }

/-- Vector-unit results in result blocks of 4 KiB (R237); `n` elements per array, so lane i mod 512. -/
def State.checkVector (s : State) (k : PlaneIx) (redund : Nat) (e : ErrInfo) (n : Nat) (ws : List W32) (fs : List WordFault) :
    List W32 × Bool × State :=
  s.checkItems k redund { e with block := 6 } ws fs ((ws.length + blockWords - 1) / blockWords) (· / blockWords) fun p => p % n % 512

/-- An engine product in output tiles (R237), row-major tile order; the lane is the array row. -/
def State.checkTiles (s : State) (k : PlaneIx) (redund : Nat) (e : ErrInfo) (b : Nat) (ws : List W32) (fs : List WordFault) :
    List W32 × Bool × State :=
  let t := b / 128
  s.checkItems k redund { e with block := 7 } ws fs (t * t) (fun p => p / b / 128 * t + p % b / 128) fun p => p / b % 128

/-- A checked computation under way: the state, whether a word stayed unresolved, and the flags of the vector unit and the engine. -/
structure Checked where
  s   : State
  bad : Bool := false
  fv  : W32 := 0
  fm  : W32 := 0
deriving DecidableEq, Repr

/-- A vector step of `n` lanes: its words as they stand; `base` is the number of its first word among the computation's words. -/
def Checked.vec (c : Checked) (k : PlaneIx) (redund : Nat) (e : ErrInfo) (n : Nat) (fs : List WordFault) (base : Nat) (l : List FR) :
    List W32 × Checked :=
  let (ws, bad, s) := c.s.checkVector k redund e n (frWords l) (shiftFaults fs base l.length)
  (ws, { c with s := s, bad := c.bad || bad, fv := c.fv ||| frFlags l })

/-- An engine product of edge `b`. -/
def Checked.mat (c : Checked) (k : PlaneIx) (redund : Nat) (e : ErrInfo) (b : Nat) (fs : List WordFault) (base : Nat) (l : List FR) :
    List W32 × Checked :=
  let (ws, bad, s) := c.s.checkTiles k redund e b (frWords l) (shiftFaults fs base l.length)
  (ws, { c with s := s, bad := c.bad || bad, fm := c.fm ||| frFlags l })

/-- A squared norm as one check item (R66, R237): its 512 lane sums and, as word 512, their total, which follows the lane sums that stand. -/
def Checked.squares (c : Checked) (k : PlaneIx) (redund : Nat) (e : ErrInfo) (fs : List WordFault) (base : Nat) (xs : List W32) :
    W32 × Checked :=
  let ls := squareLanes xs
  let (ws, c) := c.vec k redund e 512 fs base (ls ++ [sumSquares xs])
  let stood := ws.take 512
  (if stood = frWords ls then ws.getD 512 0 else ((stood.map frOf).foldl frAdd (0, 0)).1, c)

/-! ### Blocks of a plane (R109) -/

/-- The full blocks that the plane holds, as (bucket, q), numbered j in this order; those of home and of mirror shares are numbered together
(R109 does not say; DESIGN CHOICE, notes/assumptions 88). -/
def PJob.blockList (pj : PJob) : List (Nat × Nat) :=
  (pj.shares.filter Share.kept).flatMap fun h => (List.range h.kblocks.length).map fun q => (h.bucket, q)

def Share.updBlock (h : Share) (q : Nat) (f : KBlock → KBlock) : Share :=
  { h with kblocks := h.kblocks.zipIdx.map fun (x, i) => if i = q then f x else x }

/-- The refreshes of a step (R114), ascending j, left before right, as (j, side); a mirror refreshes nothing (R260). -/
def PJob.refreshes (pj : PJob) : List (Nat × Nat) :=
  let kk := pj.prec.refresh
  (pj.blockList.zipIdx.filter fun (x, i) =>
    i % kk == pj.orec.updates % kk && ((pj.findShare x.1).map fun h => h.role == .home).getD false).flatMap
    fun (_, i) => [(i, 0), (i, 1)]

/-- Stages a root (R115). -/
def KBlock.stage (q : KBlock) (side : Nat) (r : List W32) : KBlock :=
  if side = 0 then { q with stageL := some r } else { q with stageR := some r }

/-- The statistics of a side as they stood when the step began (R114): once the path of a committed step has flipped the map, the side of
that step is in the spare buffer. -/
def PJob.statOf (pj : PJob) (q : KBlock) (side : Nat) : List W32 :=
  if pj.fs == .drain && (pj.outcome == 1 || pj.outcome == 2) && (pj.orec.updates + 1) % 2 == side then q.buf q.spare else q.stat side

/-- The coupled iterations of R115 from word `base` on: H, T, Y and Z of each, every product and, under FULL, every vector step an item of its
own (R122, R237). -/
def Checked.newton (k : PlaneIx) (redund : Nat) (e : ErrInfo) (b : Nat) (fs : List WordFault) :
    Nat → Nat → List W32 → List W32 → Checked → List W32 × Checked
  | 0, _, _, z, c => (z, c)
  | n + 1, base, y, z, c =>
    let (h, c) := c.mat k redund e b fs base (matMul b z y)
    let (t, c) := c.vec k (redund / 2 * 2) e (b * b) fs (base + b * b) (newtonT b h)
    let (y', c) := c.mat k redund e b fs (base + 2 * (b * b)) (matMul b y t)
    let (z', c) := c.mat k redund e b fs (base + 3 * (b * b)) (matMul b t z)
    Checked.newton k redund e b fs n (base + 4 * (b * b)) y' z' c

/-- The root of one side from its statistics (R115), checked (R122): the words of S + DAMP, of the norm, of its two factors, of the scaled
S, of the iterations and of the root, numbered in this order. -/
def Checked.root (c : Checked) (k : PlaneIx) (redund : Nat) (e : ErrInfo) (p : PrecBlock) (stat : List W32) (fs : List WordFault) :
    List W32 × Checked :=
  let b := blockEdge p
  let n := b * b
  let full := redund / 2 * 2
  let (sd, c) := c.vec k full e n fs 0 (dampStat p stat)
  let (sq, c) := c.squares k full e fs n sd
  let fn := frSqrt (frOf sq)
  let (ks, c) := c.vec k full e 512 fs (n + 513) [frDiv (frOf fone) fn, frDiv (frOf fone) (frSqrt fn)]
  let (y, c) := c.vec k full e n fs (n + 515) (sd.map fun w => frMul (frOf w) (frOf (ks.getD 0 0)))
  let (z, c) := Checked.newton k redund e b fs p.nsiter (2 * n + 515) y (identity b) { c with fv := c.fv ||| inFlagsAll stat }
  c.vec k full e n fs (2 * n + 515 + 4 * n * p.nsiter) (rootScale z (ks.getD 1 0))

/-- Computes a refresh of block `blk`, side `side`, from statistics (R115), and stages its root; an unresolved disagreement drops it (R122) and
poisons nothing. -/
def State.refreshFrom (s : State) (k : PlaneIx) (j : Job) (blk side : Nat) (flt : ItemFault) (stat : KBlock → List W32) : State :=
  match s.pjob k j.id with
  | none => s
  | some pj =>
    match pj.blockList[blk]?.bind fun x => (pj.findShare x.1).bind fun h => h.kblocks[x.2]?.map fun q => (x, q) with
    | none => s
    | some ((b, qi), q) =>
      let e : ErrInfo := { block := 7, cls := 0, job := j.id, op := 4, opk := 7, bucket := b, kernel := 4, poisons := false }
      let (r, c) := ({ s := s } : Checked).root k j.hdr.redund e pj.prec (stat q) flt.words
      let s := (c.s.arith k j.id uVec c.fv).arith k j.id uMat c.fm
      if c.bad then s.jobCtr k j.id .rootRej else s.updShare k j.id b fun h => h.updBlock qi fun q => q.stage side r

/-- A refresh that the step schedules, from the statistics at its start (R114). -/
def State.refreshRoot (s : State) (k : PlaneIx) (j : Job) (blk side : Nat) (flt : ItemFault) : State :=
  match s.pjob k j.id with
  | none => s
  | some pj => s.refreshFrom k j blk side flt fun q => pj.statOf q side

/-- The refreshes that a logged step schedules on the full blocks the plane keeps, of one bucket or of all (R114, R274). -/
def PJob.replayRefreshes (pj : PJob) (x : StepHdr) (b : Option Nat) : List (Nat × Nat) :=
  (pj.blockList.zipIdx.filter fun y => b.all (· == y.1.1) && y.2 % x.prec.refresh == x.updates % x.prec.refresh).flatMap
    fun y => [(y.2, 0), (y.2, 1)]

/-- The refreshes of a logged step run from the statistics that stand (R268, R274). -/
def State.replayRoots (s : State) (k : PlaneIx) (j : Job) (x : StepHdr) (b : Option Nat) : State :=
  match s.pjob k j.id with
  | none => s
  | some old =>
    let s := s.updPJob k j.id fun pj => { pj with prec := x.prec }
    let s := s.each (old.replayRefreshes x b) fun s r => s.refreshFrom k j r.1 r.2 {} fun q => q.stat r.2
    s.updPJob k j.id fun pj => { pj with prec := old.prec }

/-- Installs or rejects a block's staged roots at the end of a drain (R116): the block, roots installed, roots rejected. -/
def KBlock.install (q : KBlock) : KBlock × Nat × Nat :=
  let one (cur : List W32) (st : Option (List W32)) : List W32 × Nat × Nat :=
    match st with
    | none => (cur, 0, 0)
    | some r => if rootOk r then (r, 1, 0) else (cur, 0, 1)
  let l := one q.ql q.stageL
  let r := one q.qr q.stageR
  ({ q with ql := l.1, qr := r.1, stageL := none, stageR := none }, l.2.1 + r.2.1, l.2.2 + r.2.2)

/-- The staged roots of a share's blocks are installed or rejected, and counted (R116, R123). -/
def State.installShare (s : State) (k : PlaneIx) (id b : Nat) : State :=
  match (s.pjob k id).bind (·.findShare b) with
  | none => s
  | some h =>
    let rs := h.kblocks.map KBlock.install
    let s := s.updShare k id b fun h => { h with kblocks := rs.map (·.1) }
    (s.jobCtr k id .rootRef (rs.map (·.2.1)).sum).jobCtr k id .rootRej (rs.map (·.2.2)).sum

/-! ### Arrays for mirrors (R261) -/

/-- Content codes of R261. -/
def ccP : Nat := 0x10
def ccSN : Nat := 0x11
def ccQL : Nat := 0x12
def ccQR : Nat := 0x13
def ccL : Nat := 0x14
def ccR : Nat := 0x15
def ccLog : Nat := 0x20

/-- An array sent to plane k of a device as `CKPT` frames of at most 8,192 bytes (R261). -/
def State.sendArray (s : State) (k : PlaneIx) (j : Job) (dev bucket code chunk gen : Nat) (ws : List W32) : State :=
  s.each (chunksOf 2048 ws).zipIdx fun s (c, i) =>
    s.toDevice k j dev { hdr := { op := opCkpt, bucket := bucket, comma := code, chunk := chunk, elemoff := 2048 * i, gen := gen }
                         payload := packFp32 c } bucket

/-- The mirror devices of a bucket that this home plane serves. -/
def State.mirrorsOf (s : State) (j : Job) (b : Nat) : List Nat :=
  if s.homeDev j b = s.bidx then maskList 8 (j.mirrorMask b) else []

/-- P and SN of every full block go to each mirror (R261). -/
def State.sendPSN (s : State) (k : PlaneIx) (j : Job) (b gen : Nat) (arr : List (List W32 × List W32)) : State :=
  s.each (s.mirrorsOf j b) fun s d => s.each arr.zipIdx fun s (x, q) =>
    (s.sendArray k j d b ccP q gen x.1).sendArray k j d b ccSN q gen x.2

/-- Element `i` of an array received for a generation; the latest frame stands. -/
def recvAt (l : List ArrIn) (code gen i : Nat) : Option W32 :=
  (l.reverse.find? fun x => x.code == code && x.gen == gen && x.off ≤ i && i < x.off + x.vals.length).bind fun x => x.vals[i - x.off]?

/-- Every element of an array of `n` words has been received for a generation. -/
def recvWhole (l : List ArrIn) (code gen n : Nat) : Bool := (List.range n).all fun i => (recvAt l code gen i).isSome

/-- An array received for a generation. -/
def recvArr (l : List ArrIn) (code gen n : Nat) : List W32 := (List.range n).map fun i => (recvAt l code gen i).getD 0

/-- Every block of a mirror share has received its P and SN for a generation (R261). -/
def Share.arraysIn (h : Share) (b gen : Nat) : Bool :=
  h.kblocks.all fun q => recvWhole q.recv ccP gen (b * b) && recvWhole q.recv ccSN gen (b * b)

/-! ### The run of a kernel on a share -/

/-- The user kernel image of a job. -/
def Job.kimg (j : Job) : List Byte :=
  (List.range j.hdr.kimglen).map fun i => (j.tabKimg.lookup i).getD 0

/-- What the full blocks of a run give: results in element order, the (P, SN) arrays, overflow (R113), unresolved, the state. -/
structure KronRun where
  outs : List ElemOut := []
  arr  : List (List W32 × List W32) := []
  ovf  : Bool := false
  bad  : Bool := false
  s    : State
deriving DecidableEq, Repr

/-- The full blocks of a share (R112), block by block.  `own`: the plane computes the products itself; otherwise it takes the P
and SN that the home plane sent for generation `gen` (R261). -/
def State.kronBlocks (s : State) (k : PlaneIx) (j : Job) (pj : PJob) (h : Share) (kc : KConst) (redund : Nat) (e : ErrInfo)
    (own : Bool) (gen : Nat) (vals : List W32) (fs : List WordFault) : KronRun :=
  let b := blockEdge pj.prec
  let side := pj.orec.updates % 2
  let es := elemsOf vals (h.ind.getD 0 []) (h.ind.getD 1 []) (h.ind.getD 2 [])
  (h.kblocks.zipIdx).foldl (fun (r : KronRun) (q, i) =>
    let xs := ((es.drop (i * (b * b))).take (b * b)).map (kronElem kc)
    if own then
      let pi := kronPI b side (xs.map (·.g.1))
      let p := kronP b side q (xs.map (·.mh.1))
      let base := 3 * vals.length + 2 * i * (b * b)
      let ep := { e with opk := 6 }
      let (piW, bad1, s) := r.s.checkTiles k redund ep b (frWords pi) (shiftFaults fs base (b * b))
      let (pW, bad2, s) := s.checkTiles k redund ep b (frWords p) (shiftFaults fs (base + b * b) (b * b))
      let sn := kronSN pj.prec side q piW
      let s := (s.arith k j.id uMat (frFlags pi ||| frFlags p)).arith k j.id uVec (frFlags sn)
      let snAt := 3 * vals.length + 2 * h.kblocks.length * (b * b) + i * (b * b)
      let (snW, bad3, s) := s.checkVector k redund e (b * b) (frWords sn) (shiftFaults fs snAt (b * b))
      { outs := r.outs ++ kronApply kc xs pW, arr := r.arr ++ [(pW, snW)],
        ovf := r.ovf || anyNonFinite piW || anyNonFinite snW || anyNonFinite pW, bad := r.bad || bad1 || bad2 || bad3, s := s }
    else
      let pW := recvArr q.recv ccP gen (b * b)
      let sn := recvArr q.recv ccSN gen (b * b)
      { r with outs := r.outs ++ kronApply kc xs pW, arr := r.arr ++ [(pW, sn)] }) { s := s }

/-- A block after a run: SN in the spare buffer; a mirror's arrays of the generation used up. -/
def KBlock.ran (q : KBlock) (own : Bool) (gen : Nat) (sn : List W32) : KBlock :=
  let q := q.setBuf q.spare sn
  if own then q else { q with recv := q.recv.filter fun x => !(x.gen == gen && (x.code == ccP || x.code == ccSN)) }

/-- The outcome of a run: whether a word stayed unresolved, whether a user kernel faulted, whether R113 saw an overflow, the P and SN
arrays, the state. -/
structure RunOut where
  bad   : Bool
  fault : Bool := false
  ovf   : Bool
  arr   : List (List W32 × List W32)
  s     : State
deriving DecidableEq, Repr

/-- The kernel over a share from reduced values, into the subjunctive copy (R85, R93, R112), checked as R237 gives, with the image
of R45 and the digest of R263.  A word that stays unresolved poisons the bucket; in the rescaling pass (`opk` 5) it does not, and with
`again` it retires the plane (R243). -/
def State.runKernel (s : State) (k : PlaneIx) (j : Job) (b : Nat) (c : W32) (redund opk : Nat) (own : Bool) (gen : Nat)
    (vals : List W32) (fs : List WordFault) (again : Bool := false) : RunOut :=
  match s.pjob k j.id, (s.pjob k j.id).bind (·.findShare b) with
  | some pj, some h =>
    let kc := (stepConsts pj.opt pj.orec.pow1 pj.orec.pow2 pj.u c).1
    let e : ErrInfo := { block := 6, cls := 0, job := j.id, op := pj.opt.kernel, opk := opk, bucket := b, kernel := pj.opt.kernel,
                          poisons := opk != 5, retires := again }
    let edge := blockEdge pj.prec
    let n := wordsOf pj.opt
    let full := if pj.opt.kernel = 4 then h.kblocks.length * (edge * edge) else 0
    let kr := s.kronBlocks k j pj h kc redund e own gen vals fs
    let tail := kVector j.kimg kc (vals.drop full) (h.ind.map (·.drop full))
    let blk := koutOf n kr.outs
    let s := kr.s
    let arrays := (List.range n).map fun i => (if full = 0 then [] else blk.arrays.getD i []) ++ tail.arrays.getD i []
    let s := s.arith k j.id uVec (blk.flags ||| tail.flags)
    let (ws, bad, s) := s.checkVector k redund e vals.length arrays.flatten (fs.filter (·.word < n * vals.length))
    let arrays := (List.range n).map fun i => (ws.drop (i * vals.length)).take vals.length
    let s := match tail.fault with
      | some i => s.error k { e with cls := 10, disp := dPoison, index := i % 512, chunk := i / blockWords, redund := j.hdr.redund }
      | none => s
    let im := if pj.opt.stochrnd then srImages s.fresh (arrays.getD 0 []) else []
    let s := { s with fresh := s.fresh + im.length }
    let s := s.arith k j.id uCvt (im.foldl (fun f x => f ||| x.2) 0)
    let s := s.updShare k j.id b fun h =>
      let h : Share := { h with kblocks := h.kblocks.zipIdx.map fun x => KBlock.ran x.1 own gen (kr.arr.getD x.2 ([], [])).2 }
      { h.setSub arrays (im.map (·.1)) with kernelRan := true }
    let s := if pj.opt.kernel = 4 && h.role == .home then s.jobCtr k j.id .precBlk h.kblocks.length else s
    { bad := bad || kr.bad, fault := tail.fault.isSome, ovf := kr.ovf, arr := kr.arr, s := s }
  | _, _ => { bad := false, ovf := false, arr := [], s := s }

end Sys2Proof.Machine
end

