-- ==== Sys2Proof/Machine/Ingress.lean ====
section
/-! DEFINITION. The ingress parser (R170 to R178, R218), the frame buffer (R181), held frames (R17), the sender of a frame (R183,
R185), relays (R185, R186, R189) and cut-through stomping (R190, R191). -/
namespace Sys2Proof.Machine

/-! ### The parser (R173, R178) -/

/-- Frame types a member may send (R173). -/
def memberOps : List Nat := [opGrad, opLoad, opGreq, opAck, opRdreq, opSync, opDesc, opSread, opDigest]

/-- Frame types of a peer lane (R173). -/
def peerOps : List Nat :=
  [opPartial, opDone, opStatus, opLoad, opGreq, opParm, opRslt, opAck, opRdreq, opNotice, opRetract, opCkpt, opDigest, opNorm, opJdig]

/-- The fixed payload size of a type; `none` where it varies (R173). -/
def fixedLen (op : Nat) : Option Nat :=
  if [opDone, opAck, opRdreq, opSread].contains op then some 0
  else if [opStatus, opGreq, opNotice, opRetract, opSync, opDesc, opDigest, opNorm, opJdig].contains op then some 64
  else none

/-- Types that carry elements (R178 row 5). -/
def elemOps : List Nat := [opGrad, opPartial, opLoad, opParm, opRslt, opCkpt]

/-- Row 5 of R178: whether a header is well formed on a lane; `far` is the far device of a peer lane. -/
def headerOk (peer : Bool) (far : Nat) (b : List Byte) : Bool :=
  let h := parseHeader b
  (if peer then peerOps else memberOps).contains h.op && (fixedLen h.op).all (· == h.len) &&
  (!elemOps.contains h.op || (fmtBits h.fmt).isSome) && h.job != 0 && hdrRsvdZero b && !h.rw &&
  (if peer then h.srcdev == far else h.mask == 0 && h.memb == 0 && !h.uni && h.srcdev == 0)

/-- What the parser makes of a frame before it looks for room: the counter of the first failing check, or the frame (R178 rows 1
to 5). -/
def parseFrame (peer : Bool) (far : Nat) (f : RxFrame) : Except LCtr Frame :=
  let n := f.bytes.length
  if n < 36 || !f.endSeen || 8228 < n then .error .frmSize
  else
    let body := f.bytes.take (n - 4)
    let crc := crcBytes body
    let trailer := f.bytes.drop (n - 4)
    if trailer != crc then .error (if trailer == crc.map (~~~ ·) then .frmStomp else .frmCrc)
    else if !f.parityOk || f.fec.unc != 0 then .error .frmPar
    else
      let h := parseHeader (f.bytes.take 32)
      if 8192 < h.len || h.len % 64 != 0 || h.len + 36 != n then .error .frmMal
      else if headerOk peer far (f.bytes.take 32) then .ok { hdr := h, payload := body.drop 32 }
      else .error .frmMal

/-! ### The frame buffer (R181) -/

/-- Cells of a frame. -/
def cellsOf (f : Frame) : Nat := ((pad64 f.payload).length + 36 + 255) / 256

/-- Contributions held on a plane with their jobs. -/
def Plane.contribs (p : Plane) : List (Nat × Contrib) :=
  p.jobs.flatMap fun j => j.shares.flatMap fun h => h.contribs.map fun c => (j.id, c)

/-- What a plane keeps of stored frames, as job, cells and whether in the overflow region (R181): held frames, frames that wait for credits,
contributions, device partials, notice copies, and frames passed on that have not left. -/
def Plane.stored (p : Plane) : List (Nat × Nat × Bool) :=
  p.held.map (fun h => (h.frame.hdr.job, h.cells, h.ovf)) ++ p.parked.map (fun x => (x.frame.hdr.job, x.cells, x.ovf)) ++
  p.contribs.map (fun c => (c.1, c.2.cells, c.2.ovf)) ++
  (p.jobs.flatMap fun j => j.shares.flatMap fun h => h.partials.map fun x => (j.id, x.cells, x.ovf)) ++
  p.notices.map (fun n => (n.job, n.cells, n.ovf)) ++ p.unsent.map (fun d => (d.job, d.cells, d.ovf))

/-- Frame cells in use: those of stored frames, leaked cells, and cells out of allocation.  A cell retired for a failing read holds no frame:
that read's frame is discarded with it (R177). -/
def Plane.usedCells (p : Plane) : Nat :=
  ((p.stored.filter (!·.2.2)).map (·.2.1)).sum + (p.leaked.filter (·.1 < 65536)).length + (p.retCells.filter (· < 65536)).length

/-- Whether a frame's overflow entries come from the serving partition's region; a job not open on the plane counts as lendable. -/
def State.ovfServing (s : State) (k : PlaneIx) (job : Nat) : Bool :=
  match s.findJob job, s.pjob k job with
  | some j, some _ => j.hdr.serving
  | _, _ => false

/-- Overflow entries of a partition in use on a plane, or out of allocation (R253): a retired one counts against the lendable partition
(DESIGN CHOICE, notes/assumptions 51). -/
def State.usedOvf (s : State) (k : PlaneIx) (serving : Bool) : Nat :=
  let p := s.plane k
  (p.stored.filter fun x => x.2.2 && x.2.1 != 0 && s.ovfServing k x.1 == serving).length +
  (p.leaked.filter fun c => 65536 ≤ c.1 && s.ovfServing k c.2 == serving).length +
  (if serving then 0 else (p.retCells.filter (2 ^ 31 ≤ ·)).length)

/-- Overflow entries of 8,448 bytes in a partition's region. -/
def State.ovfEntries (s : State) (serving : Bool) : Nat :=
  (if serving then s.part.serve.ovfmib else s.part.lend.ovfmib) * 1048576 / 8448

/-- Where a frame finds room: in the cells (`false`), in its partition's overflow region (`true`), or nowhere. -/
def State.room (s : State) (k : PlaneIx) (f : Frame) : Option Bool :=
  if (s.plane k).usedCells + cellsOf f ≤ 65536 then some false
  else
    let serving := s.ovfServing k f.hdr.job
    if s.usedOvf k serving < s.ovfEntries serving then some true else none

/-- A received frame with what it takes of the frame buffer (R181). -/
def State.parkedOf (s : State) (lane : DevLane) (f : Frame) (later : StoredFault) (work : ItemFault) : Parked :=
  { lane := lane, frame := f, cells := cellsOf f, ovf := (s.room (planeOf lane) f).getD true, later := later, work := work }

/-- What a frame passed on from the frame buffer keeps of it. -/
def Parked.keep (x : Parked) : Keep := { cells := x.cells, ovf := x.ovf, later := x.later }

/-- Holds a frame (R17; R125 row 7): `serve` marks a gather request, `who` the member that sent it. -/
def State.holdFrame (s : State) (lane : DevLane) (f : Frame) (serve : Bool) (who : Option Nat) (later : StoredFault := .none)
    (relayed : Bool := false) : State :=
  let k := planeOf lane
  let o := (s.room k f).getD true
  s.updPlane k fun p => { p with
    held := p.held ++ [{ lane := lane, frame := f, cells := cellsOf f, ovf := o, serve := serve, relayed := relayed, from' := who,
                         later := later }] }

/-! ### Receiving -/

/-- The lane layer's counters of a received frame (R215, R217, R218, R234). -/
def State.fecCount (s : State) (lane : DevLane) (x : FecInfo) : State :=
  s.updLane lane fun l =>
    let c := ctrAdd (ctrAdd (ctrAdd l.ctrs .fecCor x.cor) .fecSym x.sym) .fecUnc (x.unc + x.gap)
    { l with ctrs := ctrAdd (ctrAdd c .idleDel x.idle) .blkErr x.blk }

/-- Cut-through on an output lane for a class (R190, R192, R210): the setting stands, nothing waits, and the shaper and, for a lent frame, the
gate allow a frame of the header's `LEN` now. -/
def State.cutsThrough (s : State) (d : DevLane) (cls : Nat) (f : Frame) : Bool :=
  let l := s.lane d
  l.st == .up && l.cutClasses.contains cls && !s.fwdOverridden d && l.egress.isEmpty && l.egWait.isEmpty &&
  f.hdr.len + 36 + l.shovh ≤ l.ts && (0x80 ≤ cls || s.gateAllows d f.hdr.len)

/-- A copy ended with the complement of the CRC of the bytes sent: its header as it was sent, with the `LEN` received, and the payload
bytes that came (R191); at its start the shaper has taken the wire bytes of that `LEN` (R205). -/
def State.stomp (s : State) (d : DevLane) (f : Frame) : State :=
  let peer := s.isPeer d
  let h := { f.hdr.sent with rw := f.hdr.rw && !peer }
  let b := hdrLow h h.len ++ (if peer then hdrTransit h else hdrDelivery h) ++ f.payload
  let now := (s.plane (planeOf d)).cnt
  let s := s.updLane d fun l => { l with ts := l.ts - (f.hdr.len + 36 + l.shovh), sendEnd := now + laneTime f.payload.length }
  { s with out := { s.out with fibre := s.out.fibre ++ [(d.val, b ++ (crcBytes b).map (~~~ ·))] } }

/-- The copies that relay a frame by cut-through (R189): on the member lanes for a frame from a peer lane, on the lane pinned toward the
home device for a member's.  A `GREQ` names its buckets in its payload, so its header alone pins no lane. -/
def State.relayLegs (s : State) (lane : DevLane) (f : Frame) : List (DevLane × Frame) :=
  let k := planeOf lane
  match s.findJob f.hdr.job, s.pjob k f.hdr.job with
  | some j, some pj =>
    let legs : List (DevLane × Frame) :=
      if s.isPeer lane then
        if [opDone, opParm, opRslt].contains f.hdr.op || (f.hdr.uni && [opStatus, opCkpt, opNotice, opRetract].contains f.hdr.op) then
          let live := s.localLive j pj
          let ms := if f.hdr.uni then (pj.group[f.hdr.memb]?).toList.filter live.contains else live
          ms.map fun m => (devLane k (j.memberLane k m), deliver j pj m f)
        else []
      else match s.laneMember j k (laneIn lane) with
        | none => []
        | some m =>
          let home := s.homeDev j f.hdr.bucket
          if !([opLoad, opAck, opRdreq].contains f.hdr.op) || home == s.bidx || pj.fenced.contains m then []
          else match j.pinned k home f.hdr.bucket f.hdr.op with
            | none => []
            | some l =>
              if s.deadPeer k j.id l then []
              else [(devLane k l, { f with hdr := { f.hdr with memb := (pj.groupNo m).getD 0, srcdev := s.bidx, cls := j.cls } })]
    if pj.fs == .fenced || pj.fs == .reclaimed then [] else legs.filter fun x => s.cutsThrough x.1 j.cls x.2
  | _, _ => []

/-- A frame that fails its size, CRC, parity or length check after a relay has begun to send it, its header having passed checks 4 and 5,
is stomped on its way out (R190, R191). -/
def State.stompRelay (s : State) (lane : DevLane) (f : RxFrame) : State :=
  let h := parseHeader (f.bytes.take 32)
  if 32 ≤ f.bytes.length && h.len ≤ 8192 && h.len % 64 == 0 && headerOk (s.isPeer lane) (s.farDev lane) (f.bytes.take 32) then
    let fr : Frame := { hdr := h, payload := ((f.bytes.take (f.bytes.length - 4)).drop 32).take h.len }
    s.each (s.relayLegs lane fr) fun s x => s.stomp x.1 x.2
  else s

/-- A frame that the parser discards (R178, R179); a parity failure that did not arise on the fibre is an error (R235). -/
def State.discard (s : State) (lane : DevLane) (f : RxFrame) (c : LCtr) : State :=
  let k := planeOf lane
  let s := ((s.laneCtr lane c).frmDrop k).stompRelay lane f
  if c == .frmPar && f.fec.unc == 0 then
    s.error k { block := 1, cls := 1, index := (laneIn lane).val, bits := f.work.mask, word := BitVec.ofNat 32 f.work.index }
  else s

/-- The stages behind the parser and the policer have no credit left for a frame: an Admit, Gather or Publish entry waits before its queue
(R19). -/
def Plane.frontStalled (p : Plane) : Bool := p.qAdmit.stalled 512 || p.qGather.stalled 256 || p.qPublish.stalled 64

/-- A frame waits behind the policer (R19, R20): the first is the policer's current entry, the others enter the Parse queue or wait for it. -/
def Plane.park (p : Plane) (x : Parked) : Plane :=
  { p with
    parked := p.parked ++ [x]
    qParse := if p.parked.isEmpty then p.qParse
      else p.qParse.push 512 { job := x.frame.hdr.job, bucket := x.frame.hdr.bucket, chunk := x.frame.hdr.chunk } }

/-- A received frame of one of the types `ops`: the lane's state, the parser, room, the Parse queue, the policer, and then `act` (R19, R20,
R178, R199, R218, R276).  A frame of another type is another row's event; a disabled lane's receiver is ignored (R224). -/
def State.receive (s : State) (lane : DevLane) (rx : RxFrame) (ops : List Nat) (act : Parked → State → State) : State :=
  let k := planeOf lane
  let f := settled rx
  let s' := s.fecCount lane f.fec
  if (s.lane lane).st == .disabled then s
  else if (s.lane lane).st != .up then s'.laneCtr lane .blkErr
  else if (s.plane k).ps != .inService then s'.frmDrop k
  else match parseFrame (s.isPeer lane) (s.farDev lane) f with
    | .error c => s'.discard lane f c
    | .ok fr =>
      if !ops.contains fr.hdr.op then s
      else if (s'.room k fr).isNone then (s'.laneCtr lane .ovfDrop).frmDrop k
      else
        let x := s'.parkedOf lane fr f.later f.work
        if (s.plane k).frontStalled || !(s.plane k).parked.isEmpty then s'.updPlane k fun p => p.park x
        else
          let r := s'.police lane fr.hdr.job (fr.hdr.len + 36)
          if r.1 then act x (r.2.workFault k fr.hdr.job f.work) else r.2

/-! ### Senders and relays -/

/-- The member that sent a frame, by member-table number: the one on the lane, or the one a peer lane's `MEMB` names (R185). -/
def State.sender (s : State) (lane : DevLane) (f : Frame) (j : Job) (pj : PJob) : Option Nat :=
  if s.isPeer lane then pj.group[f.hdr.memb]? else s.laneMember j (planeOf lane) (laneIn lane)

/-- The job of a frame, when it is open on the plane. -/
def State.openOn (s : State) (k : PlaneIx) (id : Nat) : Option (Job × PJob) :=
  match s.findJob id, s.pjob k id with
  | some j, some pj => if j.st.isOpen then some (j, pj) else none
  | _, _ => none

/-- The job has ended on the plane: fenced or reclaimed. -/
def jobEnded (j : Job) (pj : PJob) : Bool := j.st == .fenced || j.st == .reclaimed || pj.fs == .fenced || pj.fs == .reclaimed

/-- Rows 1 to 3 that R52, R76, R125, R136, R137, R157 and R175 share: `NOJOB`, `FENCED`, `PARAM`; otherwise the job, its part on the
plane and the sender.  `group`: the sender must be in the group, not only in the member set. -/
def State.admitSender (s : State) (lane : DevLane) (f : Frame) (group : Bool) : Except Status (Job × PJob × Nat) :=
  match s.openOn (planeOf lane) f.hdr.job with
  | none => .error .nojob
  | some (j, pj) =>
    match s.sender lane f j pj with
    | none => .error (if jobEnded j pj then .fenced else .param)
    | some m =>
      if jobEnded j pj || pj.fenced.contains m then .error .fenced
      else if group && !pj.group.contains m then .error .param
      else .ok (j, pj, m)

/-- A relayed frame toward plane k of another device, with the sender's member number (R185, R186). -/
def State.relay (s : State) (k : PlaneIx) (j : Job) (pj : PJob) (m dev : Nat) (f : Frame) (bkt : Nat) (keep : Keep := {}) : State :=
  s.toDevice k j dev { f with hdr := { f.hdr with memb := (pj.groupNo m).getD 0 } } bkt false keep

/-- The chunk of a bucket: its first element and its element count (R49). -/
def BucketDesc.chunkRange (d : BucketDesc) (c : Nat) : Nat × Nat := (c * d.chunk, min d.chunk (d.nelem - c * d.chunk))

/-- The number of chunks of a bucket. -/
def BucketDesc.nchunks (d : BucketDesc) : Nat := (d.nelem + d.chunk - 1) / d.chunk

/-- The plane of a chunk under the stripe map (R10, R146). -/
def Job.chunkPlane (j : Job) (d : BucketDesc) (c : Nat) : Nat := j.hdr.planeOfAddr (d.elembase + c * d.chunk)

/-- The chunks of a bucket that lie on a plane, ascending. -/
def Job.planeChunks (j : Job) (k : PlaneIx) (d : BucketDesc) : List Nat :=
  (List.range d.nchunks).filter fun c => j.chunkPlane d c == k.val

/-- The payload length of `n` elements of a format (R50). -/
def payloadLen (fmt n : Nat) : Nat := ((n * ((fmtBits fmt).getD 32) + 7) / 8 + 63) / 64 * 64

/-- Row 5 of R52 and row 6 of R76: the chunk lies on this plane and the frame carries exactly it. -/
def Job.chunkOk (j : Job) (k : PlaneIx) (d : BucketDesc) (f : Frame) : Bool :=
  let c := f.hdr.chunk
  let r := d.chunkRange c
  c < d.nchunks && f.hdr.elemoff == r.1 && j.chunkPlane d c == k.val && payloadLen f.hdr.fmt r.2 == f.payload.length &&
  d.chunk * ((fmtBits f.hdr.fmt).getD 32) ≤ 65536

/-- The frame of a multicast of a bucket's share that is its last on the plane. -/
def Job.lastPiece (j : Job) (k : PlaneIx) (f : Frame) : Bool :=
  match j.bucketDesc f.hdr.bucket with
  | none => true
  | some d =>
    let r := d.chunkRange f.hdr.chunk
    (j.planeChunks k d).getLast? == some f.hdr.chunk && r.1 + r.2 ≤ f.hdr.elemoff + 8 * f.payload.length / ((fmtBits f.hdr.fmt).getD 32)

/-- The legs that fences have taken from a multicast under way are counted in `ELIDED` as its further frames come, and the plane notes
whether more are to come (R131). -/
def State.noteRelay (s : State) (k : PlaneIx) (j : Job) (pj : PJob) (f : Frame) : State :=
  let key := (f.hdr.op, f.hdr.bucket, f.hdr.gen, f.hdr.comma)
  let last := j.lastPiece k f
  (s.jobCtr k j.id .elided (pj.cutLegs.filter (·.1 == key)).length).updPJob k j.id fun pj => { pj with
    cutLegs := pj.cutLegs.filter fun x => !(last && x.1 == key)
    relaying := (if last then [] else [key]) ++ pj.relaying.filter fun x => !(x.1 == f.hdr.op && x.2.1 == f.hdr.bucket) }

/-- A member has registered a descriptor for a bucket, or takes results without one under staging collectives (R164, R165). -/
def PJob.canTake (j : Job) (pj : PJob) (b m : Nat) : Bool :=
  j.hdr.staging || pj.descs.any fun d => d.member == m && d.bucket == b

/-- A result frame from another device waits for the descriptor of a member here; a copy that waits already stays (R164; in the frame
buffer, DESIGN CHOICE, notes/assumptions 41). -/
def State.holdResult (s : State) (lane : DevLane) (f : Frame) (n m : Nat) (keep : Keep) : State :=
  s.updPlane (planeOf lane) fun p =>
    let f := { f with hdr := { f.hdr with uni := true, memb := n } }
    if p.held.any fun h => h.from' == some m && h.frame == f then p
    else { p with held := p.held ++ [{ lane := lane, frame := f, cells := keep.cells, ovf := keep.ovf, from' := some m, later := keep.later }] }

/-- A frame from a peer lane to the local members, or to member `MEMB` alone with `UNI`, in delivery form (R185). -/
def State.replicate (s : State) (lane : DevLane) (f : Frame) (keep : Keep := {}) : State :=
  let k := planeOf lane
  match s.openOn k f.hdr.job with
  | none => s.frmDrop k
  | some (j, pj) =>
    if f.hdr.uni then
      match pj.group[f.hdr.memb]? with
      | none => s.frmDrop k
      | some m =>
        if j.memberDev m = s.bidx && !pj.fenced.contains m then
          if f.hdr.op == opRslt && !PJob.canTake j pj f.hdr.bucket m then s.holdResult lane f f.hdr.memb m keep
          else s.enqueue k (j.memberLane k m)
            { frame := deliver j pj m f, job := j.id, cls := j.cls, cells := keep.cells, ovf := keep.ovf, later := keep.later }
        else s.frmDrop k
    else
      let s := s.noteRelay k j pj f
      let wait := if f.hdr.op == opRslt then (s.localLive j pj).filter fun m => !PJob.canTake j pj f.hdr.bucket m else []
      let s := s.each wait.zipIdx fun s x =>
        s.holdResult lane f ((pj.groupNo x.1).getD 0) x.1 (if x.2 = 0 then keep else { keep with cells := 0 })
      s.toLocal k j pj (pj.liveMembers.filter fun m => !wait.contains m) f (if wait.isEmpty then keep else { keep with cells := 0 })

/-- A frame refused with a status frame, counted in a job counter where the job is there, and in `FRMDROP` (R179). -/
def State.refuseFrame (s : State) (lane : DevLane) (f : Frame) (st : Status) (c : Option JCtr) (gen : Nat := 0) (layer : Nat := 0) : State :=
  let k := planeOf lane
  let s := (s.status lane f st 0 gen layer).frmDrop k
  match c with
  | some c => s.jobCtr k f.hdr.job c
  | none => s

end Sys2Proof.Machine
end

