-- ==== Sys2Proof/Machine/Pair.lean ====
section
/-! DEFINITION. A plane's scalar pair (R12, R90, R91, R136, R154, R160, R266) and the norm exchange of a board (R13, R188). -/
namespace Sys2Proof.Machine

/-- A share whose bucket is complete on this plane for the step. -/
def Share.doneStep (h : Share) : Bool := h.commaDone

/-- The plane partial (R66): the partial norms of the plane's home shares in ascending bucket number, from +0; mirrored shares are left
out (R260), and a share poisoned before its norm was computed adds +0 (R67). -/
def PJob.partialNorm (pj : PJob) : FR := fsum ((pj.shares.filter (·.role == .home)).map (·.norm))

/-- A `NORM` frame: the pair's job, step, partial and flag word (R188; the layout of its payload is DESIGN CHOICE,
notes/assumptions 40). -/
def normFrame (id step : Nat) (norm : W32) (fl : Flags) : Frame :=
  { hdr := { op := opNorm, job := id }
    payload := leBytes 2 id ++ leBytes 2 fl.bits ++ zeros 4 ++ leBytes 8 step ++ leBytes 4 norm.toNat ++ zeros 44 }

/-- A plane sends its pair: to plane k of every other device, and into its own device-level combine (R12, R188). -/
def State.sendPair (s : State) (k : PlaneIx) (j : Job) (pj : PJob) (norm : W32) (fl : Flags) : State :=
  let step := pj.orec.step
  let s := s.each ((s.jobDevs j).filter (· != s.bidx)) fun s d => s.toDevice k j d (normFrame j.id step norm fl) 0
  let s := s.updPlane k fun p => { p with norms := p.norms ++ [{ job := j.id, step := step, dev := s.bidx, norm := norm, flags := fl }] }
  let s := s.updPJob k j.id fun pj => { pj with
    fs := .await, pairSent := true, drainTaken := pj.drainTaken || fl.drain }
  let s := if fl.abandon then s.updJob j.id fun j => { j with reformStep := some (j.reformStep.getD step) } else s
  s.normCheck k j.id step

/-- The `DRAIN` bit goes into the first pair after the plane has taken the `RECLAIM` (R160). -/
def drainBit (k : PlaneIx) (j : Job) (pj : PJob) : Bool := j.reclaimTaken.contains k.val && !pj.drainTaken

/-- A re-form of the job is pending, and this plane has taken the command and not yet applied it (R154). -/
def abandonBit (j : Job) (pj : PJob) : Bool := pj.reformSeen && j.reform.any fun r => r.1 != pj.groupRec

/-- The kernel of a home share has run, or will not run in this step (R86, R266): its overflow and its poison are in the plane's flags
(R103, R113), which the pair carries, so the pair waits for it (DEDUCED, notes/assumptions 42).  A mirror's kernel is not waited for. -/
def PJob.kernelSettled (pj : PJob) (dev : Nat) (h : Share) : Bool :=
  h.role != .home || pj.opt.kernel == 0 || h.kernelRan || h.poisoned || pj.stepFlags.overflow || pj.stepFlags.poisoned ||
  h.stale dev

/-- The last comma of the step has come on the plane: every bucket is complete on it (R16, R91), and for kernel None every result has been released (R136). -/
def State.pairReady (s : State) (k : PlaneIx) (j : Job) (pj : PJob) : Bool :=
  pj.shares.all (fun h => h.doneStep && pj.kernelSettled s.bidx h) &&
  (pj.opt.kernel != 0 || (s.plane k).retained.all fun r => r.job != j.id)

/-- Sends the plane's pair when it is due: at once with `ABANDON` where a re-form is pending (R154), otherwise after the last comma. -/
def State.checkPair (s : State) (k : PlaneIx) (id : Nat) : State :=
  match s.findJob id, s.pjob k id with
  | some j, some pj =>
    if pj.fs != .run || pj.pairSent then s
    else
      let drain := drainBit k j pj
      if abandonBit j pj then s.sendPair k j pj 0 { abandon := true, drain := drain }
      else if s.pairReady k j pj then
        let pn := pj.partialNorm
        let halted := pj.shares.any fun h => h.role == .home && h.halted
        let s := s.arith k id uVec pn.2
        s.sendPair k j pj pn.1 { pj.stepFlags with poisoned := pj.stepFlags.poisoned || halted, abandon := false, drain := drain }
      else s
  | _, _ => s

/-- A board peer's pair arrives (R188): kept by step, one per device. -/
def State.normIn (s : State) (lane : DevLane) (f : Frame) : State :=
  let k := planeOf lane
  match s.openOn k f.hdr.job with
  | none => s.frmDrop k
  | some (j, pj) =>
    let step := fieldAt f.payload 8 8
    let fl := Flags.ofBits (fieldAt f.payload 2 2)
    let dev := s.farDev lane
    if jobEnded j pj || (s.plane k).norms.any (fun n => n.job == j.id && n.step == step && n.dev == dev) then s.frmDrop k
    else
      let s := s.updPlane k fun p => { p with
        norms := p.norms ++ [{ job := j.id, step := step, dev := dev, norm := wordAt f.payload 16, flags := fl }] }
      s.normCheck k j.id step

/-- The digest of the job description: the first 8 bytes of the SHA3-512 hash of header, member table and tables (R167). -/
def Job.descDigest (j : Job) : List Byte :=
  let tab (t : List (Nat × Byte)) (n : Nat) : List Byte := (List.range n).map fun i => (t.lookup i).getD 0
  (sha3_512 (j.rawHdr ++ j.rawMemb ++ tab j.tabBucket (32 * j.hdr.nbucket) ++ tab j.tabPlace (16 * j.hdr.nplace) ++
    tab j.tabKimg j.hdr.kimglen)).take 8

/-- A `JDIG` frame (R167; the layout of its payload is DESIGN CHOICE, notes/assumptions 40). -/
def jdigFrame (j : Job) : Frame :=
  { hdr := { op := opJdig, job := j.id }, payload := leBytes 2 j.id ++ zeros 6 ++ j.descDigest ++ zeros 48 }

/-- Compares the digests received with this device's, once the job has started here (R167). -/
def State.jdigCheck (s : State) (id : Nat) : State :=
  match s.findJob id with
  | none => s
  | some j => if j.jdigs.any (·.2 != j.descDigest) then s.fenceJob id 6 else s

/-- A peer's digest arrives (R167); one for a job not open here is refused with `NOJOB`. -/
def State.jdigIn (s : State) (lane : DevLane) (f : Frame) : State :=
  let k := planeOf lane
  match s.openOn k f.hdr.job with
  | none => s.refuseFrame lane f .nojob none
  | some (j, _) =>
    let s := s.updJob j.id fun j => { j with jdigs := (k.val * 8 + s.farDev lane, slice f.payload 8 8) :: j.jdigs }
    if j.st.isActive then s.jdigCheck j.id else s

end Sys2Proof.Machine
end

