-- ==== Sys2Proof/Machine/Gather.lean ====
section
/-! DEFINITION. Gathers, the stash and prefetch (R124 to R134), early publication (R99), result retention and re-delivery (R135 to
R138, R165), and descriptors (R164, R175). -/
namespace Sys2Proof.Machine

/-! ### Published bits -/

/-- The published format of a bucket: E8M7 with `OUTE8M7`, FP32 otherwise (R48, R126). -/
def BucketDesc.outFmt (d : BucketDesc) : Nat := if d.bflags.testBit 0 then 1 else 0

/-- Bytes per published element. -/
def BucketDesc.outBytes (d : BucketDesc) : Nat := if d.outFmt = 1 then 2 else 4

/-- Published bits of master words, and the flags of the conversion (R37, R45, R126): an E8M7 code lies in the low half of its word. -/
def publish (fmt : Nat) (stoch : Bool) (master : List W32) (img : List W16) : List W32 × W32 :=
  if fmt = 0 then (master, 0)
  else if stoch then (img.map fun c => BitVec.ofNat 32 c.toNat, 0)
  else
    let r := master.map e8m7Rne
    (r.map fun c => BitVec.ofNat 32 c.1.toNat, r.foldl (fun f x => f ||| x.2) 0)

/-- The payload of published bits. -/
def packBits (fmt : Nat) (bits : List W32) : List Byte :=
  if fmt = 1 then bits.flatMap fun w => leBytes 2 w.toNat else packFp32 bits

/-- The frames of a share's bits, chunk by chunk in ascending order; an FP32 chunk of more than 2,048 elements goes out as two (R126).
`cs` picks the chunks; `off` gives where a chunk's bits start within the share. -/
def shareFrames (j : Job) (k : PlaneIx) (d : BucketDesc) (h : Hdr) (bits : List W32) (cs : Nat → Bool) : List Frame :=
  let chunks := j.planeChunks k d
  (chunks.foldl (fun (acc : List Frame × List W32) c =>
    let r := d.chunkRange c
    let mine := acc.2.take r.2
    let pieces := if cs c then (chunksOf (if d.outFmt = 0 then 2048 else 4096) mine).zipIdx.map fun (x, i) =>
        ({ hdr := { h with fmt := d.outFmt, bucket := d.bucket, chunk := c, elemoff := r.1 + 2048 * i }, payload := packBits d.outFmt x } : Frame)
      else []
    (acc.1 ++ pieces, acc.2.drop r.2)) ([], bits)).1

/-! ### Prefetch (R132) -/

/-- Retired 256-byte units among the prefetch area and the result-retention buffer that hold nothing any more (R246, R253). -/
def Plane.unitsOut (p : Plane) (from' n : Nat) : Nat :=
  (p.retCells.filter fun i => 2 ^ 30 + from' ≤ i && i < 2 ^ 30 + from' + n && !p.stillHolds 2 i).length

/-- The bytes of the prefetch area, and what one job may hold of it. -/
def Plane.prefArea (p : Plane) : Nat := 8388608 - 256 * p.unitsOut 0 32768
def prefJob : Nat := 4194304

/-- Published bytes of a layer's home shares on a plane. -/
def Job.layerBytes (j : Job) (pj : PJob) (layer : Nat) : Nat :=
  ((pj.shares.filter fun h => h.role == .home).map fun h =>
    match j.bucketDesc h.bucket with
    | some d => if d.layer = layer then h.elems.length * d.outBytes else 0
    | none => 0).sum

/-- The layers of the job with home shares on the plane. -/
def Job.layersHere (j : Job) (pj : PJob) : List Nat :=
  (pj.shares.filter fun h => h.role == .home).filterMap fun h => (j.bucketDesc h.bucket).map (·.layer)

/-- Frees prefetched layers, oldest first, until `need` more bytes fit under the job's and the area's limits: the list that stays and
the jobs whose entries were freed.  A job at its own 4 MiB frees its own oldest entry, of which R132 says nothing (DESIGN CHOICE,
notes/assumptions 89). -/
def prefRoom (area job need : Nat) : Nat → List Prefetch → List Nat → List Prefetch × List Nat
  | 0, l, dropped => (l, dropped)
  | n + 1, l, dropped =>
    let mine := l.filter (·.job == job)
    if prefJob < (mine.map (·.bytes)).sum + need then
      match mine with
      | e :: _ => prefRoom area job need n (l.erase e) (dropped ++ [e.job])
      | [] => (l, dropped)
    else if area < (l.map (·.bytes)).sum + need then
      match l with
      | e :: es => prefRoom area job need n es (dropped ++ [e.job])
      | [] => (l, dropped)
    else (l, dropped)

/-- Prefetches a layer of the indicative generation (R132).  The prefetch is whole at once, so that the next gather of the layer hits it; its
reads take time, in which R134's example serves a regather from the master (DESIGN CHOICE, notes/assumptions 89).  A freed entry, a layer
share in the words of R132, counts once in `PREFDROP`. -/
def State.prefetchLayer (s : State) (k : PlaneIx) (j : Job) (pj : PJob) (layer : Nat) : State :=
  let p := s.plane k
  if p.prefetch.any fun e => e.job == j.id && e.layer == layer && e.gen == pj.orec.gen then s
  else
    let need := min (j.layerBytes pj layer) prefJob
    if need = 0 then s
    else
      let r := prefRoom p.prefArea j.id need p.prefetch.length p.prefetch []
      let s := s.updPlane k fun p => { p with
        prefetch := r.1 ++ [{ job := j.id, layer := layer, gen := pj.orec.gen, bytes := need }] }
      s.each r.2 fun s id => s.jobCtr k id .prefDrop

/-- The next layer above, or below for a regather (R132). -/
def nextLayer (ls : List Nat) (layer : Nat) (regather : Bool) : Option Nat :=
  if regather then (ls.filter (· < layer)).max? else (ls.filter (layer < ·)).min?

/-! ### The stash (R133, R134) -/

/-- Slots in use in a stash half. -/
def stashSlots (l : List StashEnt) : Nat := (l.map (·.slots)).sum

/-- Releases the oldest entries until `need` slots fit: what stays and how many were released. -/
def stashRoom (quota need : Nat) : List StashEnt → Nat → List StashEnt × Nat
  | [], n => ([], n)
  | e :: es, n => if stashSlots (e :: es) + need ≤ quota then (e :: es, n) else stashRoom quota need es (n + 1)

/-- Stores a served share in the current half (R133, R134). -/
def State.stashStore (s : State) (k : PlaneIx) (j : Job) (e : StashEnt) : State :=
  match s.pjob k j.id with
  | none => s
  | some pj =>
    if pj.stashCur.any (fun x => x.bucket == e.bucket && x.gen == e.gen) || j.hdr.stashq < e.slots then s
    else
      let r := stashRoom j.hdr.stashq e.slots pj.stashCur 0
      (s.updPJob k j.id fun pj => { pj with stashCur := r.1 ++ [e] }).jobCtr k j.id .stashRel r.2

/-- A stashed share of a generation in a half. -/
def stashFind (l : List StashEnt) (b gen : Nat) : Option StashEnt := l.find? fun e => e.bucket == b && e.gen == gen

/-! ### Serving a request (R126, R127) -/

/-- The buckets of a layer with their shares of the home copy here, in ascending bucket number; `part` restricts to one bucket. -/
def Job.layerShares (j : Job) (pj : PJob) (layer : Nat) (part : Option Nat) : List (BucketDesc × Share) :=
  (pj.shares.filter fun h => h.role == .home && part.all (· == h.bucket)).filterMap fun h =>
    (j.bucketDesc h.bucket).bind fun d => if d.layer = layer then some (d, h) else none

/-- What a gather asks for: layer, generation served, chunks of one bucket with `PART`, regather, and who asked. -/
structure Serve where
  layer    : Nat
  gen      : Nat
  part     : Option (Nat × Nat × Nat) := none
  regather : Bool := false
  retained : Bool := false
  members  : List Nat
deriving DecidableEq, Repr, Inhabited

/-- The shares of a layer that its prefetched bytes hold whole, in ascending bucket number (R132). -/
def prefWhole (bytes : Nat) (sh : List (BucketDesc × Share)) : List Nat :=
  (sh.foldl (fun (acc : List Nat × Nat) x =>
    let n := acc.2 + x.2.elems.length * x.1.outBytes
    (if n ≤ bytes then acc.1 ++ [x.1.bucket] else acc.1, n)) ([], 0)).1

/-- Serves one share: bits, flags, stash hit. The bits are the same whatever the source (R126). -/
def shareBits (pj : PJob) (d : BucketDesc) (h : Share) (gen : Nat) (retained : Bool) : List W32 × W32 :=
  match if retained then stashFind pj.stashRet d.bucket gen else (stashFind pj.stashCur d.bucket gen).or (stashFind pj.stashRet d.bucket gen) with
  | some e => (e.bits, 0)
  | none => publish d.outFmt pj.opt.stochrnd (h.ind.getD 0 []) h.indImg

/-- Serves a gather: the source of R126, with what a prefetched part lacks from the stash or the master (R132); the counters of R139, the
frames, the stash and the prefetch. -/
def State.serveGather (s : State) (k : PlaneIx) (id : Nat) (q : Serve) : State :=
  match s.openOn k id with
  | none => s
  | some (j, pj) =>
    let sh := j.layerShares pj q.layer (q.part.map (·.1))
    let pref := (s.plane k).prefetch.find? fun e => e.job == id && e.layer == q.layer && e.gen == q.gen
    let whole := (pref.map fun e => prefWhole e.bytes (j.layerShares pj q.layer none)).getD []
    let rest := sh.filter fun x => !whole.contains x.1.bucket
    let all (l : List StashEnt) : Bool := rest.all fun x => (stashFind l x.1.bucket q.gen).isSome
    let inStash := q.retained || all pj.stashCur || all pj.stashRet
    let s := if pref.isSome && !q.retained then (s.jobCtr k id .prefHit).updPlane k fun p => { p with prefetch := p.prefetch.filter fun e =>
        !(e.job == id && e.layer == q.layer && e.gen == q.gen) } else s
    let s := if q.retained then s.jobCtr k id .stashHit sh.length
      else if inStash then s.jobCtr k id .stashHit rest.length
      else if q.regather then s.jobCtr k id .masterRg rest.length else s
    let s := s.each sh fun s (d, h) =>
      let r := shareBits pj d h q.gen q.retained
      let s := s.arith k id uCvt (if inStash && !whole.contains d.bucket then 0 else r.2)
      let fs := shareFrames j k d { op := opParm, job := id, gen := q.gen } r.1 fun c =>
        q.part.all fun p => p.2.1 ≤ c && c < p.2.1 + p.2.2
      let s := s.each fs fun s f => match q.part, q.members with
        | some _, [m] => s.toMember k j pj m f
        | _, ms => s.multicast k j pj ms f
      if q.regather || q.part.isSome then s
      else s.stashStore k j { bucket := d.bucket, layer := q.layer, gen := q.gen, slots := (r.1.length * d.outBytes + 65535) / 65536, bits := r.1 }
    match s.pjob k id with
    | none => s
    | some pj => match nextLayer (j.layersHere pj) q.layer q.regather with
      | some l => s.prefetchLayer k j pj l
      | none => s

/-- The Gather queue without the entry of a multicast that has started (R19). -/
def Plane.gatherDone (p : Plane) (g : Gather) : Plane :=
  { p with gathers := p.gathers.erase g, qGather := p.qGather.remove fun e => e.job == g.job && e.bucket == g.layer }

/-- A waiting multicast starts (R127). -/
def State.startGather (s : State) (k : PlaneIx) (g : Gather) : State :=
  let s := s.updPlane k fun p => p.gatherDone g
  s.serveGather k g.job { layer := g.layer, gen := g.gen, members := g.members, retained := g.retained }

/-- The coalescing window of a layer's multicast ends (R127); while the replicator has no credit the request stays in the Gather queue (R19). -/
def execGatherWindowExpiry (k : PlaneIx) (job layer : Nat) (s : State) : Out :=
  .next (if (s.plane k).qPublish.stalled 64 then s
    else match (s.plane k).gathers.find? fun g => g.job == job && g.layer == layer with
    | none => s
    | some g => s.startGather k g)

/-- Every multicast of the job that still waits starts before the full stop changes the generation (R15). -/
def State.flushGathers (s : State) (k : PlaneIx) (id : Nat) : State :=
  s.each ((s.plane k).gathers.filter (·.job == id)) fun s g => s.startGather k g

/-- Joins a waiting multicast, starts one of its own, or waits for the window (R127). -/
def State.askGather (s : State) (lane : DevLane) (f : Frame) (j : Job) (q : Serve) (m : Nat) : State :=
  let k := planeOf lane
  let s := s.jobCtr k j.id .gathers
  match (s.plane k).gathers.find? fun g => g.job == j.id && g.layer == q.layer && g.gen == q.gen with
  | some g =>
    (s.updPlane k fun p => { p with gathers := p.gathers.map fun x =>
      if x == g then
        { g with members := if g.members.contains m then g.members else g.members ++ [m], reqs := g.reqs ++ [(m, lane, f)] }
      else x }).jobCtr k j.id .gathCoal
  | none =>
    if q.part.isSome || q.regather then s.serveGather k j.id q
    else s.updPlane k fun p => { p with
      gathers := p.gathers ++ [{ job := j.id, layer := q.layer, gen := q.gen, members := [m], retained := q.retained, reqs := [(m, lane, f)] }]
      qGather := p.qGather.push 256 { job := j.id, bucket := q.layer, chunk := 0, member := m } }

/-- The fields of a gather request (R124). -/
structure Greq where
  layer   : Nat
  reg     : Bool
  part    : Bool
  notice  : Bool
  bucket  : Nat
  gen     : Nat
  cfirst  : Nat
  nchunk  : Nat
  rsvdOk  : Bool
deriving DecidableEq, Repr, Inhabited

/-- The fields of a gather request's payload.  The header's `JOB` names the job; `JOB` at 0x00 is not compared with it (R124 does not say;
DESIGN CHOICE, notes/assumptions 55). -/
def parseGreq (b : List Byte) : Greq :=
  let fl := fieldAt b 4 2
  let q : Greq :=
    { layer := fieldAt b 2 2, reg := fl.testBit 0, part := fl.testBit 1, notice := fl.testBit 2, bucket := fieldAt b 6 2,
      gen := fieldAt b 8 4, cfirst := fieldAt b 12 4, nchunk := fieldAt b 16 4, rsvdOk := true }
  { q with rsvdOk := fl / 8 == 0 && zeroAt b 0x14 44 &&
      (if q.part then q.nchunk != 0 else q.bucket == 0 && q.cfirst == 0 && q.nchunk == 0) }

/-- The buckets a request covers that have elements on plane `k` (row 4 of R125); empty where a `PART` range is no range of one. -/
def Job.greqBuckets (j : Job) (k : PlaneIx) (q : Greq) : List BucketDesc :=
  let ds := (j.buckets.filter fun d => d.layer == q.layer && !(j.planeChunks k d).isEmpty).mergeSort fun a b => a.bucket ≤ b.bucket
  if q.part then
    ds.filter fun d => d.bucket == q.bucket && q.cfirst + q.nchunk ≤ d.nchunks &&
      (j.planeChunks k d).any fun c => q.cfirst ≤ c && c < q.cfirst + q.nchunk
  else ds

/-- Sends the last `RETRACT` and the last notice to one member (R125 row 5, R138). -/
def State.sendNotices (s : State) (k : PlaneIx) (j : Job) (pj : PJob) (m : Nat) : State :=
  let one (s : State) (op : Nat) (b : List Byte) : State :=
    if b.isEmpty then s
    else s.toMember k j pj m { hdr := { op := op, job := j.id, gen := fieldAt b 0x10 4 }, payload := b }
  one (one s opRetract pj.retract) opNotice pj.notice

/-- Rows 6 to 10 of R125 on the plane that keeps the shares, with the halts of R266 and R275 and the hold of R267. -/
def State.greqHome (s : State) (lane : DevLane) (f : Frame) (j : Job) (pj : PJob) (m : Nat) (q : Greq) (later : StoredFault := .none)
    (relayed : Bool := false) : State :=
  let k := planeOf lane
  let ask := q.gen
  let sh := j.layerShares pj q.layer (if q.part then some q.bucket else none)
  let serve (gen : Nat) (ret : Bool) : Serve :=
    { layer := q.layer, gen := gen, part := if q.part then some (q.bucket, q.cfirst, q.nchunk) else none, regather := q.reg,
      retained := ret, members := [m] }
  let top := if pj.fs = .drain then pj.orec.nextgen - 1 else pj.orec.nextgen
  if ask != 0xFFFFFFFF && top < ask then s.refuseFrame lane f .param (some .gathRej) ask q.layer
  else if sh.any (·.2.lost) then s.refuseFrame lane f .shardLost none ask q.layer
  else if sh.any (·.2.halted) then s.refuseFrame lane f .check none ask q.layer
  else if (pj.fs != .drain && ask == pj.subgen) || sh.any (fun x => x.2.expelled.contains s.bidx) then
    (s.holdFrame lane f true (some m) later relayed).jobCtr k j.id .gathHeld
  else if ask == 0xFFFFFFFF || ask == pj.orec.gen then s.askGather lane f j (serve pj.orec.gen false) m
  else if pj.retGen == some ask && sh.all fun x => (stashFind pj.stashRet x.1.bucket ask).isSome then
    s.askGather lane f j (serve ask true) m
  else s.refuseFrame lane f .generation (some .genRej) ask q.layer

/-- A gather request after the policer (R125): refused, relayed toward the home devices of its buckets, held, or served; a held one that has
gone on toward other home devices (`relayed`) does not go there again (R129). -/
def State.greq (s : State) (lane : DevLane) (f : Frame) (keep : Keep := {}) (relayed : Bool := false) : State :=
  let k := planeOf lane
  let q := parseGreq f.payload
  match s.admitSender lane f true with
  | .error st => s.refuseFrame lane f st (some .gathRej) q.gen q.layer
  | .ok (j, pj, m) =>
    if pj.opt.kernel = 0 then s.refuseFrame lane f .param (some .gathRej) q.gen q.layer
    else
      let ds := j.greqBuckets k q
      let here := ds.filter fun d => s.homeDev j d.bucket == s.bidx
      let away := if s.isPeer lane || relayed then [] else ((ds.map fun d => s.homeDev j d.bucket).filter (· != s.bidx)).dedup
      if !q.rsvdOk || ds.isEmpty || (s.isPeer lane && here.isEmpty) then s.refuseFrame lane f .param (some .gathRej) q.gen q.layer
      else if q.notice then s.sendNotices k j pj m
      else if pj.fs = .loading then s.holdFrame lane f true (some m) keep.later
      else
        let bkt := if q.part then q.bucket else ((ds.map (·.bucket)).min?).getD 0
        let s := s.each away fun s d => s.relay k j pj m d f bkt (if here.isEmpty && away.length = 1 then keep else {})
        if here.isEmpty then s else s.greqHome lane f j pj m q keep.later (relayed || !away.isEmpty)

/-- The gathers held for a job are taken again, in order (R125 row 7); one whose stored bytes or entry fail parity is discarded (R177). -/
def State.retryGathers (s : State) (k : PlaneIx) (id : Nat) : State :=
  let hs := (s.plane k).held.filter fun h => h.serve && h.frame.hdr.job == id
  let s := s.updPlane k fun p => { p with held := p.held.filter fun h => !(h.serve && h.frame.hdr.job == id) }
  s.each hs fun s h =>
    if h.later == .none then s.greq h.lane h.frame {} h.relayed else s.loseStored k h.frame h.later 0

/-! ### Early publication (R99) -/

/-- The check items of an output conversion of `n` words, one for each result block of 4 KiB (R237): those of a conversion whose row brings
no disturbances are counted and agree. -/
def State.convItems (s : State) (k : PlaneIx) (redund n : Nat) : State :=
  (List.range ((n + blockWords - 1) / blockWords)).foldl (fun s _ => (s.itemChecked k 6 redund).2) s

/-- A share whose kernel has run, with no overflow or poison on the plane, is multicast tentative under the subjunctive number, once
the Publish queue has a credit (R19). -/
def State.earlyPublish (s : State) (k : PlaneIx) (id b : Nat) : State :=
  match s.openOn k id with
  | none => s
  | some (j, pj) =>
    match pj.findShare b, j.bucketDesc b with
    | some h, some d =>
      if !pj.opt.earlypub || jobEnded j pj || h.role != .home || !h.kernelRan || h.published || h.poisoned ||
          pj.stepFlags.overflow || pj.stepFlags.poisoned || !(pj.fs == .run || pj.fs == .await) || (s.plane k).qPublish.stalled 64 then s
      else
        let r := publish d.outFmt pj.opt.stochrnd (h.sub.getD 0 []) h.subImg
        let s := (s.convItems k j.hdr.redund r.1.length).arith k id uCvt r.2
        let s := s.each (shareFrames j k d { op := opParm, job := id, tent := true, gen := pj.subgen } r.1 fun _ => true) fun s f =>
          s.multicast k j pj pj.liveMembers f
        s.updShare k id b fun h => { h with published := true }
    | _, _ => s

def execEarlyPublication (k : PlaneIx) (job bucket : Nat) (s : State) : Out := .next (s.earlyPublish k job bucket)

/-! ### Result retention (R135 to R137) -/

/-- Bytes of the result-retention buffer that results hold. -/
def Plane.retBufUsed (p : Plane) : Nat := ((p.retained.filter fun r => r.admitted && !r.inHbm).map (·.bytes)).sum

/-- Bytes of a job's retention area that its results hold. -/
def Plane.retAreaUsed (p : Plane) (id : Nat) : Nat :=
  ((p.retained.filter fun r => r.admitted && r.inHbm && r.job == id).map (·.bytes)).sum

/-- Where a result fits: the buffer (`false`), the job's area in HBM (`true`), or nowhere (R135). -/
def retRoom (p : Plane) (j : Job) (bytes : Nat) : Option Bool :=
  if p.retBufUsed + bytes + 256 * p.unitsOut 32768 32768 ≤ 8388608 then some false
  else if p.retAreaUsed j.id + bytes ≤ j.hdr.retq * 65536 then some true
  else none

/-- The frames of a result; all of its chunks, or the one asked for (R135, R137). -/
def Retained.frames (r : Retained) (j : Job) (k : PlaneIx) (d : BucketDesc) (cs : Nat → Bool) : List Frame :=
  shareFrames j k d { op := opRslt, job := j.id, comma := commaOf r.step (if j.hdr.thin then 0 else j.hdr.accn - 1) } r.bits cs

/-- The result of a bucket leaves for its destinations as a multicast, under either kind of collectives (R61, R130, R135, R140; under
staging ones members also fetch it, R165, DEDUCED, notes/assumptions 41).  For a member here it waits for its descriptor (R164); for one of
another device it waits there (`State.holdResult`). -/
def State.deliverResult (s : State) (k : PlaneIx) (j : Job) (pj : PJob) (r : Retained) : State :=
  match j.bucketDesc r.bucket with
  | none => s
  | some d =>
    let wait := pj.liveMembers.filter fun m => j.memberDev m == s.bidx && !PJob.canTake j pj r.bucket m
    let ready := pj.liveMembers.filter fun m => !wait.contains m
    let s := s.each (r.frames j k d fun _ => true) fun s f => s.multicast k j pj ready f
    s.updPlane k fun p => { p with retained := p.retained.map fun x =>
      if x.job == r.job && x.bucket == r.bucket then { x with owes := pj.liveMembers.map fun m => (m, 0), needDesc := wait } else x }

/-- Releases a bucket's slots: its share returns to `Closed` (R59). -/
def Share.release (h : Share) : Share := { h with bst := .closed, slots := [], spilled := 0 }

/-- Where the word of a retained result lies that fails parity, as block and index (R246): the retention buffer or the job's area in HBM. -/
def Retained.unit (r : Retained) (work : ItemFault) : Nat × Nat :=
  if r.inHbm then (9, work.index) else (2, 2 ^ 30 + 32768 + work.index % 32768)

/-- A retained result is read, and the read fails parity `n` times (R137, R244). -/
def State.readResult (s : State) (k : PlaneIx) (r : Retained) (op chunk : Nat) (work : ItemFault) (n : Nat) : Bool × State :=
  let u := r.unit work
  s.parityRead k { block := u.1, cls := 1, index := u.2, job := r.job, op := op, opk := 2, bucket := r.bucket, chunk := chunk,
                   bits := work.mask, word := BitVec.ofNat 32 work.index } n

/-- The first waiting result, if it fits, is admitted: its slots are released and it is read and delivered (R135); one that stays unreadable
poisons its bucket and is released (R244). -/
def State.admitResult (s : State) (k : PlaneIx) (work : ItemFault := {}) : State :=
  match (s.plane k).retained.find? fun r => !r.admitted with
  | none => s
  | some r =>
    match s.openOn k r.job with
    | none => s
    | some (j, pj) =>
      match retRoom (s.plane k) j r.bytes with
      | none => s
      | some hbm =>
        let s := s.updPlane k fun p => { p with retained := p.retained.map fun x =>
          if x.job == r.job && x.bucket == r.bucket then { x with admitted := true, inHbm := hbm } else x }
        let s := s.updShare k r.job r.bucket Share.release
        let (bad, s) := s.readResult k { r with inHbm := hbm } 0 0 work work.result
        if bad then (s.poison k r.job r.bucket).updPlane k fun p => { p with
          retained := p.retained.filter fun x => !(x.job == r.job && x.bucket == r.bucket) }
        else s.deliverResult k j pj r

def execResultRetentionAdmit (k : PlaneIx) (s : State) : Out := .next (s.admitResult k)

/-- A result leaves the retention buffer; the pair may follow (R136). -/
def State.dropResult (s : State) (k : PlaneIx) (id b : Nat) : State :=
  (s.updPlane k fun p => { p with retained := p.retained.filter fun r => !(r.job == id && r.bucket == b) }).checkPair k id

/-- Releases every result of a job that no destination owes any more (R136). -/
def State.releaseResults (s : State) (k : PlaneIx) (id : Nat) : State :=
  (s.updPlane k fun p => { p with retained := p.retained.filter fun r =>
    !(r.job == id && r.admitted && r.owes.isEmpty && r.needDesc.isEmpty) }).checkPair k id

/-- The retained result that a frame's bucket, and its step where the frame carries one, name. -/
def State.resultFor (s : State) (k : PlaneIx) (pj : PJob) (f : Frame) (stepped : Bool) : Option Retained :=
  (s.plane k).retained.find? fun r => r.job == pj.id && r.bucket == f.hdr.bucket && r.admitted && r.step == pj.orec.step &&
    (!stepped || f.hdr.comma / 64 == r.step % 1024)

/-- An acknowledgement (R136). -/
def State.ack (s : State) (lane : DevLane) (f : Frame) (keep : Keep := {}) : State :=
  let k := planeOf lane
  match s.admitSender lane f true with
  | .error st => s.refuseFrame lane f st none
  | .ok (j, pj, m) =>
    if !s.isPeer lane && s.homeDev j f.hdr.bucket != s.bidx then s.relay k j pj m (s.homeDev j f.hdr.bucket) f f.hdr.bucket keep
    else match s.resultFor k pj f true with
      | none => s.frmDrop k
      | some r =>
        if !r.owes.any (·.1 == m) then s.frmDrop k
        else
          let s := s.updPlane k fun p => { p with retained := p.retained.map fun x =>
            if x == r then { r with owes := r.owes.filter (·.1 != m), needDesc := r.needDesc.filter (· != m),
                                    reported := r.reported.filter (· != m) } else x }
          let s := s.updPJob k j.id fun pj => { pj with ackRuns := pj.ackRuns.filter (·.1 != m) }
          s.releaseResults k j.id

/-- A destination's acknowledgement timer expires (R136): the whole result again to it alone, and a stall report at the fourth
expiry for that destination, whatever the results, since its last acknowledgement. -/
def State.ackTimeout (s : State) (k : PlaneIx) (id b m : Nat) : State :=
  match s.openOn k id with
  | none => s
  | some (j, pj) =>
    match (s.plane k).retained.find? (fun r => r.job == id && r.bucket == b && r.admitted), j.bucketDesc b with
    | some r, some d =>
      match r.owes.lookup m with
      | none => s
      | some n =>
        if r.needDesc.contains m then s
        else
          let run := (pj.ackRuns.lookup m).getD 0 + 1
          let s := s.updPlane k fun p => { p with retained := p.retained.map fun x =>
            if x == r then { r with owes := r.owes.map fun o => if o.1 == m then (m, n + 1) else o,
                                    reported := if run = 4 then m :: r.reported else r.reported } else x }
          let s := s.updPJob k id fun pj => { pj with ackRuns := (m, run) :: pj.ackRuns.filter (·.1 != m) }
          let s := s.each (r.frames j k d fun _ => true) fun s f => s.toMember k j pj m f
          let s := s.jobCtr k id .retSend
          if run = 4 then
            s.report 0xF001 Status.timeout.code id (planeBit k)
              (leBytes 2 id ++ leBytes 1 k.val ++ [2] ++ leBytes 2 b ++ [0, 0] ++ leBytes 8 pj.orec.step ++
                leBytes 16 (listMask (r.owes.map (·.1) ++ pj.group.filter pj.fenced.contains).dedup))
          else s
    | _, _ => s

def execAckTimeout (k : PlaneIx) (job bucket member : Nat) (s : State) : Out := .next (s.ackTimeout k job bucket member)

/-- The chunk lies beyond a result, or on another plane (R137). -/
def Job.chunkElsewhere (j : Job) (k : PlaneIx) (f : Frame) : Bool :=
  match j.bucketDesc f.hdr.bucket with
  | none => true
  | some d => d.nchunks ≤ f.hdr.chunk || j.chunkPlane d f.hdr.chunk != k.val

/-- A request for a chunk of a result (R137, `count`; or an `SREAD`, R165): relayed, refused, answered, or the second parity failure
poisons the bucket. -/
def State.rdreq (s : State) (lane : DevLane) (f : Frame) (parityFails : Nat) (count : Bool) (work : ItemFault := {})
    (keep : Keep := {}) : State :=
  let k := planeOf lane
  match s.admitSender lane f true with
  | .error st => s.refuseFrame lane f st none
  | .ok (j, pj, m) =>
    let home := s.homeDev j f.hdr.bucket
    if count && !s.isPeer lane && home != s.bidx then s.relay k j pj m home f f.hdr.bucket keep
    else if j.chunkElsewhere k f then s.refuseFrame lane f .length none
    else if count && f.hdr.comma / 64 != pj.orec.step % 1024 then s.refuseFrame lane f .timeout none
    else if ((pj.findShare f.hdr.bucket).map (·.poisoned)).getD false then s.refuseFrame lane f .poisoned none
    else match s.resultFor k pj f count, j.bucketDesc f.hdr.bucket with
      | some r, some d =>
        let (bad, s) := s.readResult k r f.hdr.op f.hdr.chunk work parityFails
        if bad then
          let s := (s.poison k j.id r.bucket).refuseFrame lane f .poisoned none
          s.dropResult k j.id r.bucket
        else
          let s := s.each (r.frames j k d fun c => c == f.hdr.chunk) fun s x => s.toMember k j pj m x
          if count then s.jobCtr k j.id .resend else s
      | _, _ => s.refuseFrame lane f .timeout none

/-- A staging-mode read request (R165, R173): it names the bucket and chunk of the current step, and is answered as a re-delivery
request is, but not counted; under native collectives there is no staged result (DESIGN CHOICE of the statuses,
notes/assumptions 41). -/
def State.sread (s : State) (lane : DevLane) (f : Frame) (work : ItemFault := {}) : State :=
  match s.findJob f.hdr.job with
  | some j => if j.hdr.staging || !j.st.isOpen then s.rdreq lane f work.parity false work else s.refuseFrame lane f .param none
  | none => s.rdreq lane f work.parity false work

/-! ### Descriptors (R164, R175) -/

/-- A descriptor frame: registered, replacing an older one, and results that waited for it leave. -/
def State.desc (s : State) (lane : DevLane) (f : Frame) : State :=
  let k := planeOf lane
  match s.admitSender lane f true with
  | .error st => s.refuseFrame lane f st none
  | .ok (j, pj, m) =>
    let b := fieldAt f.payload 2 2
    let addr := fieldAt f.payload 8 8
    if (j.bucketDesc b).isNone || addr % 64 != 0 || !zeroAt f.payload 4 4 || !zeroAt f.payload 0x14 44 || j.hdr.staging then
      s.refuseFrame lane f .param none
    else
      let x : RwDesc := { member := m, bucket := b, addr := addr, key := fieldAt f.payload 0x10 4 }
      let s := s.updPJob k j.id fun pj => { pj with descs := x :: pj.descs.filter fun d => !(d.member == m && d.bucket == b) }
      let pj := { pj with descs := x :: pj.descs }
      let mine (h : HeldFrame) : Bool := h.frame.hdr.op == opRslt && h.frame.hdr.job == j.id && h.frame.hdr.bucket == b && h.from' == some m
      let hs := (s.plane k).held.filter mine
      let s := s.updPlane k fun p => { p with held := p.held.filter fun h => !mine h }
      let s := s.each hs fun s h =>
        if h.later == .none then s.replicate h.lane h.frame { cells := h.cells, ovf := h.ovf } else s.loseStored k h.frame h.later 0
      s.each ((s.plane k).retained.filter fun r => r.job == j.id && r.bucket == b && r.needDesc.contains m) fun s r =>
        match j.bucketDesc b with
        | none => s
        | some d =>
          let s := s.each (r.frames j k d fun _ => true) fun s x => s.toMember k j pj m x
          s.updPlane k fun p => { p with retained := p.retained.map fun y =>
            if y.job == r.job && y.bucket == r.bucket then { y with needDesc := y.needDesc.filter (· != m) } else y }

/-! ### Queries (R302) -/

def execStashQuery (p : Packet) (s : State) : Out := .next (s.dispatch 0x0601 p fun c s => s.toJobPlanes c)

/-- `STASH_QUERY` on a plane: `RETGEN` is 0xFFFFFFFF while the retained half holds nothing. -/
def State.takeStashQuery (s : State) (k : PlaneIx) (c : PlaneCmd) : State :=
  s.withPJob k c fun j pj =>
    let pref := (((s.plane k).prefetch.filter (·.job == j.id)).map (·.bytes)).sum
    let rg := if pj.stashRet.isEmpty then 0xFFFFFFFF else pj.retGen.getD 0xFFFFFFFF
    s.planeAnswer c.held k .ok (leBytes 4 (stashSlots pj.stashCur) ++ leBytes 4 (stashSlots pj.stashRet) ++ leBytes 4 rg ++ leBytes 4 pref)

def execTreeRead (p : Packet) (s : State) : Out := .next (s.dispatch 0x0602 p fun c s => s.toJobPlanes c)

/-- `TREE_READ` on a plane: the tree table (R129) and the job's peer lists (R183). -/
def State.takeTreeRead (s : State) (k : PlaneIx) (c : PlaneCmd) : State :=
  s.withPJob k c fun j pj =>
    let ps := (j.peers.filter (·.1 == k.val)).mergeSort fun a b => a.2.2 ≤ b.2.2
    s.planeAnswer c.held k .ok ((List.range 8).flatMap (fun d => leBytes 2 (j.treeMask pj k d)) ++ leBytes 1 ps.length ++ [0] ++
      ps.flatMap fun x => leBytes 1 x.2.2 ++ leBytes 1 x.2.1)

end Sys2Proof.Machine
end

