-- ==== Sys2Proof/Machine/Sync.lean ====
section
/-! DEFINITION. Synchronisation objects (R156 to R158, R299) and the apply point of sync commands and member fences (R155, R308). -/
namespace Sys2Proof.Machine

/-- The largest value of an object (R156). -/
def syncMax : Nat := 2 ^ 64 - 1

/-- The value of an object on a plane. -/
def State.syncValue (s : State) (k : PlaneIx) (id obj : Nat) : W64 := ((s.pjob k id).map fun pj => pj.syncs.getD obj 0).getD 0

/-- Completes the held waits of an object whose operand is met, in the order in which they arrived (R158). -/
def State.wakeWaits (s : State) (k : PlaneIx) (id obj : Nat) : State :=
  s.each ((s.plane k).waits.filter fun w => w.job == id && w.obj == obj && w.operand.toNat ≤ (s.syncValue k id obj).toNat) fun s w =>
    s.endWait k w .ok

/-- An object takes a value, and the waits it satisfies complete (R156, R158). -/
def State.setSync (s : State) (k : PlaneIx) (id obj : Nat) (v : W64) : State :=
  (s.updPJob k id fun pj => { pj with syncs := pj.syncs.set obj v }).wakeWaits k id obj

/-- `ADD`: saturating, a saturation counted in `SYNCSAT` (R156). -/
def State.addSync (s : State) (k : PlaneIx) (id obj : Nat) (x : W64) : State :=
  let n := (s.syncValue k id obj).toNat + x.toNat
  let s := if syncMax < n then s.jobCtr k id .syncSat else s
  s.setSync k id obj (BitVec.ofNat 64 (min n syncMax))

/-- The plane has room for another wait of the job (R158). -/
def Plane.waitRoom (p : Plane) (id : Nat) : Bool := p.waits.length < 1024 && (p.waits.filter (·.job == id)).length < 256

/-- The planes' part of a sync command before its apply point: refused, or queued (R157, R299, R308). -/
def State.queueSync (s : State) (k : PlaneIx) (c : PlaneCmd) : State :=
  s.withPJob k c fun j pj =>
    if jobEnded j pj then s.planeAnswer c.held k (if c.pkt.opcode = 0x0306 then .nojob else .fenced) []
    else if j.hdr.syncn ≤ pf c.pkt 0 2 || (c.pkt.opcode = 0x0305 && 60000 < pf c.pkt 4 4) then s.planeAnswer c.held k .param []
    else s.updPlane k fun p => { p with applyQ := p.applyQ ++ [c] }

def execSyncAdd (p : Packet) (s : State) : Out := .next (s.dispatch 0x0303 p fun c s => s.toJobPlanes c)
def execSyncSet (p : Packet) (s : State) : Out := .next (s.dispatch 0x0304 p fun c s => s.toJobPlanes c)
def execSyncWait (p : Packet) (s : State) : Out := .next (s.dispatch 0x0305 p fun c s => s.toJobPlanes c)
def execSyncRead (p : Packet) (s : State) : Out := .next (s.dispatch 0x0306 p fun c s => s.toJobPlanes c)

/-- `SYNC_ADD` at its apply point: the new value. -/
def State.applySyncAdd (s : State) (k : PlaneIx) (c : PlaneCmd) : State :=
  let s := s.addSync k c.pkt.job (pf c.pkt 0 2) (BitVec.ofNat 64 (pf c.pkt 8 8))
  s.planeAnswer c.held k .ok (leBytes 8 (s.syncValue k c.pkt.job (pf c.pkt 0 2)).toNat)

/-- `SYNC_SET` at its apply point: the old value. -/
def State.applySyncSet (s : State) (k : PlaneIx) (c : PlaneCmd) : State :=
  let old := s.syncValue k c.pkt.job (pf c.pkt 0 2)
  (s.setSync k c.pkt.job (pf c.pkt 0 2) (BitVec.ofNat 64 (pf c.pkt 8 8))).planeAnswer c.held k .ok (leBytes 8 old.toNat)

/-- `SYNC_WAIT` arrives at its apply point: it completes at once, is refused with `BUSY`, or is held (R158). -/
def State.applySyncWait (s : State) (k : PlaneIx) (c : PlaneCmd) : State :=
  let obj := pf c.pkt 0 2
  let v := s.syncValue k c.pkt.job obj
  if pf c.pkt 8 8 ≤ v.toNat then s.planeAnswer c.held k .ok (leBytes 8 v.toNat)
  else if !(s.plane k).waitRoom c.pkt.job then s.planeAnswer c.held k .busy []
  else s.updPlane k fun p => { p with
    waits := p.waits ++ [{ id := p.nextWait, job := c.pkt.job, obj := obj, operand := BitVec.ofNat 64 (pf c.pkt 8 8), tmo := pf c.pkt 4 4,
                           cmd := some c.held }]
    nextWait := p.nextWait + 1 }

/-- `SYNC_READ` at its apply point. -/
def State.applySyncRead (s : State) (k : PlaneIx) (c : PlaneCmd) : State :=
  s.planeAnswer c.held k .ok (leBytes 8 (s.syncValue k c.pkt.job (pf c.pkt 0 2)).toNat)

/-- A plane applies the fence of one member; results that only it owed are released, and the pair may follow (R131, R136, R155). -/
def State.fenceMember (s : State) (k : PlaneIx) (id m : Nat) : State := (s.applyFence k id m).releaseResults k id

/-- The members of a 128-bit mask, by member-table number (R153). -/
def maskMembers (p : Packet) : List Nat := maskList 128 (pf p 0 16)

/-- `MEMBER_FENCE` at its apply point: the named members that attach to this device (R155); the fence of another device's member is only
recorded. -/
def State.applyMemberFence (s : State) (k : PlaneIx) (c : PlaneCmd) : State :=
  let here := match s.findJob c.pkt.job with
    | none => []
    | some j => (maskMembers c.pkt).filter fun m => j.memberDev m == s.bidx
  (s.each here fun s m => s.fenceMember k c.pkt.job m).planeAnswer c.held k .ok []

/-- A command of the apply-point class takes effect on a plane (R308). -/
def State.applyCmd (s : State) (k : PlaneIx) (c : PlaneCmd) : State :=
  match c.pkt.opcode.toNat with
  | 0x0302 => s.applyMemberFence k c
  | 0x0303 => s.applySyncAdd k c
  | 0x0304 => s.applySyncSet k c
  | 0x0305 => s.applySyncWait k c
  | _ => s.applySyncRead k c

/-- The first queued command of the job that satisfies a test leaves the queue and takes effect. -/
def State.applyFirst (s : State) (k : PlaneIx) (f : PlaneCmd → Bool) : State :=
  match (s.plane k).applyQ.find? f with
  | none => s
  | some c => (s.updPlane k fun p => { p with applyQ := p.applyQ.filter (·.held != c.held) }).applyCmd k c

/-- 1 ms after the plane took it, the oldest sync command of the job takes effect (R308). -/
def execCommandApplyPoint (k : PlaneIx) (job : Nat) (s : State) : Out :=
  .next (s.applyFirst k fun c => c.pkt.job == job && c.pkt.opcode != 0x0302)

/-- 1 ms after the plane took it, the oldest member fence of the job is applied: a `MEMBER_FENCE`, else the loss of a lane (R155). -/
def execMemberFenceApply (k : PlaneIx) (job : Nat) (s : State) : Out :=
  .next (
    if (s.plane k).applyQ.any fun c => c.pkt.job == job && c.pkt.opcode == 0x0302 then
      s.applyFirst k fun c => c.pkt.job == job && c.pkt.opcode == 0x0302
    else match (s.plane k).fenceQ.find? (·.1 == job) with
      | none => s
      | some x => s.fenceMember k job x.2)

/-- A comma of the job on the plane, or the end of one of its full-stop paths: everything that waits for the apply point takes effect
(R155, R308), and a due test segment may run (R255). -/
def State.atComma (s : State) (k : PlaneIx) (id : Nat) : State :=
  let cs := (s.plane k).applyQ.filter (·.pkt.job == id)
  let s := s.updPlane k fun p => { p with applyQ := p.applyQ.filter (·.pkt.job != id), segSlot := !p.tests.isEmpty }
  let s := s.each cs fun s c => s.applyCmd k c
  s.each ((s.plane k).fenceQ.filter (·.1 == id)) fun s x => s.fenceMember k id x.2

/-! ### Sync frames (R157) -/

/-- The request of a sync frame is answered in the same layout, to the member it came from; the bits that the layout gives as zero
are zero in the reply, whatever the request held. -/
def State.syncReply (s : State) (lane : DevLane) (f : Frame) (st : Status) (v : W64) : State :=
  let b := f.payload
  s.replyTo lane f (syncReplyFrame f.hdr.job (fieldAt b 2 2) (fieldAt b 4 1) (fieldAt b 5 1 % 2) st.code v (fieldAt b 0x10 4) (wordAt b 0x14))

/-- A refused sync frame (R157, R179); `VALUE` of a refusal is not stated, so it is a free value. -/
def State.syncRefuse (s : State) (lane : DevLane) (f : Frame) (st : Status) : State :=
  let (n, s) := s.takeFresh
  (s.syncReply lane f st (Config.reading n)).frmDrop (planeOf lane)

/-- The fields of a request that must be within range (R157). -/
def syncOk (b : List Byte) (syncn : Nat) : Bool :=
  fieldAt b 2 2 < syncn && (fieldAt b 4 1 == 1 || fieldAt b 4 1 == 2) && fieldAt b 0x10 4 ≤ 60000 && zeroAt b 6 2 &&
  fieldAt b 5 1 < 2 && zeroAt b 0x18 40

/-- A sync frame: refused, added, or waiting (R156 to R158). -/
def State.sync (s : State) (lane : DevLane) (f : Frame) : State :=
  let k := planeOf lane
  match s.admitSender lane f true with
  | .error st => s.syncRefuse lane f st
  | .ok (j, _, m) =>
    let b := f.payload
    let obj := fieldAt b 2 2
    if !syncOk b j.hdr.syncn then s.syncRefuse lane f .param
    else if fieldAt b 4 1 = 1 then
      let s := s.addSync k j.id obj (BitVec.ofNat 64 (fieldAt b 8 8))
      if (fieldAt b 5 1).testBit 0 then s.syncReply lane f .ok (s.syncValue k j.id obj) else s
    else
      let v := s.syncValue k j.id obj
      if fieldAt b 8 8 ≤ v.toNat then s.syncReply lane f .ok v
      else if !(s.plane k).waitRoom j.id then s.syncRefuse lane f .busy
      else s.updPlane k fun p => { p with
        waits := p.waits ++ [{ id := p.nextWait, job := j.id, obj := obj, operand := BitVec.ofNat 64 (fieldAt b 8 8), member := some m,
                               stag := wordAt b 0x14, tmo := fieldAt b 0x10 4, sflags := fieldAt b 5 1 }]
        nextWait := p.nextWait + 1 }

/-- A held wait's limit passes (R158). -/
def execSyncWaitTimeout (k : PlaneIx) (wait : Nat) (s : State) : Out :=
  .next (match (s.plane k).waits.find? (·.id == wait) with
    | none => s
    | some w => s.endWait k w .timeout)

end Sys2Proof.Machine
end

