-- ==== Sys2Proof/Machine/Reduction.lean ====
section
/-! DEFINITION. Fixed-order reduction: admission of contributions and device partials (R51, R52, R55), slots and refusal rounds (R57 to
R60), the adder tree and its scheduler (R53, R54, R166), the comma (R65 to R67), completion frames (R61), bucket timers (R62) and
the bucket commands (R33, R47, R300). -/
namespace Sys2Proof.Machine

/-! ### Members and devices of a reduction -/

/-- The pass count N (R58, R64): 1 under thinning. -/
def JobHdr.passes (h : JobHdr) : Nat := if h.thin then 1 else h.accn

/-- The group's members attached to this device, by device-local number (R54). -/
def State.localGroup (s : State) (j : Job) (pj : PJob) : List Nat := pj.group.filter fun m => j.memberDev m == s.bidx

/-- The devices with members of the group, by ring position (R55). -/
def Job.ringDevs (j : Job) (pj : PJob) : List Nat := (List.range 8).filter fun d => pj.group.any fun m => j.memberDev m == d

/-- A bucket share holds slots or waits for something: it is open (R59). -/
def Share.isOpen (h : Share) : Bool :=
  h.bst == .openSlot || h.bst == .openSpill || h.bst == .awaiting || h.bst == .partialHeld || h.bst == .complete

/-- A frame refused with `FORMAT` sets `FMTREJ`, plane-wide and for the job's step (R42, R43). -/
def State.formatFlag (s : State) (k : PlaneIx) (id : Nat) : State :=
  (s.fmtRej k).updPJob k id fun pj => { pj with histNow := { pj.histNow with sflags := pj.histNow.sflags ||| fFmtRej } }

/-! ### Slots (R57 to R60) -/

/-- Slots that a share needs (R57): twice under FULL. -/
def shareNeed (redund n : Nat) : Nat := (n + 16383) / 16384 * (if redund = 2 then 2 else 1)

/-- Reduction slots a job holds on a plane. -/
def PJob.slotsHeld (pj : PJob) : Nat := (pj.shares.map (·.slots.length)).sum

/-- Spill slots a job holds on a plane. -/
def PJob.spillHeld (pj : PJob) : Nat := (pj.shares.map (·.spilled)).sum

/-- Reduction slots that the jobs of a partition hold on a plane. -/
def State.slotsOf (s : State) (k : PlaneIx) (serving : Bool) : Nat :=
  ((s.plane k).jobs.map fun pj => if ((s.findJob pj.id).map (·.hdr.serving)).getD false == serving then pj.slotsHeld else 0).sum

/-- Enough slots are free for a job of a partition: within the partition's share, and for a lendable job outside what the serving
partition has left of its own (R57, R141). -/
def State.slotRoom (s : State) (k : PlaneIx) (serving : Bool) (need : Nat) : Bool :=
  let free := (s.plane k).freeSlots.length
  if serving then s.slotsOf k true + need ≤ s.part.serve.slots && need ≤ free
  else s.slotsOf k false + need ≤ s.part.lend.slots && need + (s.part.serve.slots - s.slotsOf k true) ≤ free

/-- What a bucket claims when it opens (R57): the slots, or the number of spill slots. -/
inductive Claim
  | slots (l : List Nat)
  | spill (n : Nat)
deriving DecidableEq, Repr

/-- The claim of rule R57, or none. -/
def State.claim (s : State) (k : PlaneIx) (j : Job) (pj : PJob) (h : Share) : Option Claim :=
  let need := shareNeed j.hdr.redund h.elems.length
  if pj.slotsHeld + need ≤ j.hdr.slotceil && s.slotRoom k j.hdr.serving need then some (.slots ((s.plane k).freeSlots.take need))
  else if pj.spillHeld + need ≤ j.hdr.spillq then some (.spill need)
  else none

/-- Opens a bucket share with its claim (R57, R59, R60, R68); a plane without members of its own waits for partials at once. -/
def State.openShare (s : State) (k : PlaneIx) (j : Job) (pj : PJob) (b : Nat) (c : Claim) : State :=
  let lone := (s.localGroup j pj).isEmpty
  let s := s.updShare k j.id b fun h =>
    match c with
    | .slots l => { h with bst := if lone then .awaiting else .openSlot, slots := l, round := 0, roundEnd := 0 }
    | .spill n => { h with bst := if lone then .awaiting else .openSpill, spilled := n, round := 0, roundEnd := 0 }
  let s := s.updPJob k j.id fun pj => { pj with slotMax := max pj.slotMax pj.slotsHeld }
  match c with
  | .slots _ => s
  | .spill _ => s.jobCtr k j.id .spillBkt

/-- The length in ns of refusal round `k` (R60). -/
def roundNs (qbase k : Nat) : Nat := qbase * 1000 * 2 ^ min k 6

/-- A refused opening contribution (R60): the round it falls into, and the retry interval in whole microseconds. -/
def State.refuseOpen (s : State) (lane : DevLane) (f : Frame) (j : Job) (h : Share) : State :=
  let k := planeOf lane
  let now := (s.plane k).cnt
  let fresh := h.bst != .refused
  let next := fresh || h.roundEnd ≤ now
  let r := if fresh then 0 else if next then min (h.round + 1) 6 else h.round
  let e := if next then now + roundNs j.hdr.qbase r else h.roundEnd
  let s := s.updShare k j.id h.bucket fun h => { h with bst := .refused, round := r, roundEnd := e }
  let s := if next then s.jobCtr k j.id .qRounds else s
  ((s.status lane f .quota ((e - now + 999) / 1000)).frmDrop k).jobCtr k j.id .quotaRef

/-! ### What has arrived and been added -/

/-- The contribution of a member to a chunk and pass is present (R52 row 10). -/
def Share.present (h : Share) (c p m : Nat) : Bool :=
  h.added.contains (c, p) || h.contribs.any fun x => x.chunk == c && x.pass == p && x.member == m

/-- Every chunk set of a pass on the plane has been added. -/
def Share.passAdded (h : Share) (cs : List Nat) (p : Nat) : Bool := cs.all fun c => h.added.contains (c, p)

/-- A pass is complete, so its completion frame has been sent (R61): a pass before the last when every chunk set of it is added, the
last when the bucket is complete. -/
def Share.passDone (h : Share) (cs : List Nat) (p n : Nat) : Bool := h.commaDone || (p + 1 < n && h.passAdded cs p)

/-- Every pass has been added on this plane (R59). -/
def Share.localDone (h : Share) (cs : List Nat) (n : Nat) : Bool := (List.range n).all fun p => h.passAdded cs p

/-- The bucket timer of a pass starts again (R62). -/
def Share.touch (h : Share) (p : Nat) : Share := { h with timers := { pass := p } :: h.timers.filter (·.pass != p) }

/-- A completion frame (R61, R173). -/
def doneFrameOf (id b step pass : Nat) (final : Bool) : Frame :=
  { hdr := { op := opDone, job := id, bucket := b, comma := commaOf step pass, final := final } }

/-! ### The comma (R65 to R67) -/

/-- Steps 1 to 3 of R65 on the home plane: histogram, overflow flag, partial squared norm, with the norm's check item (R66, R237): words 0 to
512 of `fs`. -/
def State.commaNorm (s : State) (k : PlaneIx) (j : Job) (b : Nat) (xs : List W32) (fs : List WordFault) : State :=
  let s := s.updPJob k j.id fun pj => { pj with histNow := xs.foldl histCount pj.histNow }
  let s := if anyNonFinite xs then s.overflow k j.id b else s
  let (norm, c) := ({ s := s } : Checked).squares k j.hdr.redund { block := 6, cls := 0, job := j.id, opk := 3, bucket := b } fs 0 xs
  let s := (c.s.arith k j.id uVec c.fv).updShare k j.id b fun h => { h with norm := norm }
  if c.bad then s.poison k j.id b else s

/-- The result of a kernel-None bucket in its output format (R37, R44, R45, R65): bits, flags, random values used. -/
def resultBits (d : BucketDesc) (stoch : Bool) (n : Nat) (xs : List W32) : List W32 × W32 × Nat :=
  if d.outFmt = 0 then (xs, 0, 0)
  else if stoch then
    let im := srImages n xs
    (im.map fun c => BitVec.ofNat 32 c.1.toNat, im.foldl (fun f x => f ||| x.2) 0, im.length)
  else
    let r := publish 1 false xs []
    (r.1, r.2, 0)

/-- Step 5 of R65 for kernel None: the values pass their check items, are converted, and wait for the result-retention buffer
(R135). -/
def State.commaResult (s : State) (k : PlaneIx) (j : Job) (pj : PJob) (d : BucketDesc) (xs : List W32) (fs : List WordFault)
    (work : ItemFault := {}) : State :=
  let (ws, bad, s) := s.checkVector k j.hdr.redund { block := 6, cls := 0, job := j.id, opk := 3, bucket := d.bucket } (max xs.length 1) xs fs
  if bad then (s.poison k j.id d.bucket).updShare k j.id d.bucket Share.release
  else
    let (bits, fl, used) := resultBits d pj.opt.stochrnd s.fresh ws
    let s := ({ s with fresh := s.fresh + used } : State).arith k j.id uCvt fl
    let s := s.updPlane k fun p => { p with retained := p.retained ++
      [{ job := j.id, bucket := d.bucket, step := pj.orec.step, bits := bits, bytes := bits.length * d.outBytes }] }
    s.admitResult k work

/-- A share completes on a plane that keeps it (R65, R67, R260); a bucket for the optimizer goes through the Spill queue into the Complete
queue (R19, R23).  `fs`: the disturbances of the norm (words 0 to 512) and of the output conversion (words from 513). -/
def State.comma (s : State) (k : PlaneIx) (id b : Nat) (xs : List W32) (fs : List WordFault) (work : ItemFault := {}) : State :=
  match s.findJob id, s.pjob k id, (s.findJob id).bind (·.bucketDesc b) with
  | some j, some pj, some d =>
    let home := ((pj.findShare b).map fun h => h.role == .home).getD false
    let bad (s : State) : Bool := (((s.pjob k id).bind (·.findShare b)).map (·.poisoned)).getD true
    let s := s.updShare k id b fun h => { h with bst := .complete, reduced := xs, commaDone := true, timers := [] }
    let s := if home && !bad s then s.commaNorm k j b xs (shiftFaults fs 0 513) else s
    let s := if bad s then s else (s.updShare k id b fun h => h.setLog j.logl pj.orec.step xs).logWritten k id (pj.orec.step % j.logl)
    let s :=
      if bad s then s.updShare k id b Share.release
      else if pj.opt.kernel != 0 then s.updPlane k fun p =>
        Plane.flow { p with qSpill := p.qSpill.push 128 { job := id, bucket := b, chunk := 0, whole := true } }
      else if home then s.commaResult k j pj d xs (shiftFaults fs 513 xs.length) work
      else s.updShare k id b Share.release
    (s.atComma k id).checkPair k id
  | _, _, _ => s

/-! ### Across devices (R55) -/

/-- The frames of a device partial, of at most 2,048 FP32 elements each; `from'` is the first chunk sent (R55, R62). -/
def partialFrames (j : Job) (k : PlaneIx) (d : BucketDesc) (step n : Nat) (vs : List W32) (from' : Nat) : List Frame :=
  (shareFrames j k { d with bflags := 0 } { op := opPartial, job := j.id, comma := commaOf step (n - 1) } vs fun c => from' ≤ c)

/-- The running sums of a share in ascending element index. -/
def Share.sumList (h : Share) : List W32 := h.elems.map fun e => (h.sums.lookup e).getD 0

/-- A device partial goes to the home device and the mirrors, this device left out. -/
def State.sendPartials (s : State) (k : PlaneIx) (j : Job) (d : BucketDesc) (step : Nat) (vs : List W32) (from' : Nat) : State :=
  s.each ((s.keepers j d.bucket).filter (· != s.bidx)) fun s dev =>
    s.each (partialFrames j k d step j.hdr.passes vs from') fun s f => s.toDevice k j dev f d.bucket

/-- The value of element `e` in the partial of a device, where it has arrived. -/
def Share.partialAt (h : Share) (dev e : Nat) : Option W32 :=
  (h.partials.find? fun p => p.dev == dev && p.off ≤ e && e < p.off + p.vals.length).bind fun p => p.vals[e - p.off]?

/-- The chunks of a device partial of which some element is missing. -/
def Share.partialMissing (h : Share) (d : BucketDesc) (cs : List Nat) (dev : Nat) : List Nat :=
  cs.filter fun c => !(let r := d.chunkRange c; (List.range r.2).all fun i => (h.partialAt dev (r.1 + i)).isSome)

/-- The partial that stands `i`-th in the device ring of element `e` (R55). -/
def Share.ringTerm (h : Share) (devs : List Nat) (e i : Nat) : W32 :=
  ((devs[(e % devs.length + i) % devs.length]?).bind fun d => h.partialAt d e).getD 0

/-- The board-wide sum of an element from the device partials, in the device ring's order from +0 (R55). -/
def ringSum (h : Share) (devs : List Nat) (e : Nat) : FR := fsum ((List.range devs.length).map (h.ringTerm devs e))

/-- The additions of device partials under way: for each element the terms added so far, a disturbed sum standing for those before it, the
flags, whether a word stayed unresolved, and the state. -/
structure RingRun where
  terms : List (List W32)
  flags : W32 := 0
  bad   : Bool := false
  s     : State
deriving DecidableEq, Repr

/-- One device partial addition of a chunk, as one check item of the adder tree (R55, R237; one for each chunk and ring position, DESIGN CHOICE,
notes/assumptions 91). -/
def RingRun.add (r : RingRun) (k : PlaneIx) (redund : Nat) (e : ErrInfo) (h : Share) (devs es : List Nat) (fs : List WordFault) (i : Nat) :
    RingRun :=
  let terms := (r.terms.zip es).map fun x => x.1 ++ [h.ringTerm devs x.2 i]
  let sums := terms.map fsum
  let (ws, bad, s) := r.s.checkItem k redund e (frWords sums) (shiftFaults fs (i * es.length) es.length) (· % 128)
  { terms := (terms.zip (sums.zip ws)).map fun x => if x.2.1.1 = x.2.2 then x.1 else [x.2.2]
    flags := r.flags ||| frFlags sums ||| inFlagsAll (es.map fun e => h.ringTerm devs e i), bad := r.bad || bad, s := s }

/-- The device partials of a share are added, chunk by chunk: the board-wide values, whether a word stayed unresolved, and the state.  A bucket
that has only this device's own partial is its sum: nothing is added (R53, R55). -/
def State.ringAdds (s : State) (k : PlaneIx) (j : Job) (d : BucketDesc) (h : Share) (devs : List Nat) (fs : List WordFault) :
    List W32 × Bool × State :=
  if devs = [s.bidx] then (frWords (h.elems.map (ringSum h devs)), false, s)
  else
    (j.planeChunks k d).foldl (fun (acc : List W32 × Bool × State) c =>
      let rg := d.chunkRange c
      let es := (List.range rg.2).map (rg.1 + ·)
      let e : ErrInfo := { block := 4, cls := 0, job := j.id, opk := 3, pass := j.hdr.passes - 1, bucket := d.bucket, chunk := c }
      let r := (List.range devs.length).foldl (fun (r : RingRun) i =>
        r.add k j.hdr.redund e h devs es (shiftFaults fs (acc.1.length * devs.length) (es.length * devs.length)) i)
        { terms := es.map fun _ => [], s := acc.2.2 }
      (acc.1 ++ r.terms.map (fun t => (fsum t).1), acc.2.1 || r.bad, r.s.arith k j.id uAdd r.flags)) ([], false, s)

/-- The slot or region in which a share's element lies (R247). -/
def Share.unitOf (h : Share) (off : Nat) (flt : ItemFault) : Nat × Nat :=
  if h.slots.isEmpty then (9, flt.index) else (5, h.slots.getD ((h.elems.filter (· < off)).length / 16384) 0)

/-- The running sums of a share are read, and a read fails parity `n` times; one that fails twice poisons the bucket (R63, R67, R244). -/
def State.sumRead (s : State) (k : PlaneIx) (j : Job) (d : BucketDesc) (pass : Nat) (flt : ItemFault) (n : Nat) : State :=
  match (s.pjob k j.id).bind (·.findShare d.bucket) with
  | none => s
  | some h =>
    let off := (h.elems[flt.index % h.elems.length]?).getD 0
    let u := h.unitOf off flt
    let r := s.parityRead k { block := u.1, cls := 0, index := u.2, job := j.id, opk := 3, pass := pass, bucket := d.bucket,
                              chunk := off / max d.chunk 1, bits := flt.mask, word := BitVec.ofNat 32 flt.index } n
    if r.1 then r.2.poison k j.id d.bucket else r.2

/-- A device partial whose stored bytes fail parity as the adder reads them is lost, and the bucket timer asks for it again (R62, R177). -/
def State.losePartials (s : State) (k : PlaneIx) (id b : Nat) (h : Share) : State :=
  let s := s.updShare k id b fun h => { h with partials := h.partials.filter (·.later == .none) }
  s.each (h.partials.filter (·.later != .none)) fun s p =>
    s.loseStored k { hdr := { op := opPartial, job := id, bucket := b, chunk := p.chunk } } p.later 1

/-- The home or mirror plane forms the board-wide values once every device partial is in, sends the `FINAL` completion frame (the home
plane only, R260), and the bucket reaches its comma.  `flt`: the disturbances of the ring additions come first, those of the comma behind them. -/
def State.boardCheck (s : State) (k : PlaneIx) (id b : Nat) (flt : ItemFault) : State :=
  match s.findJob id, s.pjob k id, (s.findJob id).bind (·.bucketDesc b) with
  | some j, some pj, some d =>
    match pj.findShare b with
    | none => s
    | some h =>
      let devs := j.ringDevs pj
      if h.bst != .awaiting || !(devs.all fun v => (h.partialMissing d (j.planeChunks k d) v).isEmpty) then s
      else if h.partials.any (·.later != .none) then s.losePartials k id b h
      else
        let (sums, bad, s) := s.ringAdds k j d h devs flt.words
        let s := if bad then s.poison k id b else s
        let f := doneFrameOf id b pj.orec.step (j.hdr.passes - 1) true
        let s := if h.role == .home then
            (s.each (devs.filter (· != s.bidx)) fun s v => s.toTree k j pj v f).toLocal k j pj pj.liveMembers f
          else s
        let used := if devs = [s.bidx] then 0 else sums.length * devs.length
        s.comma k id b sums (shiftFaults flt.words used (513 + sums.length)) flt
  | _, _, _ => s

/-- The last pass of a share has been added on this plane (R55, R59): its device partial goes to the devices that add it, and is kept. -/
def State.localCheck (s : State) (k : PlaneIx) (id b : Nat) (flt : ItemFault) : State :=
  match s.findJob id, s.pjob k id, (s.findJob id).bind (·.bucketDesc b) with
  | some j, some pj, some d =>
    match pj.findShare b with
    | none => s
    | some h =>
      if !(h.bst == .openSlot || h.bst == .openSpill) || !h.localDone (j.planeChunks k d) j.hdr.passes then s
      else
        let vs := h.sumList
        let s := s.sendPartials k j d pj.orec.step vs 0
        if h.role == .remote then
          s.updShare k id b fun h => { h with bst := .partialHeld, timers := h.timers.filter (·.pass + 1 != j.hdr.passes) }
        else
          let mine := (j.planeChunks k d).map fun c =>
            let r := d.chunkRange c
            ({ dev := s.bidx, chunk := c, off := r.1, vals := (List.range r.2).map fun i => (h.sums.lookup (r.1 + i)).getD 0 } : PartialIn)
          (s.updShare k id b fun h => { h with bst := .awaiting, partials := h.partials ++ mine }).boardCheck k id b flt
  | _, _, _ => s

/-! ### The adder tree and its scheduler (R53, R166) -/

/-- A chunk set of a staging job lies whole in its buffers of engine scratch (R165). -/
def Plane.stagedSet (p : Plane) (id b c q : Nat) : Bool :=
  p.staged.any fun x => x.job == id && x.bucket == b && x.chunk == c && x.pass == q

/-- A chunk set that R53 allows to be added: every contribution present and the previous pass of the chunk added. -/
def Share.ready (h : Share) (ms : List Nat) (c p : Nat) : Bool :=
  (h.bst == .openSlot || h.bst == .openSpill) && !ms.isEmpty && !h.added.contains (c, p) && (p = 0 || h.added.contains (c, p - 1)) &&
  ms.all fun m => h.contribs.any fun x => x.chunk == c && x.pass == p && x.member == m

/-- The first ready chunk set of a job: lowest bucket, then chunk, then pass (R166). -/
def State.readySet (s : State) (k : PlaneIx) (pj : PJob) : Option ChunkSet :=
  match s.findJob pj.id with
  | none => none
  | some j =>
    if !(pj.fs == .run || pj.fs == .await) then none
    else
      let ms := s.localGroup j pj
      pj.shares.findSome? fun h => (j.bucketDesc h.bucket).bind fun d => (j.planeChunks k d).findSome? fun c =>
        ((List.range j.hdr.passes).find? fun p =>
          h.ready ms c p && (!j.hdr.staging || (s.plane k).stagedSet j.id h.bucket c p)).map fun p => { job := j.id, bucket := h.bucket, chunk := c, pass := p }

/-- Gives the idle adder tree the next ready chunk set (R166): serving jobs first, then lendable jobs in turn after the last served.
Without a credit of the Spill queue the tree issues nothing (R19, R23). -/
def State.schedule (s : State) (k : PlaneIx) : State :=
  let p := s.plane k
  if p.adder.isSome || p.qSpill.stalled 128 then s
  else
    let ids := (p.jobs.map (·.id)).mergeSort
    let serving (i : Nat) : Bool := ((s.findJob i).map (·.hdr.serving)).getD false
    let lend := ids.filter (!serving ·)
    let order := ids.filter serving ++ (lend.filter (p.lastJob < ·) ++ lend.filter (· ≤ p.lastJob))
    match order.findSome? fun i => (p.findPJob i).bind fun pj => s.readySet k pj with
    | none => s
    | some cs => s.updPlane k fun p => { p with adder := some cs, lastJob := if serving cs.job then p.lastJob else cs.job }

/-- One element of a chunk set (R53): the running sum plus the members' contributions in the element's ring order; `seen` holds the NaN and
infinite contributions of the earlier passes, so that special terms decide the sum wherever they stand (R40). -/
def ringAdd (ms : List Nat) (val : Nat → Nat → W32) (e : Nat) (s0 : W32) (seen : List W32 := []) : FR :=
  let xs := (List.range ms.length).map fun i => val ((ms[(e % ms.length + i) % ms.length]?).getD 0) e
  specialSum (seen ++ xs) (xs.foldl faccum (s0, 0))

/-- The contribution of a member to a chunk and pass. -/
def Share.contribOf (h : Share) (c p m : Nat) : List W32 :=
  ((h.contribs.find? fun x => x.chunk == c && x.pass == p && x.member == m).map (·.vals)).getD []

/-- The running sums of a chunk set after its pass (R53). -/
def addChunk (h : Share) (ms : List Nat) (off n c p : Nat) : List FR :=
  let vals := ms.map fun m => (m, h.contribOf c p m)
  (List.range n).map fun i =>
    ringAdd ms (fun m e => (((vals.lookup m).getD []).getD (e - off) 0)) (off + i) (if p = 0 then 0 else (h.sums.lookup (off + i)).getD 0)
      ((h.specials.filter (·.1 == off + i)).map (·.2))

/-- Writes running sums. -/
def Share.setSums (h : Share) (off : Nat) (ws : List W32) : Share :=
  { h with sums := (ws.zipIdx.map fun x => (off + x.2, x.1)) ++ h.sums.filter fun x => !(off ≤ x.1 && x.1 < off + ws.length) }

/-- The NaN and infinite contributions of a chunk set, by element. -/
def Share.setSpecials (h : Share) (ms : List Nat) (off c p : Nat) : List (Nat × W32) :=
  ms.flatMap fun m => ((h.contribOf c p m).zipIdx.filter fun x => !isFinite x.1).map fun x => (off + x.2, x.1)

/-- A contribution whose parity fails as it is read from the frame buffer, or from a buffer of engine scratch, is discarded (R63, R177,
R244). -/
def State.loseContrib (s : State) (k : PlaneIx) (cs : ChunkSet) (m : Nat) (staged : Bool) (x : StoredFault) : State :=
  let s := s.updShare k cs.job cs.bucket fun h => { h with
    contribs := h.contribs.filter fun x => !(x.chunk == cs.chunk && x.pass == cs.pass && x.member == m) }
  let s := s.updPlane k fun p => { p with qAdmit := p.qAdmit.remove fun e =>
    e.job == cs.job && e.bucket == cs.bucket && e.chunk == cs.chunk && e.pass == cs.pass && e.member == m }
  let e : ErrInfo := { block := 3, cls := 2, index := 1, job := cs.job, op := opGrad, opk := 2, pass := cs.pass, bucket := cs.bucket,
                       chunk := cs.chunk }
  (s.error k (match x with
    | .bytes i mask => { e with block := if staged then 8 else 2, cls := 1, index := i, bits := mask, word := BitVec.ofNat 32 i }
    | _ => e)).frmDrop k

/-- The contributions of a chunk set that the tree cannot read are lost: those whose stored bytes or entry fail (`later`), and in the first
pass, which reads no running sum, the one that the row's own parity failure names. -/
def Share.unread (h : Share) (cs : ChunkSet) (ms : List Nat) (flt : ItemFault) : List (Nat × Bool × StoredFault) :=
  let here := h.contribs.filter fun x => x.chunk == cs.chunk && x.pass == cs.pass
  let named := if cs.pass = 0 && flt.parity != 0 then ms[flt.index % ms.length]? else none
  here.filterMap fun x =>
    if x.later != .none then some (x.member, x.staged, x.later)
    else if named == some x.member then some (x.member, x.staged, .bytes flt.index flt.mask) else none

/-- A chunk set is in the slot: sums, record of it, and the frame cells or staging buffers of its contributions given back (R53, R165,
R181); a spilled bucket's chunk goes through the Spill queue (R19). -/
def State.setAdded (s : State) (k : PlaneIx) (cs : ChunkSet) (off : Nat) (ws : List W32) (sp : List (Nat × W32)) : State :=
  let spilled := (((s.pjob k cs.job).bind (·.findShare cs.bucket)).map fun h => h.spilled != 0).getD false
  let s := s.updShare k cs.job cs.bucket fun h =>
    { (h.setSums off ws) with added := (cs.chunk, cs.pass) :: h.added, specials := sp ++ h.specials,
                              contribs := h.contribs.filter fun x => !(x.chunk == cs.chunk && x.pass == cs.pass) }
  s.updPlane k fun p =>
    let p := { p with
      qAdmit := p.qAdmit.remove fun e => e.job == cs.job && e.bucket == cs.bucket && e.chunk == cs.chunk && e.pass == cs.pass
      staged := p.staged.filter fun x => !(x.job == cs.job && x.bucket == cs.bucket && x.chunk == cs.chunk && x.pass == cs.pass) }
    if spilled then Plane.flow { p with qSpill := p.qSpill.push 128 { job := cs.job, bucket := cs.bucket, chunk := cs.chunk, pass := cs.pass } }
    else p

/-- A chunk set of a staging job takes its M + 1 buffers of engine scratch once they are free and the pass before it has been added; its
contributions leave the frame buffer for them (R165, R69; the order of entry, DESIGN CHOICE, notes/assumptions 56). -/
def State.stageSet (s : State) (k : PlaneIx) (id b c q : Nat) : State :=
  match s.findJob id, s.pjob k id, (s.pjob k id).bind (·.findShare b) with
  | some j, some pj, some h =>
    let need := (s.localGroup j pj).length + 1
    let used := ((s.plane k).staged.map (·.bufs)).sum
    let there := (s.plane k).stagedSet id b c q
    if !j.hdr.staging || !(there || ((q = 0 || h.added.contains (c, q - 1)) && used + need ≤ 32)) then s
    else
      let s := if there then s else s.updPlane k fun p => { p with
        staged := p.staged ++ [{ job := id, bucket := b, chunk := c, pass := q, bufs := need }] }
      s.updShare k id b fun h => { h with contribs := h.contribs.map fun x =>
        if x.chunk == c && x.pass == q then { x with cells := 0, ovf := false, staged := true } else x }
  | _, _, _ => s

/-- The sets of the plane's staging jobs that wait in the frame buffer enter, in the order of jobs, buckets and arrival (R165). -/
def State.stageMore (s : State) (k : PlaneIx) : State :=
  s.each ((s.plane k).jobs.flatMap fun pj => pj.shares.flatMap fun h => (h.contribs.filter (!·.staged)).map fun x => (pj.id, h.bucket, x))
    fun s x => s.stageSet k x.1 x.2.1 x.2.2.chunk x.2.2.pass

/-- A pass before the last is complete on the plane: its completion frame goes to the members here (R61).  On a board the plane of each device
sends it to its own members once its own chunk sets of the pass are added, since only the home plane's `FINAL` frame is R61's for every device
(DESIGN CHOICE, notes/assumptions 91). -/
def State.passCheck (s : State) (k : PlaneIx) (j : Job) (pj : PJob) (d : BucketDesc) (p : Nat) : State :=
  match (s.pjob k j.id).bind (·.findShare d.bucket) with
  | none => s
  | some h =>
    if p + 1 < j.hdr.passes && h.passAdded (j.planeChunks k d) p then
      (s.updShare k j.id d.bucket fun h => { h with timers := h.timers.filter (·.pass != p) }).toLocal k j pj pj.liveMembers
        (doneFrameOf j.id d.bucket pj.orec.step p false)
    else s

/-- The sums of a share that is now complete are read for its comma work (R63, R65). -/
def State.commaRead (s : State) (k : PlaneIx) (j : Job) (d : BucketDesc) (cs : ChunkSet) (flt : ItemFault) : State :=
  match (s.pjob k j.id).bind (·.findShare cs.bucket) with
  | none => s
  | some h => if h.localDone (j.planeChunks k d) j.hdr.passes then s.sumRead k j d cs.pass flt flt.comma else s

/-- The adder tree finishes a chunk set (R53, R63, R236 to R241). -/
def State.chunkSetDone (s : State) (k : PlaneIx) (cs : ChunkSet) (flt : ItemFault) : State :=
  let s := s.updPlane k fun p => { p with adder := none }
  match s.findJob cs.job, s.pjob k cs.job, (s.findJob cs.job).bind (·.bucketDesc cs.bucket) with
  | some j, some pj, some d =>
    match pj.findShare cs.bucket with
    | none => s
    | some h =>
      let ms := s.localGroup j pj
      if !h.ready ms cs.chunk cs.pass then s
      else if !(h.unread cs ms flt).isEmpty then
        s.each (h.unread cs ms flt) fun s x => s.loseContrib k cs x.1 x.2.1 x.2.2
      else
        let r := d.chunkRange cs.chunk
        let u := h.unitOf r.1 flt
        let e : ErrInfo := { block := u.1, cls := 0, index := u.2, job := j.id, opk := 3, pass := cs.pass, bucket := cs.bucket,
                             chunk := cs.chunk, bits := flt.mask, word := BitVec.ofNat 32 flt.index }
        let (lost, s) := if cs.pass = 0 then (false, s) else s.parityRead k e flt.parity
        let (state, s) := s.ctlFault k { e with index := flt.index } flt.ctl
        let sums := addChunk h ms r.1 r.2 cs.chunk cs.pass
        let inF := inFlagsAll (ms.flatMap fun m => h.contribOf cs.chunk cs.pass m)
        let s := s.arith k j.id uAdd (frFlags sums ||| inF)
        let (ws, bad, s) := s.checkItem k j.hdr.redund { e with block := 4, bits := 0, word := 0 } (frWords sums)
          (flt.words.filter (·.word < r.2)) (· % 128)
        let s := if lost || state || bad then s.poison k j.id cs.bucket else s
        let s := (s.setAdded k cs r.1 ws (h.setSpecials ms r.1 cs.chunk cs.pass)).stageMore k
        let s := s.passCheck k j pj d cs.pass
        let s := s.commaRead k j d cs flt
        s.localCheck k j.id cs.bucket { flt with words := (flt.words.filter (r.2 ≤ ·.word)).map fun x => { x with word := x.word - r.2 } }
  | _, _, _ => s

def execChunkSetDone (k : PlaneIx) (flt : ItemFault) (s : State) : Out :=
  .next (match (s.plane k).adder with
    | none => s
    | some cs => (s.chunkSetDone k cs flt).schedule k)

/-! ### Gradient frames (R51, R52) -/

/-- Which step a frame's `COMMA` names (R51): the step in progress, the next one, or neither.  Before `JOB_START` and in the drain the
job's `STEP` is the step that has not begun, whose frames are held (R17, R148). -/
inductive StepOf
  | current | next | stale
deriving DecidableEq, Repr

def stepOf (pj : PJob) (comma : Nat) : StepOf :=
  let c := comma / 64 % 1024
  let cur := pj.orec.step % 1024
  if pj.fs == .loading then (if c = cur then .next else .stale)
  else if c = cur then (if pj.fs == .drain then .next else .current)
  else if c = (cur + 1) % 1024 then .next
  else .stale

/-- The FP32 values of the first `n` elements of a payload, decoded exactly (R30, R31). -/
def decodeVals (fmt n : Nat) (b : List Byte) : List W32 := (unpackCodes fmt n b).map fun c => ((decodeFmt fmt c).map encodeFx).getD 0

/-- Admits a contribution (R52 row 12): it waits in the frame buffer, or under staging collectives in engine scratch, until its chunk set is
complete (R69, R165). -/
def State.admitContrib (s : State) (k : PlaneIx) (j : Job) (d : BucketDesc) (f : Frame) (m : Nat) (later : StoredFault := .none) : State :=
  let p := f.hdr.comma % 64
  let c : Contrib :=
    { pass := p, chunk := f.hdr.chunk, member := m, vals := decodeVals f.hdr.fmt (d.chunkRange f.hdr.chunk).2 f.payload,
      cells := cellsOf f, ovf := (s.room k f).getD true, later := later }
  let s := s.updShare k j.id d.bucket fun h => { h.touch p with contribs := h.contribs ++ [c] }
  let s := s.updPlane k fun q => { q with qAdmit := q.qAdmit.push 512 { job := j.id, bucket := d.bucket, chunk := c.chunk, pass := p, member := m } }
  (s.stageSet k j.id d.bucket c.chunk p).schedule k

/-- Rows 9 to 12 of R52, for a frame of the step in progress. -/
def State.gradStep (s : State) (lane : DevLane) (f : Frame) (j : Job) (pj : PJob) (d : BucketDesc) (m : Nat)
    (later : StoredFault := .none) : State :=
  let k := planeOf lane
  let n := j.hdr.passes
  let p := f.hdr.comma % 64
  if n ≤ p then s.refuseFrame lane f .param (some .frmRej)
  else match pj.findShare d.bucket with
    | none => s.refuseFrame lane f .param (some .frmRej)
    | some h =>
      let cs := j.planeChunks k d
      if h.commaDone || h.present f.hdr.chunk p m then
        let s := (s.jobCtr k j.id .dupChunk).frmDrop k
        if h.passDone cs p n then s.toMember k j pj m (doneFrameOf j.id d.bucket pj.orec.step p (p + 1 == n)) else s
      else if h.isOpen then s.admitContrib k j d f m later
      else match s.claim k j pj h with
        | none => s.refuseOpen lane f j h
        | some c => (s.openShare k j pj d.bucket c).admitContrib k j d f m later

/-- A gradient chunk frame (R52). -/
def State.grad (s : State) (lane : DevLane) (f : Frame) (later : StoredFault := .none) : State :=
  let k := planeOf lane
  match s.admitSender lane f true with
  | .error st => s.refuseFrame lane f st (some .frmRej)
  | .ok (j, pj, m) =>
    match j.bucketDesc f.hdr.bucket with
    | none => s.refuseFrame lane f .param (some .frmRej)
    | some d =>
      if !j.chunkOk k d f then s.refuseFrame lane f .length (some .frmRej)
      else if !fmtFloat f.hdr.fmt then (s.refuseFrame lane f .format (some .frmRej)).formatFlag k j.id
      else match stepOf pj f.hdr.comma with
        | .stale => (s.jobCtr k j.id .frmStale).frmDrop k
        | .next => s.holdFrame lane f false (some m) later
        | .current => s.gradStep lane f j pj d m later

/-! ### Device partials and completion frames (R55, R61) -/

/-- A status frame back to the device a partial came from: no member of it is meant, so `UNI` is clear. -/
def State.statusDevice (s : State) (lane : DevLane) (f : Frame) (st : Status) : State :=
  let k := planeOf lane
  let x := statusFrame (s.pjob k f.hdr.job) f st f.hdr.chunk 0 0 0 0
  let s := match s.findJob f.hdr.job with
    | some j => s.toDevice k j (s.farDev lane) x f.hdr.bucket
    | none => s.enqueue k (laneIn lane) { frame := { x with hdr := { x.hdr with srcdev := s.bidx } }, job := f.hdr.job, cls := 0 }
  s.frmDrop k

/-- The frame carries FP32 elements of its chunk on this plane, at most 2,048 of them, whole (R50, R55). -/
def Job.partialOk (j : Job) (k : PlaneIx) (d : BucketDesc) (f : Frame) : Bool :=
  let c := f.hdr.chunk
  let r := d.chunkRange c
  let at' := f.hdr.elemoff - r.1
  c < d.nchunks && r.1 ≤ f.hdr.elemoff && at' % 2048 == 0 && at' < r.2 && j.chunkPlane d c == k.val &&
  payloadLen 0 (min 2048 (r.2 - at')) == f.payload.length

/-- A device partial of the step in progress is kept, the bucket opened if it was not (R57 and R59 name contributions only; that a partial
opens a bucket and claims its room is DESIGN CHOICE, notes/assumptions 44); a bucket that finds no room keeps the partial and opens with its
first contribution, with a later copy of a partial, or as its timer expires. -/
def State.admitPartial (s : State) (lane : DevLane) (f : Frame) (j : Job) (pj : PJob) (d : BucketDesc) (h : Share)
    (later : StoredFault := .none) (work : ItemFault := {}) : State :=
  let k := planeOf lane
  let dev := s.farDev lane
  let at' := f.hdr.elemoff - (d.chunkRange f.hdr.chunk).1
  let n := min 2048 ((d.chunkRange f.hdr.chunk).2 - at')
  if h.commaDone then
    let s := s.frmDrop k
    if h.role == .home then s.toTree k j pj dev (doneFrameOf j.id d.bucket pj.orec.step (j.hdr.passes - 1) true) else s
  else
    let s := if h.isOpen then s else match s.claim k j pj h with
      | some c => s.openShare k j pj d.bucket c
      | none => s
    let s := if h.partials.any fun p => p.dev == dev && p.off == f.hdr.elemoff then s.frmDrop k
      else
        let p : PartialIn := { dev := dev, chunk := f.hdr.chunk, off := f.hdr.elemoff, vals := decodeVals 0 n f.payload,
                               cells := cellsOf f, ovf := (s.room k f).getD true, later := later }
        s.updShare k j.id d.bucket fun h => { h.touch (j.hdr.passes - 1) with partials := h.partials ++ [p] }
    let whole := (((s.pjob k j.id).bind (·.findShare d.bucket)).map fun h =>
      h.bst == .awaiting && (j.ringDevs pj).all fun v => (h.partialMissing d (j.planeChunks k d) v).isEmpty).getD false
    let s := if whole && !(s.localGroup j pj).isEmpty then s.sumRead k j d (j.hdr.passes - 1) work work.comma else s
    s.boardCheck k j.id d.bucket work

/-- A device partial arrives on a peer lane (R55, R260). -/
def State.partialIn (s : State) (lane : DevLane) (f : Frame) (later : StoredFault := .none) (work : ItemFault := {}) : State :=
  let k := planeOf lane
  match s.openOn k f.hdr.job with
  | none => s.statusDevice lane f .nojob
  | some (j, pj) =>
    if jobEnded j pj then s.statusDevice lane f .fenced
    else match j.bucketDesc f.hdr.bucket, pj.findShare f.hdr.bucket with
      | some d, some h =>
        if h.role == .remote || !(j.ringDevs pj).contains (s.farDev lane) then s.statusDevice lane f .param
        else if !j.partialOk k d f then s.statusDevice lane f .length
        else if f.hdr.fmt != 0 then (s.statusDevice lane f .format).formatFlag k j.id
        else match stepOf pj f.hdr.comma with
          | .stale => s.frmDrop k
          | .next => s.holdFrame lane f false none later
          | .current => s.admitPartial lane f j pj d h later work
      | _, _ => s.statusDevice lane f .param

/-- A completion frame from the home plane (R55, R59, R61): it goes on to the members here, and a `FINAL` one of the step in progress
releases what a plane without a copy of the bucket held. -/
def State.doneIn (s : State) (lane : DevLane) (f : Frame) (keep : Keep := {}) : State :=
  let k := planeOf lane
  match s.openOn k f.hdr.job with
  | none => s.frmDrop k
  | some (j, pj) =>
    let s := s.replicate lane f keep
    let here := ((pj.findShare f.hdr.bucket).map fun h => h.role == .remote && !h.commaDone).getD false
    if f.hdr.final && !f.hdr.uni && here && !jobEnded j pj && stepOf pj f.hdr.comma == .current then
      let s := s.updShare k j.id f.hdr.bucket fun h => { h.release with commaDone := true, timers := [], sums := [], contribs := [] }
      (s.atComma k j.id).checkPair k j.id
    else s

/-- A `TIMEOUT` from the home plane asks for a device partial again (R55, R62): it is read and sent again from the slot, from the chunk
named; sums that stay unreadable poison the bucket, whose partial still counts as complete (R63, R67). -/
def State.resendPartials (s : State) (k : PlaneIx) (f : Frame) (work : ItemFault := {}) : State :=
  match s.openOn k f.hdr.job, (s.findJob f.hdr.job).bind (·.bucketDesc f.hdr.bucket) with
  | some (j, pj), some d =>
    let due := ((pj.findShare d.bucket).map fun h => h.bst == .partialHeld || h.bst == .awaiting).getD false
    if due && fieldAt f.payload 2 2 == Status.timeout.code && fieldAt f.payload 4 1 == opPartial && fieldAt f.payload 8 8 == pj.orec.step then
      (s.sumRead k j d (j.hdr.passes - 1) work work.parity).sendPartials k j d pj.orec.step (((pj.findShare d.bucket).map Share.sumList).getD []) (fieldAt f.payload 0x10 4)
    else s
  | _, _ => s

/-- A multicast or unicast frame from a peer lane (R185); a status frame that names no member is for the plane itself, and parameters or
results in a format that none of them has are answered `FORMAT` (R30, R32). -/
def State.peerIn (s : State) (lane : DevLane) (f : Frame) (keep : Keep := {}) (work : ItemFault := {}) : State :=
  let k := planeOf lane
  if f.hdr.op = opStatus && !f.hdr.uni then s.resendPartials k f work
  else if f.hdr.op != opStatus && 1 < f.hdr.fmt && (s.openOn k f.hdr.job).isSome then
    (s.statusDevice lane f .format).formatFlag k f.hdr.job
  else s.replicate lane f keep

/-! ### Bucket timers (R62) -/

/-- The chunks of a pass that a member still owes. -/
def Share.missingFrom (h : Share) (cs : List Nat) (p m : Nat) : List Nat := cs.filter fun c => !h.present c p m

/-- A `TIMEOUT` status frame: the lowest missing chunk and how many are missing (R62, R174). -/
def timeoutFrame (pj : PJob) (op b pass : Nat) (miss : List Nat) : Frame :=
  let c := miss.headD 0
  statusFrame (some pj) { hdr := { op := op, job := pj.id, bucket := b, chunk := c, comma := commaOf pj.orec.step pass } } .timeout c
    miss.length 0 0 0

/-- A pass's bucket timer expires (R62); a bucket that holds device partials and found no room opens if there is room now. -/
def State.bucketTimer (s : State) (k : PlaneIx) (id b pass : Nat) : State :=
  match s.openOn k id, (s.findJob id).bind (·.bucketDesc b) with
  | some (j, pj), some d =>
    match pj.findShare b with
    | none => s
    | some h =>
      match if h.isOpen && !jobEnded j pj then h.timers.find? (·.pass == pass) else none with
      | none =>
        if h.isOpen || jobEnded j pj || h.commaDone || h.partials.isEmpty then s
        else match s.claim k j pj h with
          | none => s
          | some c => (s.openShare k j pj b c).boardCheck k id b {}
      | some t =>
        let cs := j.planeChunks k d
        let ms := (s.localGroup j pj).filter fun m => !(h.missingFrom cs pass m).isEmpty
        let ds := if h.role == .home && pass + 1 = j.hdr.passes then
            (j.ringDevs pj).filter fun v => v != s.bidx && !(h.partialMissing d cs v).isEmpty
          else []
        let s := s.jobCtr k id .redTmo
        let t' : PassTimer := { t with expiries := t.expiries + 1, reported := t.reported || t.expiries == 3 }
        let s := s.updShare k id b fun h => { h with timers := t' :: h.timers.filter (·.pass != pass) }
        let s := s.each (ms.filter fun m => !pj.fenced.contains m) fun s m =>
          s.toMember k j pj m (timeoutFrame pj opGrad b pass (h.missingFrom cs pass m))
        let s := s.each ds fun s v => s.toDevice k j v (timeoutFrame pj opPartial b pass (h.partialMissing d cs v)) b
        if t.expiries = 3 then
          s.report 0xF001 Status.timeout.code id (planeBit k)
            (leBytes 2 id ++ leBytes 1 k.val ++ [1] ++ leBytes 2 b ++ leBytes 1 pass ++ leBytes 1 (listMask ds) ++ leBytes 8 pj.orec.step ++
              leBytes 16 (listMask ms))
        else s
  | _, _ => s

def execBucketTimerExpiry (k : PlaneIx) (job bucket pass : Nat) (s : State) : Out := .next (s.bucketTimer k job bucket pass)

/-! ### Bucket commands (R300) -/

def execBucketQuery (p : Packet) (s : State) : Out := .next (s.dispatch 0x0401 p fun c s => s.toJobPlanes c)

/-- `BUCKET_QUERY` on a plane. -/
def State.takeBucketQuery (s : State) (k : PlaneIx) (c : PlaneCmd) : State :=
  s.withPJob k c fun j pj =>
    match j.bucketDesc (pf c.pkt 0 2) with
    | none => s.planeAnswer c.held k .param []
    | some d => match pj.findShare d.bucket with
      | none => s.planeAnswer c.held k .ok (zeros 8)
      | some h =>
        let cs := j.planeChunks k d
        let n := ((List.range j.hdr.passes).filter fun p => h.passDone cs p j.hdr.passes).length
        s.planeAnswer c.held k .ok (leBytes 1 h.bst.code ++ leBytes 1 h.round ++ leBytes 1 n ++ [1] ++
          leBytes 2 (h.slots.length + h.spilled) ++ leBytes 1 (if h.spilled = 0 then 0 else 1) ++ [0])

/-- The scale, table and zero point of R33.  A field that the method does not use must be +0: −0.0, of which R33 does not say whether it is
nonzero, is refused as nonzero (DESIGN CHOICE, notes/assumptions 90). -/
def expandOk (b : List Byte) : Bool :=
  let m := fieldAt b 0 1
  let fmt := fieldAt b 1 1
  let z := signed 16 (fieldAt b 2 2)
  let tab := (List.range 16).map fun i => wordAt b (8 + 4 * i)
  fmtInt fmt && (m == 1 || m == 2) &&
  (if m = 1 then fmt == 9 && z == 0 && wordAt b 4 == 0 && tab.all isFinite
   else isFinite (wordAt b 4) && tab.all (· == 0) && (if fmt = 9 then -8 ≤ z && z ≤ 7 else -128 ≤ z && z ≤ 127))

/-- What `EXPAND_SET` answers for its fields alone: `FORMAT` for a float format, `PARAM` under R33. -/
def expandStatus (b : List Byte) : Option Status :=
  if fmtFloat (fieldAt b 1 1) then some .format else if !expandOk b then some .param else none

/-- The planes' answer to an `EXPAND_SET` for a job that is not open. -/
def State.expandRefused (s : State) (c : Held) (ps : List PlaneIx) : State :=
  let st := (expandStatus c.pkt.params).getD .format
  let s := if st = .format then s.each (ps.filter fun k => (s.plane k).ps == .inService) fun s k => s.fmtRej k else s
  s.replyPlanes c ps st

/-- `EXPAND_SET` at the dispatcher: a job that is not open is in no state in which the device expands weights, so that the command is
answered `FORMAT` (R32, R300) by each plane named. -/
def execExpandSet (p : Packet) (s : State) : Out := .next (s.dispatch 0x0402 p fun c s =>
  match s.findJob c.pkt.job with
  | some j => if j.st.isOpen then s.toJobPlanes c else s.expandRefused c (namedPlanes c.pkt j.hdr.planes)
  | none => s.expandRefused c (planesOf c.pkt.pmask.toNat))

/-- `EXPAND_SET` on a plane (R32, R33): `FORMAT` for a float format, or where the plane expands no weights for the job.  A command that is
wrong under both rules is answered `PARAM` (no order is given; DESIGN CHOICE, notes/assumptions 90). -/
def State.takeExpandSet (s : State) (k : PlaneIx) (c : PlaneCmd) : State :=
  s.withPJob k c fun j pj =>
    let b := c.pkt.params
    match expandStatus b with
    | some .format => (s.formatFlag k j.id).planeAnswer c.held k .format []
    | some st => s.planeAnswer c.held k st []
    | none =>
      if pj.fs != .loading then (s.formatFlag k j.id).planeAnswer c.held k .format []
      else
        let x : Expand := { fmt := fieldAt b 1 1, method := fieldAt b 0 1, zero := signed 16 (fieldAt b 2 2), scale := wordAt b 4,
                            table := (List.range 16).map fun i => wordAt b (8 + 4 * i) }
        (s.updPJob k j.id fun pj => { pj with expands := x :: pj.expands.filter (·.fmt != x.fmt) }).planeAnswer c.held k .ok []

def execHistRead (p : Packet) (s : State) : Out := .next (s.dispatch 0x0403 p fun c s => s.toJobPlanes c)

/-- `HIST_READ` on a plane: the step in progress, one that a fence cut off among them, or the last one that passed a full stop (R47). -/
def State.takeHistRead (s : State) (k : PlaneIx) (c : PlaneCmd) : State :=
  s.withPJob k c fun j pj =>
    let step := pf c.pkt 0 8
    let now := pj.fs == .run || pj.fs == .await || pj.fs == .commit || pj.fs == .rescale || pj.fs == .discard ||
      (pj.fs == .fenced && pj.cutStep)
    match (if now && pj.histNow.step == step then some pj.histNow else none).or (pj.histLast.filter (·.step == step)) with
    | some h => s.planeAnswer c.held k .ok (histBytes j.id k.val h)
    | none => s.planeAnswer c.held k .param []

end Sys2Proof.Machine
end

