-- ==== Sys2Proof/Machine/Digest.lean ====
section
/-! DEFINITION. Checkpoint and log reads (R74, R121, R163, R271), digests and what follows from them (R263 to R266, R275), the rebuild of an
expelled copy (R267, R268), the arrays that mirrors receive (R261), member digests (R269) and the copies of a full-stop frame
(R187). -/
namespace Sys2Proof.Machine

/-! ### Checkpoint and log reads (R163, R271) -/

/-- A piece of a read: what its frames name (bucket, content code, chunk, format), its bytes, and the room it takes in the layout. -/
structure ReadPart where
  bucket : Nat
  code   : Nat
  chunk  : Nat := 0
  fmt    : Nat := 0
  bytes  : List Byte
  room   : Nat
deriving DecidableEq, Repr, Inhabited

/-- A size rounded up to a whole number of 4 KiB (R74). -/
def page (n : Nat) : Nat := (n + 4095) / 4096 * 4096

/-- FP32 words as a piece that takes a whole number of 4 KiB. -/
def pagePart (bucket code chunk : Nat) (ws : List W32) : ReadPart :=
  { bucket := bucket, code := code, chunk := chunk, bytes := packFp32 ws, room := page (4 * ws.length) }

/-- The indicative copy of a share in the layout of R74: its arrays, then the image. -/
def Share.copyParts (h : Share) : List ReadPart :=
  (h.ind.zipIdx.map fun x => pagePart h.bucket (x.2 + 1) 0 x.1) ++
  (if h.indImg.isEmpty then []
   else [{ bucket := h.bucket, code := h.ind.length + 1, fmt := 1, bytes := packE8m7 h.indImg, room := page (2 * h.indImg.length) }])

/-- The matrices of a share's full blocks: L, R, QL, QR (R121). -/
def Share.matrixParts (h : Share) : List ReadPart :=
  h.kblocks.zipIdx.flatMap fun x =>
    [pagePart h.bucket ccL x.2 (KBlock.stat x.1 0), pagePart h.bucket ccR x.2 (KBlock.stat x.1 1), pagePart h.bucket ccQL x.2 x.1.ql,
     pagePart h.bucket ccQR x.2 x.1.qr]

/-- What a checkpoint read of a plane returns (R163): the copies in ascending bucket number, then the matrices. -/
def PJob.copyRead (pj : PJob) : List ReadPart :=
  let hs := pj.shares.filter Share.kept
  hs.flatMap Share.copyParts ++ hs.flatMap Share.matrixParts

/-- The step header of a log slot; a slot no step has used is all zero but `INCOMPLETE` (DEDUCED, notes/assumptions 46). -/
def PJob.slotHdr (pj : PJob) (i : Nat) : StepHdr := (pj.slog.lookup i).getD {}

/-- What a log read of a plane returns (R271): the headers in slot order, then the values share by share, slot by slot. -/
def PJob.logRead (pj : PJob) (logl : Nat) : List ReadPart :=
  ((List.range logl).map fun i => { bucket := 0, code := 0, chunk := i, bytes := stepHdrBytes pj.id (pj.slotHdr i), room := 192 }) ++
  (pj.shares.filter Share.kept).flatMap fun h => (List.range logl).map fun i =>
    let ws := ((h.log.lookup i).map (·.vals)).getD (List.replicate h.elems.length 0)
    { bucket := h.bucket, code := ccLog, chunk := i, bytes := packFp32 ws, room := 4 * ws.length }

/-- The remote-write frames of a piece that starts at address `at'` (R172, R173). -/
def ReadPart.frames (x : ReadPart) (job gen key at' : Nat) : List Frame :=
  (chunksOf 8192 x.bytes).zipIdx.map fun (b, i) =>
    { hdr := { op := opCkpt, rw := true, fmt := x.fmt, job := job, bucket := x.bucket, comma := x.code, chunk := x.chunk,
               elemoff := 8192 / (if x.fmt = 1 then 2 else 4) * i, gen := gen, rwaddr := (at' + 8192 * i) % 2 ^ 64, rwkey := key }
      payload := b }

/-- The frames of a read, packed from its base address. -/
def readFrames (job gen key base : Nat) (xs : List ReadPart) : List Frame :=
  (xs.foldl (fun (acc : List Frame × Nat) x => (acc.1 ++ x.frames job gen key acc.2, acc.2 + x.room)) ([], base)).1

/-- A plane begins a read: its frames go to the destination's lane on this plane, or for a destination attached to another device through plane
k of that device (R185; DEDUCED, notes/assumptions 46); once the job's lanes have been returned they take the lowest class (R163). -/
def State.startRead (s : State) (k : PlaneIx) (c : CkptJob) : State :=
  match s.findJob c.job, s.pjob k c.job with
  | some j, some pj =>
    let xs := if c.isLog then pj.logRead j.logl else pj.copyRead
    let j' := if jobEnded j pj then { j with hdr := { j.hdr with jclass := 0 } } else j
    let s := s.each (readFrames j.id pj.orec.gen c.rwkey c.rwbase xs) fun s f => s.toMember k j' pj c.dest f
    let done := { c with started := true, gen := pj.orec.gen, bytes := (xs.map (·.bytes.length)).sum }
    s.updPlane k fun p => { p with ckpts := p.ckpts.map fun x => if x.held == c.held then done else x }
  | _, _ => s

/-- The reads that wait for the drain that begins the plane's step (R163). -/
def State.startReads (s : State) (k : PlaneIx) (id : Nat) : State :=
  match s.pjob k id with
  | none => s
  | some pj => s.each ((s.plane k).ckpts.filter fun c => c.job == id && !c.started && c.step == pj.orec.step) fun s c => s.startRead k c

/-- Every frame of a read has left the plane. -/
def State.readSent (s : State) (k : PlaneIx) (c : CkptJob) : Bool := !(s.plane k).unsent.any c.sends

/-- Frames of a rebuild that this plane sends have not all left. -/
def Plane.rebuildSending (p : Plane) (id me b : Nat) (r : Rebuild) : Bool :=
  r.started && r.srcDev == me && p.unsent.any fun d =>
    d.job == id && d.frame.hdr.op == opCkpt && !d.frame.hdr.rw && d.frame.hdr.bucket == b && d.frame.hdr.gen == r.gen

/-- A started read of a copy is in progress on the plane, for a checkpoint or a rebuild: a selector flip of the job waits for it (R163,
R268). -/
def State.readHolds (s : State) (k : PlaneIx) (id : Nat) : Bool :=
  ((s.plane k).ckpts.any fun c => c.job == id && c.started && !c.isLog && !s.readSent k c) ||
  (s.pjob k id).any fun pj => pj.shares.any fun h => h.rebuilds.any fun r => (s.plane k).rebuildSending id s.bidx h.bucket r

/-- Counts, once for each read, a flip that waits for it (R163, R268). -/
def State.countReadWait (s : State) (k : PlaneIx) (id : Nat) : State :=
  let p := s.plane k
  let me := s.bidx
  let n := (p.ckpts.filter fun c => c.job == id && c.started && !c.isLog && !c.waited && !s.readSent k c).length
  let m := ((s.pjob k id).map fun pj => (pj.shares.map fun h =>
    (h.rebuilds.filter fun r => !r.waited && p.rebuildSending id me h.bucket r).length).sum).getD 0
  let s := s.updPlane k fun p => { p with ckpts := p.ckpts.map fun c => if c.job == id && c.started then { c with waited := true } else c }
  let s := s.updPJob k id fun pj => { pj with shares := pj.shares.map fun h => { h with
    rebuilds := h.rebuilds.map fun r => if p.rebuildSending id me h.bucket r then { r with waited := true } else r } }
  s.jobCtr k id .ckptWait (n + m)

/-- The planes that have written their data answer with `GEN` and `BYTES`; a copy kept as expelled answers `CHECK` (R163, R278). -/
def State.ckptDone (s : State) (id : Nat) : State :=
  s.each allPlanes fun s k => s.each ((s.plane k).ckpts.filter fun c => c.job == id && c.started && s.readSent k c) fun s c =>
    let bad := !c.isLog && ((s.pjob k id).map fun pj => pj.shares.any fun h => h.kept && h.expelled.contains s.bidx).getD false
    let s := s.updPlane k fun p => { p with ckpts := p.ckpts.filter (·.held != c.held) }
    s.planeAnswer c.held k (if bad then .check else .ok) (leBytes 4 c.gen ++ zeros 4 ++ leBytes 8 c.bytes)

def execCkptReadDone (job : Nat) (s : State) : Out := .next (s.ckptDone job)

/-! ### Digests (R263 to R266, R275) -/

/-- The payload of a `DIGEST` frame (R264). -/
def digestPayload (job kind src bucket step gen : Nat) (d : List Byte) : List Byte :=
  leBytes 2 job ++ leBytes 1 kind ++ leBytes 1 src ++ leBytes 2 bucket ++ zeros 2 ++ leBytes 8 step ++ leBytes 4 gen ++ zeros 4 ++
  fixLen 16 d ++ zeros 24

/-- The home copy is expelled: the gathers that coalesce over it are held under row 7 of R125 until it is rebuilt (R267). -/
def State.holdGathers (s : State) (k : PlaneIx) (j : Job) (b : Nat) : State :=
  let (rs, s) := s.takeGathers k j b
  s.each rs fun s x => (s.holdFrame x.2.1 x.2.2 true (some x.1) .none true).jobCtr k j.id .gathHeld

/-- The home plane expels a copy (R265): it is reported, the other devices of the share learn of it, its rebuild is planned from the source of
R267, and rebuilds of which it was the source start again from another copy. -/
def State.expel (s : State) (k : PlaneIx) (j : Job) (pj : PJob) (b dev : Nat) : State :=
  let s := (s.updShare k j.id b fun h => { h with expelled := dev :: h.expelled.filter (· != dev) }).jobCtr k j.id .expelled
  let s := s.shardReport k j pj b 1 (2 ^ dev)
  match (s.pjob k j.id).bind (·.findShare b) with
  | none => s
  | some h =>
    match s.rebuildSrc k j b h with
    | none => s.loseShare k j pj b (listMask (s.keepers j b))
    | some src =>
      let r : Rebuild := { srcDev := src, target := dev, step := pj.orec.step }
      let s := s.updShare k j.id b fun h => { h with
        rebuilds := h.rebuilds.filter (·.target != dev) ++ [r], digests := h.digests.filter (·.1 != dev) }
      let s := s.tellCopies k j pj b dev .check (s.keepers j b)
      let s := if dev = s.bidx then s.holdGathers k j b else s
      s.each (h.rebuilds.filter fun x => x.srcDev == dev && x.target != dev) fun s x =>
        if ((s.pjob k j.id).bind (·.findShare b)).any (·.halted) then s else s.restartRebuild k j pj b x

/-- A copy is known to be bad without a vote, on the home plane (R265): expelled where another good copy exists, lost where it was the source of
a rebuild in progress (R275), halted otherwise. -/
def State.knownBad (s : State) (k : PlaneIx) (j : Job) (pj : PJob) (h : Share) (dev : Nat) : State :=
  let b := h.bucket
  if h.expelled.contains dev || h.halted then s
  else if (s.goodCopies j b h).any (· != dev) then s.expel k j pj b dev
  else s.stopShare k j pj b (listMask (s.keepers j b)) (h.rebuilds.any fun r => r.srcDev == dev)

/-- On a mirror, a copy is expelled: its own, which waits for what the source sends, or another's, of which it may be the source (R267). -/
def State.mirrorExpels (s : State) (k : PlaneIx) (j : Job) (pj : PJob) (b dev : Nat) : State :=
  let s := s.updShare k j.id b fun h => { h with
    expelled := dev :: h.expelled.filter (· != dev), rebuilds := h.rebuilds.filter (·.target != dev) }
  match ((s.pjob k j.id).bind (·.findShare b)).bind (s.rebuildSrc k j b) with
  | some src => if dev = s.bidx || src = s.bidx then s.updShare k j.id b fun h => { h with
      rebuilds := h.rebuilds ++ [{ srcDev := src, target := dev, step := pj.orec.step }] } else s
  | none => s

/-- This device's own copy is known to be bad without a vote (R265): the home plane acts on it; a mirror expels it here and tells the home
plane. -/
def State.badCopy (s : State) (k : PlaneIx) (id b : Nat) : State :=
  match s.findJob id, s.pjob k id, (s.pjob k id).bind (·.findShare b) with
  | some j, some pj, some h =>
    if h.role == .home then s.knownBad k j pj h s.bidx
    else if h.role == .remote || h.stale s.bidx then s
    else (s.mirrorExpels k j pj b s.bidx).tellCopies k j pj b s.bidx .check [s.homeDev j b]
  | _, _, _ => s

/-- The digests held of a share for a generation. -/
def Share.digestsOf (h : Share) (gen : Nat) : List (Nat × List Byte) := (h.digests.filter (·.2.1 == gen)).map fun d => (d.1, d.2.2)

/-- The verdict of R265 on the digests taking part. -/
inductive Vote
  | fine
  | expel (dev : Nat)
  | halt
deriving DecidableEq, Repr

def digestVote (ds : List (Nat × List Byte)) : Vote :=
  match ds with
  | [a, b] => if a.2 == b.2 then .fine else .halt
  | [a, b, c] =>
    if a.2 == b.2 && b.2 == c.2 then .fine
    else if a.2 == b.2 then .expel c.1
    else if a.2 == c.2 then .expel b.1
    else if b.2 == c.2 then .expel a.1
    else .halt
  | _ => .fine

/-- The home plane compares a share's digests where a vote is due: once all are in, or with `now` (R265). -/
def State.digestCheck (s : State) (k : PlaneIx) (id b : Nat) (now : Bool) : State :=
  match s.findJob id, s.pjob k id, (s.pjob k id).bind (·.findShare b) with
  | some j, some pj, some h =>
    match h.voteGen with
    | none => s
    | some gen =>
      let ds := h.digestsOf gen
      let good := s.goodCopies j b h
      let miss := good.filter fun d => !ds.any (·.1 == d)
      if h.role != .home || h.halted || !(now || miss.isEmpty) then s
      else
        let part := ds.filter fun d => good.contains d.1
        let s := (s.jobCtr k id .digCmp).jobCtr k id .digMiss miss.length
        let s := s.updShare k id b fun h => { h with
          voteGen := none, digests := h.digests.filter fun d => gen < d.2.1 || !h.rebuilds.isEmpty }
        match digestVote part with
        | .fine => s
        | .expel d => s.expel k j pj b d
        | .halt => s.haltShare k j pj b (listMask (part.map (·.1)))
  | _, _, _ => s

/-- The digest of a share's indicative copy (R263). -/
def Share.indDigest (h : Share) : List Byte := digestOf h.ind

/-- A mirror sends its digest of the indicative copy to the home plane (R264). -/
def State.sendDigest (s : State) (k : PlaneIx) (j : Job) (pj : PJob) (h : Share) : State :=
  s.toDevice k j (s.homeDev j h.bucket)
    { hdr := { op := opDigest, job := j.id, bucket := h.bucket }
      payload := digestPayload j.id 1 s.bidx h.bucket (pj.orec.step - 1) pj.orec.gen h.indDigest } h.bucket

/-- At the drain of a step whose commit or clip makes `UPDATES` a multiple of `DIGK`: mirrors send their digests; the home plane records its
own, and a vote is due (R264, R265).  A copy that does not run in step takes no part (R268). -/
def State.sendDigests (s : State) (k : PlaneIx) (id : Nat) : State :=
  match s.findJob id, s.pjob k id with
  | some j, some pj =>
    s.each (pj.shares.filter fun h => h.kept && !h.halted) fun s h =>
      if h.role == .mirror then if h.stale s.bidx then s else s.sendDigest k j pj h
      else if j.mirrorMask h.bucket = 0 then s
      else
        let me := s.bidx
        (s.updShare k id h.bucket fun h => { h with
          voteGen := some pj.orec.gen
          digests := (if h.expelled.contains me then [] else [(me, pj.orec.gen, h.indDigest)]) ++
            h.digests.filter fun d => !(d.1 == me && d.2.1 == pj.orec.gen) }).digestCheck k id h.bucket false
  | _, _ => s

/-! ### Rebuilding a copy (R267, R268) -/

/-- Runs a logged step on a share with the step's own blocks, scale, count and bias powers, and flips it (R268 step 3, R274);
`arrays` is the generation of the P and SN of a mirror's KRONECKER blocks, `own` whether the plane computes them itself. -/
def State.replayStep (s : State) (k : PlaneIx) (j : Job) (b : Nat) (x : StepHdr) (own : Bool) (arrays : Nat) (vals : List W32) : State :=
  match s.pjob k j.id with
  | none => s
  | some old =>
    let s := s.updPJob k j.id fun pj => { pj with
      opt := x.opt, prec := x.prec, u := (unscale x.lscale x.acount).1,
      orec := { pj.orec with updates := x.updates, pow1 := x.pow1, pow2 := x.pow2 } }
    let r := s.runKernel k j b x.clipf j.hdr.redund 4 own arrays vals []
    let s := r.s.updPJob k j.id fun pj => { pj with opt := old.opt, prec := old.prec, u := old.u, orec := old.orec }
    s.updShare k j.id b fun h => { h with sel := !h.sel, kernelRan := false, kblocks := h.kblocks.map fun q => q.flip (x.updates % 2) }

/-- The roots received for a generation are installed whole (R261, R116). -/
def KBlock.installRecv (q : KBlock) (b gen : Nat) : KBlock :=
  let one (code : Nat) (cur : List W32) : List W32 := if recvWhole q.recv code gen (b * b) then recvArr q.recv code gen (b * b) else cur
  { q with ql := one ccQL q.ql, qr := one ccQR q.qr, recv := q.recv.filter fun x => !((x.code == ccQL || x.code == ccQR) && x.gen ≤ gen) }

/-- The roots received whole for a generation, by content code. -/
def KBlock.rootsIn (q : KBlock) (b gen : Nat) : List Nat := [ccQL, ccQR].filter fun c => recvWhole q.recv c gen (b * b)

/-- A mirror installs the roots it has received for a generation, each counted in `ROOTREF` (R121, R123, R261). -/
def State.installRecvShare (s : State) (k : PlaneIx) (id b edge gen : Nat) : State :=
  match (s.pjob k id).bind (·.findShare b) with
  | none => s
  | some h =>
    let n := (h.kblocks.map fun q => (q.rootsIn edge gen).length).sum
    (s.updShare k id b fun h => { h with kblocks := h.kblocks.map fun q => q.installRecv edge gen }).jobCtr k id .rootRef n

/-- The words of an array of a rebuilt copy. -/
def Rebuild.array (r : Rebuild) (i n : Nat) : List W32 := recvArr r.recv (i + 1) r.gen n

/-- Every array of the copy, and of its blocks, has arrived for the rebuild's generation (R268 step 3). -/
def Share.rebuildIn (h : Share) (r : Rebuild) (arrays b : Nat) : Bool :=
  (List.range arrays).all (fun i => recvWhole r.recv (i + 1) r.gen h.elems.length) &&
  h.kblocks.all fun q => [ccL, ccR, ccQL, ccQR].all fun c => recvWhole q.recv c r.gen (b * b)

/-- A block as the source sent it. -/
def KBlock.rebuilt (q : KBlock) (b gen : Nat) : KBlock :=
  let q' := q.installRecv b gen
  { q' with stageL := none, stageR := none, buf0 := recvArr q.recv ccL gen (b * b), buf1 := recvArr q.recv ccR gen (b * b), mapL := 0, mapR := 1,
            recv := q'.recv.filter fun x => x.code != ccL && x.code != ccR }

/-- The logged steps that a rebuilt copy of generation `gen` still has to take, in step order. -/
def PJob.stepsFrom (pj : PJob) (gen : Nat) : List StepHdr :=
  ((pj.slog.map (·.2)).filter fun x => gen ≤ x.genin && !x.incomplete && (x.lout == 1 || x.lout == 2)).mergeSort fun a b => a.step ≤ b.step

/-- The rebuild of a device's copy is complete: its digest equals the source's of the same generation (R268 step 4); a home copy serves the
gathers held for it (R267). -/
def State.rebuildDone (s : State) (k : PlaneIx) (j : Job) (pj : PJob) (b dev : Nat) : State :=
  let s := s.updShare k j.id b fun h => { h with
    rebuilds := h.rebuilds.filter (·.target != dev), expelled := h.expelled.filter (· != dev), digests := h.digests.filter (·.1 != dev) }
  let s := ((s.jobCtr k j.id .rebuilds).shardReport k j pj b 2 (2 ^ dev)).tellCopies k j pj b dev .ok (s.keepers j b)
  if dev = s.bidx then s.retryGathers k j.id else s

/-- The home plane compares the digest of a rebuilt copy with its source's of the same generation, once it holds both (R268 step 4). -/
def State.rebuildVote (s : State) (k : PlaneIx) (id b : Nat) : State :=
  match s.findJob id, s.pjob k id, (s.pjob k id).bind (·.findShare b) with
  | some j, some pj, some h =>
    if h.role != .home then s
    else s.each (h.rebuilds.filter (·.started)) fun s r =>
      match h.digests.find? (fun t => t.1 == r.target && h.digests.any fun x => x.1 == r.srcDev && x.2.1 == t.2.1) with
      | none => s
      | some t =>
        if h.digests.any fun x => x.1 == r.srcDev && x.2.1 == t.2.1 && x.2.2 == t.2.2 then s.rebuildDone k j pj b r.target
        else s.restartRebuild k j pj b r
  | _, _, _ => s

/-- A digest of a copy that takes part in a rebuild is kept on the home plane. -/
def State.keepDigest (s : State) (k : PlaneIx) (id b dev gen : Nat) (d : List Byte) : State :=
  s.updShare k id b fun h => { h with digests := (dev, gen, d) :: h.digests.filter fun x => !(x.1 == dev && x.2.1 == gen) }

/-- The target writes the copy, takes the logged steps, and runs in step again; its digest goes to the home plane (R268 steps 3 and 4). -/
def State.finishRebuild (s : State) (k : PlaneIx) (j : Job) (pj : PJob) (b : Nat) (r : Rebuild) : State :=
  let n := wordsOf pj.opt
  let edge := blockEdge pj.prec
  let me := s.bidx
  let s := s.updShare k j.id b fun h =>
    let img := if pj.opt.stochrnd then (r.array n h.elems.length).map fun w => w.setWidth 16 else []
    { h.setInd ((List.range n).map fun i => r.array i h.elems.length) img with
      kblocks := h.kblocks.map fun q => q.rebuilt edge r.gen
      rebuilds := h.rebuilds.map fun x => if x.target == me then { x with recv := [], inStep := true } else x }
  let s := s.each (pj.stepsFrom r.gen) fun s x =>
    match (s.pjob k j.id).bind (·.findShare b) with
    | none => s
    | some h =>
      let own := h.role == .home
      let s := if own && pj.opt.kernel = 4 then s.replayRoots k j x (some b) else s
      let s := s.replayStep k j b x own (if x.lout = 2 then x.gensub + 1 else x.gensub) (h.logVals j.logl x.step)
      if own then s.installShare k j.id b else s.installRecvShare k j.id b edge x.genout
  let s := s.updPJob k j.id fun pj =>
    let again := pj.refreshes.filter fun x => ((pj.blockList[x.1]?).any (·.1 == b)) && !pj.refreshQ.contains x
    if pj.opt.kernel = 4 && [FState.run, .await, .commit, .rescale, .discard].contains pj.fs then { pj with refreshQ := pj.refreshQ ++ again }
    else pj
  match s.pjob k j.id, (s.pjob k j.id).bind (·.findShare b) with
  | some pj, some h =>
    let s := if h.commaDone && (pj.fs == .run || pj.fs == .await || pj.fs == .commit) then s.updPlane k fun p =>
        Plane.flow { p with qSpill := p.qSpill.push 128 { job := j.id, bucket := b, chunk := 0, whole := true } }
      else s
    if h.role == .mirror then s.sendDigest k j pj h
    else (s.keepDigest k j.id b s.bidx pj.orec.gen h.indDigest).rebuildVote k j.id b
  | _, _ => s

/-- The target looks whether everything has come. -/
def State.rebuildCheck (s : State) (k : PlaneIx) (id b : Nat) : State :=
  match s.findJob id, s.pjob k id, (s.pjob k id).bind (·.findShare b) with
  | some j, some pj, some h =>
    match h.rebuilds.find? (·.target == s.bidx) with
    | none => s
    | some r =>
      let arrays := wordsOf pj.opt + (if pj.opt.stochrnd then 1 else 0)
      if r.started && !r.inStep && h.rebuildIn r arrays (blockEdge pj.prec) then s.finishRebuild k j pj b r else s
  | _, _, _ => s

/-- The source sends its indicative copy of a share to a rebuild's target, and the roots and statistics of its blocks (R268 step 1). -/
def State.sendCopy (s : State) (k : PlaneIx) (j : Job) (h : Share) (target gen : Nat) : State :=
  let s := s.each h.ind.zipIdx fun s (ws, i) => s.sendArray k j target h.bucket (i + 1) 0 gen ws
  let s := s.each (if h.indImg.isEmpty then [] else (chunksOf 4096 h.indImg).zipIdx) fun s (c, i) =>
    s.toDevice k j target { hdr := { op := opCkpt, fmt := 1, bucket := h.bucket, comma := h.ind.length + 1, elemoff := 4096 * i, gen := gen }
                            payload := packE8m7 c } h.bucket
  s.each h.kblocks.zipIdx fun s (q, i) =>
    s.each [(ccL, q.stat 0), (ccR, q.stat 1), (ccQL, q.ql), (ccQR, q.qr)] fun s x => s.sendArray k j target h.bucket x.1 i gen x.2

/-- At the drain that begins a step, the rebuilds that wait begin: the plane that is their source sends its copy (R268 step 1). -/
def State.startRebuilds (s : State) (k : PlaneIx) (id : Nat) : State :=
  match s.findJob id, s.pjob k id with
  | some j, some pj =>
    let gen := pj.orec.gen
    let me := s.bidx
    s.each pj.shares fun s h =>
      let due (r : Rebuild) : Bool := !r.started && (r.srcDev == me || h.role == .home)
      let s := s.updShare k id h.bucket fun h => { h with
        rebuilds := h.rebuilds.map fun r => if due r then { r with started := true, step := pj.orec.step, gen := gen } else r }
      let s := if h.role == .home && h.rebuilds.any (·.srcDev == me) then s.keepDigest k id h.bucket me gen h.indDigest else s
      s.each (h.rebuilds.filter fun r => due r && r.srcDev == me) fun s r => s.sendCopy k j h r.target gen
  | _, _ => s

/-- While a rebuild runs, its source's digest of each generation that becomes indicative is at hand on the home plane: the home plane's own,
or one that the source sends (R268 step 4; DESIGN CHOICE, notes/assumptions 59). -/
def State.keepDigests (s : State) (k : PlaneIx) (id : Nat) : State :=
  match s.findJob id, s.pjob k id with
  | some j, some pj => s.each (pj.shares.filter fun h => h.rebuilds.any (·.srcDev == s.bidx)) fun s h =>
      if h.role == .mirror then s.sendDigest k j pj h else (s.keepDigest k id h.bucket s.bidx pj.orec.gen h.indDigest).rebuildVote k id h.bucket
  | _, _ => s

/-- A status frame from the home plane or a mirror about a copy (notes/assumptions 59): the home plane takes a mirror's word that its own
copy is bad; a mirror takes the home plane's word about any copy. -/
def State.copyStatus (s : State) (lane : DevLane) (f : Frame) : State :=
  let k := planeOf lane
  let dev := f.hdr.chunk
  let far := s.farDev lane
  let st := fieldAt f.payload 2 2
  match s.openOn k f.hdr.job with
  | none => s.frmDrop k
  | some (j, pj) => match pj.findShare f.hdr.bucket with
    | none => s.frmDrop k
    | some h =>
      if jobEnded j pj || !(s.keepers j h.bucket).contains dev then s.frmDrop k
      else if h.role == .home && st = Status.check.code && dev = far then s.knownBad k j pj h dev
      else if h.role == .mirror && far = s.homeDev j h.bucket && st = Status.check.code then s.mirrorExpels k j pj h.bucket dev
      else if h.role == .mirror && far = s.homeDev j h.bucket && st = 0 then s.updShare k j.id h.bucket fun h => { h with
        rebuilds := h.rebuilds.filter (·.target != dev), expelled := h.expelled.filter (· != dev) }
      else s.frmDrop k

/-! ### `DIGEST` frames (R264, R265, R268, R269) -/

/-- A shard digest from a mirror: of a copy that takes part in a rebuild, or for a vote. -/
def State.shardDigest (s : State) (lane : DevLane) (f : Frame) (j : Job) (pj : PJob) : State :=
  let k := planeOf lane
  let b := fieldAt f.payload 4 2
  let gen := fieldAt f.payload 0x10 4
  let dev := s.farDev lane
  match pj.findShare b with
  | none => s.frmDrop k
  | some h =>
    let part := h.rebuilds.any fun r => r.started && (r.target == dev || r.srcDev == dev)
    let open' := pj.orec.gen < gen || h.voteGen == some gen
    if h.role != .home || h.halted || !(s.keepers j b).contains dev || !(part || (open' && !h.expelled.contains dev)) then s.frmDrop k
    else ((s.keepDigest k j.id b dev gen (slice f.payload 0x18 16)).rebuildVote k j.id b).digestCheck k j.id b false

/-- The judge of member digests: the lowest device that has members of the job, on the lowest plane of `PLANES` (R269). -/
def Job.judge (j : Job) : Nat := ((j.members.map (·.mdev)).min?).getD 0

/-- A member digest: kept by the judge, or sent on to it as a frame of the plane's own (R269). -/
def State.memberDigest (s : State) (k : PlaneIx) (j : Job) (m : Nat) (f : Frame) : State :=
  if (planesOf j.hdr.planes.toNat).head? != some k then s.frmDrop k
  else if j.judge = s.bidx then
    s.updPJob k j.id fun pj => { pj with memDigs := (m, slice f.payload 8 8 ++ slice f.payload 0x18 16) :: pj.memDigs.filter (·.1 != m) }
  else
    let p := f.payload
    s.toDevice k j j.judge { hdr := { op := opDigest, job := j.id }
                             payload := digestPayload j.id 2 (fieldAt p 3 1) 0 (fieldAt p 8 8) (fieldAt p 0x10 4) (slice p 0x18 16) } 0

/-- The fields of a digest payload that its kind requires to be zero are (R6, R264). -/
def digestZeros (b : List Byte) : Bool :=
  (fieldAt b 2 1 == 1 || zeroAt b 4 2) && zeroAt b 6 2 && zeroAt b 0x14 4 && zeroAt b 0x28 24

/-- A `DIGEST` frame: a shard digest on a peer lane, or a member's own, which another device may have sent on. -/
def State.digestIn (s : State) (lane : DevLane) (f : Frame) : State :=
  let k := planeOf lane
  let kind := fieldAt f.payload 2 1
  if s.isPeer lane then
    match s.openOn k f.hdr.job with
    | none => s.frmDrop k
    | some (j, pj) =>
      if jobEnded j pj || !digestZeros f.payload then s.frmDrop k
      else if kind = 1 then s.shardDigest lane f j pj
      else match pj.group[fieldAt f.payload 3 1]? with
        | some m => if kind = 2 then s.memberDigest k j m f else s.frmDrop k
        | none => s.frmDrop k
  else match s.admitSender lane f true with
    | .error st => s.refuseFrame lane f st none
    | .ok (j, pj, m) =>
      if kind = 2 && digestZeros f.payload && pj.groupNo m == some (fieldAt f.payload 3 1) then s.memberDigest k j m f
      else s.refuseFrame lane f .param none

/-- One operation timeout after the home plane's drain (R265).  A rebuild that has not brought its digest by then has lost a frame, and
starts again (R268; DEDUCED, notes/assumptions 47). -/
def State.digestTimeout (s : State) (k : PlaneIx) (id b : Nat) : State :=
  match s.openOn k id, (s.pjob k id).bind (·.findShare b) with
  | some (j, pj), some h =>
    if jobEnded j pj || h.role != .home then s
    else
      let s := s.digestCheck k id b true
      s.each (h.rebuilds.filter (·.started)) fun s r =>
        if ((s.pjob k id).bind (·.findShare b)).any (·.halted) then s else s.restartRebuild k j pj b r
  | _, _ => s

def execDigestCompareTimeout (k : PlaneIx) (job bucket : Nat) (s : State) : Out := .next (s.digestTimeout k job bucket)

/-- The largest set of members with equal digests. -/
def largestSet (ds : List (Nat × List Byte)) : List Nat :=
  (ds.map fun d => (ds.filter fun x => x.2 == d.2).map (·.1)).foldl (fun best l => if best.length < l.length then l else best) []

/-- The judge's verdict one operation timeout after a full stop whose `STEP` is a multiple of `DIGK` (R269). -/
def State.judgeMembers (s : State) (k : PlaneIx) (id : Nat) : State :=
  match s.openOn k id with
  | none => s
  | some (j, pj) =>
    let t := pj.orec.step - 1
    if pj.opt.kernel != 0 || j.digk = 0 || pj.orec.step = 0 || t % j.digk != 0 || j.judge != s.bidx || jobEnded j pj ||
        (planesOf j.hdr.planes.toNat).head? != some k then s
    else
      let ds := (pj.memDigs.filter fun d => fieldAt d.2 0 8 == t && pj.group.contains d.1).map fun d => (d.1, d.2.drop 8)
      let set := largestSet ds
      let maj : Bool := pj.group.length < 2 * set.length
      let out := if maj then pj.group.filter fun m => !set.contains m else []
      let s := (s.jobCtr k id .digCmp).jobCtr k id .digMiss (pj.group.length - ds.length)
      let s := s.updPJob k id fun pj => { pj with memDigs := pj.memDigs.filter fun d => t < fieldAt d.2 0 8 }
      s.report 0xF00A 0 id (planeBit k) (leBytes 2 id ++ leBytes 1 maj.toNat ++ zeros 5 ++ leBytes 8 t ++ leBytes 16 (listMask out))

def execMemberDigestJudge (k : PlaneIx) (job : Nat) (s : State) : Out := .next (s.judgeMembers k job)

/-! ### `CKPT` frames at a mirror or a rebuild target (R261, R268) -/

/-- The words a frame carries: FP32, or E8M7 codes in the low halves; a NaN is written as the canonical one (R38). -/
def ckptVals (f : Frame) : List W32 :=
  if f.hdr.fmt = 1 then (chunksOf 2 f.payload).map fun b =>
    let c : W16 := BitVec.ofNat 16 (leNat b)
    if isNaN (c.setWidth 32 <<< 16) then (qNaN >>> 16) else c.setWidth 32
  else (chunksOf 4 f.payload).map fun b => canonWord (BitVec.ofNat 32 (leNat b))

/-- The words of a frame that lie within an array of `n` words; the rest is padding. -/
def ckptArr (f : Frame) (n : Nat) : ArrIn :=
  { code := f.hdr.comma, gen := f.hdr.gen, off := f.hdr.elemoff, vals := (ckptVals f).take (n - f.hdr.elemoff) }

/-- The code names an array of the copy (R261), or the image after its arrays. -/
def arrayCode (c : Nat) : Bool := 1 ≤ c && c ≤ 5

/-- The code names a matrix of a block. -/
def matrixCode (c : Nat) : Bool := ccP ≤ c && c ≤ ccR

/-- A rebuild target takes an array of the copy: the first one of a generation starts, or starts again, the rebuild on it. -/
def Share.takeArray (h : Share) (dev me step : Nat) (a : ArrIn) : Share :=
  let old := h.rebuilds.find? (·.target == me)
  let r : Rebuild := match old with
    | some r => if r.started && r.gen == a.gen then r else { r with srcDev := dev, started := true, gen := a.gen, recv := [], inStep := false }
    | none => { srcDev := dev, target := me, step := step, started := true, gen := a.gen }
  { h with rebuilds := h.rebuilds.filter (·.target != me) ++ [{ r with recv := r.recv ++ [a] }],
           expelled := if h.expelled.contains me then h.expelled else me :: h.expelled }

/-- The format of a `CKPT` frame's words: FP32, or E8M7 for the image that follows the arrays (R30, R74). -/
def PJob.ckptFmtOk (pj : PJob) (f : Frame) : Bool :=
  f.hdr.fmt == if pj.opt.stochrnd && f.hdr.comma == wordsOf pj.opt + 1 then 1 else 0

/-- A frame of mirror arrays or of a rebuild: kept until it is used.  One for a member goes on to it (R163, R185); words in a format in which
none are kept are answered `FORMAT` (R30, R32). -/
def State.ckptIn (s : State) (lane : DevLane) (f : Frame) (keep : Keep := {}) : State :=
  let k := planeOf lane
  match s.openOn k f.hdr.job with
  | none => s.frmDrop k
  | some (j, pj) =>
    let b := f.hdr.bucket
    if if f.hdr.uni then 1 < f.hdr.fmt else !pj.ckptFmtOk f then (s.statusDevice lane f .format).formatFlag k j.id
    else if f.hdr.uni then s.replicate lane f keep
    else match pj.findShare b with
    | none => s.frmDrop k
    | some h =>
      let dev := s.farDev lane
      let edge := blockEdge pj.prec
      if jobEnded j pj || !h.kept || !(s.keepers j b).contains dev then s.frmDrop k
      else if arrayCode f.hdr.comma && f.hdr.chunk = 0 && f.hdr.elemoff < h.elems.length && (h.role == .mirror || h.expelled.contains s.bidx) then
        (s.updShare k j.id b fun h => h.takeArray dev s.bidx pj.orec.step (ckptArr f h.elems.length)).rebuildCheck k j.id b
      else if matrixCode f.hdr.comma && f.hdr.chunk < h.kblocks.length && f.hdr.elemoff < edge * edge then
        (s.updShare k j.id b fun h => h.updBlock f.hdr.chunk fun q => { q with recv := q.recv ++ [ckptArr f (edge * edge)] }).rebuildCheck
          k j.id b
      else s.frmDrop k

/-! ### Copies of `NOTICE` and `RETRACT` (R187) -/

/-- A copy arrives on a peer lane, and keeps its room in the frame buffer until it goes on; with `UNI` it is for member `MEMB` alone
(R185). -/
def State.noticeIn (s : State) (lane : DevLane) (f : Frame) (keep : Keep := {}) : State :=
  let k := planeOf lane
  match s.openOn k f.hdr.job with
  | none => s.frmDrop k
  | some (j, _) =>
    if f.hdr.uni then s.replicate lane f keep
    else
      let src := s.farDev lane
      let l := (laneIn lane).val
      let old := (s.plane k).notices.find? fun n => n.job == j.id && n.src == src && n.op == f.hdr.op && n.frame.payload == f.payload
      let c : NoticeCopy := match old with
        | some n => { n with lanes := l :: n.lanes }
        | none => { job := j.id, src := src, op := f.hdr.op, frame := f, lanes := [l], cells := keep.cells, ovf := keep.ovf, later := keep.later }
      let s := s.updPlane k fun p => { p with notices := match old with
        | some n => p.notices.replace n c
        | none => p.notices ++ [c] }
      s.noticeCheck k c false

/-- Copies still missing one operation timeout after the first (R187). -/
def execNoticeCopyTimeout (k : PlaneIx) (job srcDev : Nat) (s : State) : Out :=
  .next (match (s.plane k).notices.find? fun n => n.job == job && n.src == srcDev && !n.done with
    | none => s
    | some c => (s.noticeCheck k c true).planeCtr k .peerWait)

end Sys2Proof.Machine
end

