-- ==== Sys2Proof/Machine/FullStop.lean ====
section
/-! DEFINITION. The optimizer sequencer and the full stop: kernel runs (R85, R86), root refreshes (R114 to R117), the scalar combiner (R12,
R90, R242), the three paths (R89 to R98), the drain (R17, R116, R154), and the fence orders and timers of a job (R101, R148, R161,
R162). -/
namespace Sys2Proof.Machine

/-! ### Kernel runs (R85, R86) -/

/-- The kernel is not run on a share: R86 on the home plane, a poisoned share (R67), or a copy that is being rebuilt (R268). -/
def PJob.skipKernel (pj : PJob) (me : Nat) (h : Share) : Bool :=
  h.poisoned || h.stale me || (h.role == .home && (pj.stepFlags.overflow || pj.stepFlags.poisoned))

/-- The KRONECKER job whose rescaling pass the plane's engine serves: the one whose full stop came first among those that no read holds
(R120, R163). -/
def State.rescaleFirst (s : State) (k : PlaneIx) : Option Nat :=
  let l := (s.plane k).jobs.filter fun pj => pj.fs == .rescale && pj.opt.kernel == 4 && !s.readHolds k pj.id
  (l.foldl (fun (best : Option PJob) pj => if best.all fun x => pj.stopSeq < x.stopSeq then some pj else best) none).map (·.id)

/-- A queue entry can be taken: a mirror's KRONECKER share waits for its arrays (R261), and products wait for a rescaling pass (R120). -/
def State.kernelReady (s : State) (k : PlaneIx) (e : QEntry) : Bool :=
  match s.pjob k e.job, (s.pjob k e.job).bind (·.findShare e.bucket) with
  | some pj, some h =>
    pj.opt.kernel != 4 || pj.skipKernel s.bidx h ||
    ((h.role != .mirror || h.arraysIn (blockEdge pj.prec) pj.subgen) && (s.rescaleFirst k).isNone)
  | _, _ => true

/-- The entry leaves the Complete queue and its credit lets a waiting one in. -/
def StageQ.takeOne (q : StageQ) (e : QEntry) : StageQ :=
  if q.taken.contains e then { q with taken := q.taken.erase e } else StageQ.letIn { q with entries := q.entries.erase e }

/-- The result of a share goes to the commit writer in blocks of 4 KiB (R19). -/
def State.sendBlocks (s : State) (k : PlaneIx) (id b words : Nat) : State :=
  s.updPlane k fun p => Plane.flow ((List.range ((words + blockWords - 1) / blockWords)).foldl
    (fun p i => { p with qResult := p.qResult.push 256 { job := id, bucket := b, chunk := i } }) p)

/-- The kernel runs on a completed share, the slots are released, and the pair may follow (R59, R65, R85, R91).  Where the pair has gone, for a
mirror or a copy that runs in step again, the share can poison the step no more, so that the copy counts as bad (DEDUCED,
notes/assumptions 42). -/
def State.kernelRun (s : State) (k : PlaneIx) (e : QEntry) (flt : ItemFault) : State :=
  match s.findJob e.job, s.pjob k e.job, (s.pjob k e.job).bind (·.findShare e.bucket) with
  | some j, some pj, some h =>
    let b := e.bucket
    if pj.skipKernel s.bidx h then (s.updShare k j.id b Share.release).checkPair k j.id
    else
      let ei : ErrInfo := { block := 9, cls := 0, index := flt.index, job := j.id, op := pj.opt.kernel, opk := 4, bucket := b, bits := flt.mask,
                            word := BitVec.ofNat 32 flt.index, kernel := pj.opt.kernel }
      let (state, s) := s.ctlFault k { ei with bits := 0, word := 0 } flt.ctl
      let (lost, s) := s.parityRead k ei flt.parity
      if (s.pjob k j.id).isNone then s
      else if lost then ((s.poison k j.id b).badCopy k j.id b |>.updShare k j.id b Share.release).checkPair k j.id
      else
        let own := h.role == .home
        let r := s.runKernel k j b fone j.hdr.redund 4 own pj.subgen h.reduced flt.words
        let bad := r.bad || r.fault || state
        let s := if bad then r.s.poison k j.id b else r.s
        let s := if bad && pj.pairSent then s.badCopy k j.id b else s
        let s := if r.ovf && own then s.overflow k j.id b else s
        let s := if own then s.sendPSN k j b pj.subgen r.arr else s
        let s := s.sendBlocks k j.id b (wordsOf pj.opt * h.elems.length)
        (s.updShare k j.id b Share.release).checkPair k j.id
  | _, _, _ => s

/-- The optimizer sequencer takes the next entry of the Complete queue, once the Result queue has a credit (R19). -/
def execKernelRun (k : PlaneIx) (flt : ItemFault) (s : State) : Out :=
  .next (if (s.plane k).qResult.stalled 256 then s
    else match ((s.plane k).qComplete.taken ++ (s.plane k).qComplete.entries).find? (s.kernelReady k) with
    | none => s
    | some e => (s.updPlane k fun p => Plane.flow { p with qComplete := p.qComplete.takeOne e }).kernelRun k e flt)

/-- The plane's engine can take the next refresh of a job: nothing of a higher priority is ready, and no job of a lower identifier has one
(R120). -/
def State.refreshTurn (s : State) (k : PlaneIx) (id : Nat) : Bool :=
  (s.rescaleFirst k).isNone && (s.plane k).jobs.all (fun pj => pj.refreshQ.isEmpty || id ≤ pj.id) &&
  ((s.plane k).qResult.stalled 256 || !((s.plane k).qComplete.taken ++ (s.plane k).qComplete.entries).any fun e =>
    (s.pjob k e.job).any (fun pj => pj.opt.kernel == 4 && !((pj.findShare e.bucket).any (pj.skipKernel s.bidx))) && s.kernelReady k e)

/-- The next scheduled refresh of a job ends; its root is staged until the drain completes (R115 to R117).  A statistics word that stays
unreadable poisons the bucket, and its copy is bad (R244, R265); the root is not staged. -/
def State.refreshDone (s : State) (k : PlaneIx) (id : Nat) (flt : ItemFault) : State :=
  match s.findJob id, s.pjob k id with
  | some j, some pj => match pj.refreshQ with
    | [] => s
    | x :: xs =>
      if !s.refreshTurn k id then s
      else
        let s := s.updPJob k id fun pj => { pj with refreshQ := xs }
        let b := ((pj.blockList[x.1]?).map (·.1)).getD 0
        let ei : ErrInfo := { block := 9, cls := 0, index := flt.index, job := id, op := 4, opk := 7, bucket := b, bits := flt.mask,
                              word := BitVec.ofNat 32 flt.index, kernel := 4 }
        let (state, s) := s.ctlFault k { ei with bits := 0, word := 0 } flt.ctl
        let (lost, s) := s.parityRead k ei flt.parity
        if (s.pjob k id).isNone then s
        else if lost || state then (if lost then (s.poison k id b).badCopy k id b else s.poison k id b).checkPair k id
        else s.refreshRoot k j x.1 x.2 flt
  | _, _ => s

def execRootRefreshDone (k : PlaneIx) (job : Nat) (flt : ItemFault) (s : State) : Out := .next (s.refreshDone k job flt)

/-! ### The beginning of a step -/

/-- The blocks whose `FROM` has come, in the order they arrived: the later one stands (R72, R301). -/
def applyPending {α : Type} (step : Nat) (cur : α) (l : List (Nat × α)) : α × List (Nat × α) :=
  ((l.filter fun x => x.1 ≤ step).foldl (fun _ x => x.2) cur, l.filter fun x => step < x.1)

/-- The step header that the plane keeps from the step's start (R270, R272). -/
def PJob.header (pj : PJob) : StepHdr :=
  { lout := 0, incomplete := true, step := pj.orec.step, updates := pj.orec.updates, genin := pj.orec.gen, gensub := pj.subgen, genout := 0,
    lscale := pj.orec.lscale, acount := pj.acount, clipf := 0, pow1 := pj.orec.pow1, pow2 := pj.orec.pow2, opt := pj.opt,
    prec := if pj.opt.kernel = 4 then pj.prec else {} }

/-- Puts a header into its log slot. -/
def PJob.setHdr (pj : PJob) (logl : Nat) (x : StepHdr) : PJob :=
  { pj with slog := (x.step % logl, x) :: pj.slog.filter (·.1 != x.step % logl) }

/-- A step begins on a plane (R72, R78, R86, R87, R91, R114): pending blocks, A and u, the subjunctive number, the histogram of the step,
and the pair of a plane with nothing to wait for (R12, R154). -/
def State.beginStep (s : State) (k : PlaneIx) (id : Nat) : State :=
  match s.findJob id, s.pjob k id with
  | some j, some pj =>
    let o := applyPending pj.orec.step pj.opt pj.pendOpt
    let q := applyPending pj.orec.step pj.prec pj.pendPrec
    let pj : PJob := { pj with opt := o.1, pendOpt := o.2, prec := q.1, pendPrec := q.2 }
    let a := acountOf { j.hdr with opt := pj.opt } pj.group.length
    let u := unscale pj.orec.lscale a
    let pj : PJob := { pj with
      subgen := pj.orec.nextgen, waitWord := none, acount := a, u := u.1, stepFlags := {}, wordFlags := {}, pairSent := false, outcome := 0,
      histNow := { step := pj.orec.step }, fs := .run, refLateSeen := false, refreshQ := if pj.opt.kernel = 4 then pj.refreshes else [] }
    let cs := stepConsts pj.opt pj.orec.pow1 pj.orec.pow2 pj.u fone
    let pj := pj.setHdr j.logl pj.header
    let s := (s.updPJob k id fun _ => pj).arith k id uVec (u.2 ||| (if pj.opt.kernel = 0 then 0 else cs.2))
    s.checkPair k id
  | _, _ => s

/-! ### The scalar combiner (R12, R90, R242) -/

/-- The majority of three words: the word that stands, none where all three differ, and the odd chain. -/
def majority3 (a b c : Nat) : Option Nat × Option Nat :=
  if a = b then (some a, if b = c then none else some 2)
  else if a = c then (some a, some 1)
  else if b = c then (some b, some 0)
  else (none, none)

/-- A chain that has been left out: the lowest remaining one computes its order once more (R253). -/
def State.chainFor (s : State) (c : Nat) : Nat :=
  if s.host.hpfault.getLsbD c then ((List.range 3).find? fun x => !s.host.hpfault.getLsbD x).getD c else c

/-- Three words of a combine: the plain word under the chains' disturbances, of `bits` bits each. -/
def chainWords (w bits masks : Nat) : Nat × Nat × Nat :=
  (w ^^^ masks % 2 ^ bits, w ^^^ masks / 2 ^ bits % 2 ^ bits, w ^^^ masks / 2 ^ (2 * bits) % 2 ^ bits)

/-- The record of a disagreement between chains (R242): one for the combine, for the total where it disagrees. -/
def State.chainError (s : State) (job : Nat) (w : Nat × Nat × Nat) : State :=
  let r := majority3 w.1 w.2.1 w.2.2
  let base : ErrInfo := { block := 0x0C, cls := 5, opk := 9, job := job, word := BitVec.ofNat 32 (r.1.getD w.1),
                          bits := BitVec.ofNat 32 (w.1 ^^^ (if w.1 = w.2.1 then w.2.2 else w.2.1)) }
  match r with
  | (none, _) => s.combError (s.chainFor 0) { base with disp := dRetried }
  | (some _, none) => s
  | (some _, some 0) => s.combError (s.chainFor 0) { base with cls := 4, disp := dRetried ||| dRetryOk ||| dCheckWin }
  | (some _, some c) => s.combError (s.chainFor c) { base with cls := 3, disp := dRetried ||| dRetryOk }

/-- The total and the flag word that the three chains settle on; where all three differ, poison, and what no rule gives is a free value
(R242, notes/assumptions 3). -/
def State.settleCombine (s : State) (job : Nat) (tot : W32) (fl : Flags) (totalFault flagFault : Nat) : W32 × Flags × State :=
  let tw := chainWords tot.toNat 32 totalFault
  let fw := chainWords fl.bits 4 flagFault
  let t := majority3 tw.1 tw.2.1 tw.2.2
  let f := majority3 fw.1 fw.2.1 fw.2.2
  let s := if t.1.isNone || t.2.isSome then s.chainError job tw else s.chainError job fw
  let (n, s) := s.takeFresh
  let rd := (Config.reading n).toNat
  let total := BitVec.ofNat 32 (t.1.getD (rd % 2 ^ 32))
  let flags : Flags := match f.1 with
    | some v => Flags.ofBits v
    | none => { overflow := rd.testBit 32, poisoned := true, abandon := false, drain := rd.testBit 33 }
  (total, if t.1.isNone then { flags with poisoned := true } else flags, s)

/-- The combine of a job and step: pairs in ascending plane order (R12), three times (R242), and the word to every plane of the job. -/
def State.combine (s : State) (j : Job) (step : Nat) (pairs : List (Nat × W32 × Flags)) (totalFault flagFault : Nat) : State :=
  let ps := (List.range 8).filterMap fun k => pairs.lookup k
  let tot := match ps with
    | [] => 0
    | x :: xs => xs.foldl (fun a y => (fadd a y.1).1) x.1
  let fl := ps.foldl (fun a x => a.or x.2) {}
  let r := s.settleCombine j.id tot fl totalFault flagFault
  let s := r.2.2
  let s := { s with comb := { s.comb with
    ents := s.comb.ents.filter fun e => !(e.job == j.id && e.step == step)
    dropped := if r.2.1.abandon then (j.id, step) :: s.comb.dropped.filter (·.1 != j.id) else s.comb.dropped } }
  let s := s.each (s.heldPlanes j) fun s k => s.updPlane k fun p => p.pushDown (.combined j.id step r.1 r.2.1)
  let s := s.updJob j.id fun j => { j with lastComb := step }
  if j.ringHold then s.fenceJob j.id 1 else s

/-- A pair dropped and counted (R90). -/
def State.pairDrop (s : State) : State :=
  (s.updHost fun h => { h with pairdrop := satAdd 32 h.pairdrop 1 }).setErrsum [esPairDrp]

/-- The pairs held for a job and step. -/
def Combiner.pairsOf (c : Combiner) (job step : Nat) : List (Nat × W32 × Flags) :=
  ((c.ents.find? fun e => e.job == job && e.step == step).map (·.pairs)).getD []

/-- The combiner takes a pair (R90). -/
def State.takePair (s : State) (k : PlaneIx) (x : Pair) (totalFault flagFault : Nat) : State :=
  match s.findJob x.job with
  | none => s.pairDrop
  | some j =>
    if !j.st.isOpen then s.pairDrop
    else if !j.st.isActive || s.comb.dropped.contains (x.job, x.step) then s
    else
      let ps := s.comb.pairsOf x.job x.step
      if !j.hdr.planes.getLsbD k.val || ps.any (·.1 == k.val) || (x.step : Int) ≤ j.lastComb then s.pairDrop
      else
        let ps := (k.val, x.norm, x.flags) :: ps
        if j.planes.all fun q => ps.any (·.1 == q.val) then s.combine j x.step ps totalFault flagFault
        else
          let ent : CombEnt := { job := x.job, step := x.step, pairs := ps }
          { s with comb := { s.comb with ents := ent :: s.comb.ents.filter fun e => !(e.job == x.job && e.step == x.step) } }

def execScalarPair (k : PlaneIx) (totalFault flagFault : Nat) (s : State) : Out :=
  .next (match (s.plane k).scalarUp with
    | [] => s
    | x :: _ => (s.updPlane k Plane.popUp).takePair k x totalFault flagFault)

/-! ### The path (R89, R91) -/

/-- The outcome, the clip factor and the flags of computing them (R89, R95). -/
def pathOf (o : OptBlock) (u total : W32) (fl : Flags) : Nat × W32 × W32 :=
  if fl.abandon then (5, fone, 0)
  else if fl.poisoned then (4, fone, 0)
  else if fl.overflow || !fge 0x7F7FFFFF total then (3, fone, 0)
  else
    let gn := frMul (frSqrt (frOf total)) (frOf u)
    let c := if fgt gn.1 o.clipnorm then frDiv (frOf o.clipnorm) gn else (fone, gn.2)
    (if fgt fone c.1 then 2 else 1, c.1, c.2)

/-- The mirror shares of a KRONECKER job hold the arrays that the full stop needs (R187, R261). -/
def PJob.mirrorsReady (pj : PJob) (me outcome : Nat) : Bool :=
  pj.opt.kernel != 4 || 3 ≤ outcome ||
  (pj.shares.filter fun h => h.role == .mirror && !h.stale me).all fun h =>
    if outcome = 1 then h.kernelRan else h.arraysIn (blockEdge pj.prec) (pj.subgen + 1)

/-- The full-stop state of a path. -/
def pathState (outcome : Nat) : FState := if outcome = 1 then .commit else if outcome = 2 then .rescale else .discard

/-- The full stop would bring `GEN` or `NEXTGEN` to 0xFFFFFFFF (R124). -/
def PJob.genLimit (pj : PJob) (outcome : Nat) : Bool :=
  pj.opt.kernel != 0 && 0xFFFFFFFF ≤ (if outcome = 2 then pj.subgen + 2 else pj.subgen + 1)

/-- The plane takes its path for a combined word (R89, R91): it fences the job where the generation numbers would run out (R124; before the
path, DEDUCED, notes/assumptions 92), and a mirror waits for its arrays (R187, R261). -/
def State.choosePath (s : State) (k : PlaneIx) (id : Nat) (total : W32) (fl : Flags) : State :=
  match s.pjob k id with
  | none => s
  | some pj =>
    let r := pathOf pj.opt pj.u total fl
    if pj.genLimit r.1 then (s.updPJob k id fun pj => { pj with waitWord := none }).fenceJob id 5
    else if !pj.mirrorsReady s.bidx r.1 then s.updPJob k id fun pj => { pj with waitWord := some (total, fl) }
    else
      let seq := ((s.plane k).jobs.map (·.stopSeq)).foldl max 0 + 1
      (s.arith k id uVec r.2.2).updPJob k id fun pj => { pj with
        fs := pathState r.1, outcome := r.1, clipc := r.2.1, total := total, wordFlags := fl, waitWord := none, stopSeq := seq }

/-- Combined scalars reach the plane: a word that a mirror waits with and that can act now, or the next of the Scalar down queue; one that names
no step awaited changes nothing (R91). -/
def State.takeScalars (s : State) (k : PlaneIx) : State :=
  match (s.plane k).jobs.find? fun pj => pj.waitWord.any fun w => pj.mirrorsReady s.bidx (pathOf pj.opt pj.u w.1 w.2).1 with
  | some pj => match pj.waitWord with
    | some w => s.choosePath k pj.id w.1 w.2
    | none => s
  | none => match (s.plane k).scalarDown with
    | .combined id step total fl :: _ =>
      let s := s.updPlane k Plane.popDown
      if (s.pjob k id).any fun pj => pj.fs == .await && pj.orec.step == step && pj.waitWord.isNone then s.choosePath k id total fl else s
    | _ => s

def execCombinedScalars (k : PlaneIx) (s : State) : Out := .next (s.takeScalars k)

/-! ### The end of a path (R92 to R98) -/

/-- The loss scale and the clean-step count after a full stop (R95, R96). -/
def lossScale (o : OptBlock) (lscale : W32) (clean outcome : Nat) (ovfBit : Bool) : W32 × Nat :=
  if o.fixedscale then (o.lsinit, 0)
  else if outcome = 1 || outcome = 2 then
    if o.growth ≤ clean + 1 then (if lscale = 0x4B800000 then lscale else (fmul lscale 0x40000000).1, 0) else (lscale, clean + 1)
  else if outcome = 3 || (outcome = 4 && ovfBit) then (if lscale = fone then lscale else (fmul lscale 0x3F000000).1, 0)
  else (lscale, clean)

/-- The record after the full stop (R77, R87, R92, R95), and the flags of the bias powers. -/
def PJob.recordAfter (pj : PJob) : OptRec × W32 :=
  let r := pj.orec
  let o := pj.outcome
  let kept := o == 1 || o == 2
  let ls := lossScale pj.opt r.lscale r.clean o pj.wordFlags.overflow
  let p1 := fmul r.pow1 pj.opt.mu
  let p2 := fmul r.pow2 pj.opt.beta2
  let none' := pj.opt.kernel == 0
  ({ r with
      lastout := o, step := r.step + 1, updates := if kept then r.updates + 1 else r.updates
      gen := if none' then r.gen else if o = 1 then pj.subgen else if o = 2 then pj.subgen + 1 else r.gen
      nextgen := if none' then r.nextgen else if o = 2 then pj.subgen + 2 else pj.subgen + 1
      lscale := ls.1, clean := ls.2, normsq := pj.total, clipf := pj.clipc, pow1 := if kept then p1.1 else r.pow1,
      pow2 := if kept then p2.1 else r.pow2, skipped := if kept then r.skipped else r.skipped + 1 },
   if kept then p1.2 ||| p2.2 else 0)

/-- The selector of a share and the maps of its blocks change (R92, R121); a copy being rebuilt keeps its own (R268). -/
def Share.flipPath (me side : Nat) (h : Share) : Share :=
  if h.role == .remote || h.stale me then h
  else { h with sel := !h.sel, kblocks := h.kblocks.map fun q => q.flip side }

/-- Flips, record, log header and histogram of the step that ends (R46, R92 to R95, R270). -/
def State.recordStop (s : State) (k : PlaneIx) (id : Nat) : State :=
  match s.findJob id, s.pjob k id with
  | some j, some pj =>
    let kept := pj.outcome == 1 || pj.outcome == 2
    let r := pj.recordAfter
    let s := s.arith k id uVec r.2
    let s := s.logWritten k id (pj.orec.step % j.logl)
    s.updPJob k id fun pj =>
      let old := ((pj.slog.lookup (pj.orec.step % j.logl)).filter fun x => x.step == pj.orec.step).getD pj.header
      let pj := pj.setHdr j.logl { old with lout := pj.outcome, incomplete := false, genout := r.1.gen, clipf := pj.clipc }
      { pj with
        shares := if kept && pj.opt.kernel != 0 then pj.shares.map (Share.flipPath s.bidx (pj.orec.updates % 2)) else pj.shares
        orec := r.1, fs := .drain, histLast := some { pj.histNow with complete := true, discarded := !kept }
        floorRun := if pj.outcome = 3 && pj.orec.lscale = fone then pj.floorRun + 1 else 0
        retGen := if pj.stashCur.isEmpty then none else some pj.orec.gen, stashRet := pj.stashCur, stashCur := [] }
  | _, _ => s

/-- The loss-scale floor report (R97): once for each run on the device. -/
def State.floorCheck (s : State) (k : PlaneIx) (id : Nat) : State :=
  match s.findJob id, s.pjob k id with
  | some j, some pj =>
    let step := pj.orec.step - 1
    if pj.floorRun = 16 && j.floorStep != some step then
      (s.updJob id fun j => { j with floorStep := some step }).report 0xF002 0 id j.hdr.planes (leBytes 2 id ++ zeros 6 ++ leBytes 8 step)
    else s
  | _, _ => s

/-- `RETRACT`, which also releases staged chunks (R25), the notice and the republished shares of a full stop that has been recorded (R98,
R100); `RETRACT` and notice are kept for `NOTICEREQ` (R138). -/
def State.sendStop (s : State) (k : PlaneIx) (id : Nat) : State :=
  match s.findJob id, s.pjob k id with
  | some j, some pj =>
    let step := pj.orec.step - 1
    let early := pj.opt.earlypub && pj.opt.kernel != 0
    let retract := retractFrame id k.val pj pj.outcome step pj.orec.gen pj.orec.lscale pj.clipc
    let notice : Frame :=
      { hdr := { op := opNotice, job := id, gen := pj.orec.gen }
        payload := noticePayload id pj.outcome k.val step pj.orec.gen pj.orec.lscale pj.clipc pj.orec.gen }
    let drawn := early && 2 ≤ pj.outcome
    let s := if drawn then (s.updPlane k fun p => { p with staged := p.staged.filter (·.job != id) }).multicastAll k j pj retract else s
    let s := s.multicastAll k j pj notice
    let s := s.updPJob k id fun pj => { pj with notice := notice.payload, retract := if drawn then retract.payload else [] }
    if early && pj.outcome = 2 then
      s.each (pj.shares.filter fun h => h.role == .home && !h.stale s.bidx) fun s h =>
        match j.bucketDesc h.bucket with
        | none => s
        | some d =>
          let r := publish d.outFmt pj.opt.stochrnd (h.ind.getD 0 []) h.indImg
          let s := (s.convItems k j.hdr.redund r.1.length).arith k id uCvt r.2
          s.each (shareFrames j k d { op := opParm, job := id, gen := pj.orec.gen } r.1 fun _ => true) fun s f => s.multicast k j pj pj.liveMembers f
    else s
  | _, _ => s

/-- What every path ends with (R15, R91, R98, R101, R133, R155, R264, R308): fences that wait for the end of the path apply before its frames
are sent (notes/assumptions 82). -/
def State.endPath (s : State) (k : PlaneIx) (id : Nat) : State :=
  let s := s.flushGathers k id
  let s := s.recordStop k id
  let s := s.updPlane k fun p => { p with prefetch := p.prefetch.filter (·.job != id) }
  let s := ((s.atComma k id).floorCheck k id).sendStop k id
  match s.findJob id, s.pjob k id with
  | some j, some pj =>
    let s := s.keepDigests k id
    let due := (pj.outcome == 1 || pj.outcome == 2) && pj.opt.kernel != 0 && j.digk != 0 && pj.orec.updates % j.digk == 0
    let s := if due then s.sendDigests k id else s
    s.retryGathers k id
  | _, _ => s

/-- The result of every kept share stands (R92: every flipped share holds the step's result). -/
def PJob.allRan (pj : PJob) (me : Nat) : Bool :=
  pj.opt.kernel == 0 || (pj.shares.filter Share.kept).all fun h => h.kernelRan || h.stale me

/-- The selectors have been flipped (R92); a read in progress holds them (R163). -/
def State.commitDone (s : State) (k : PlaneIx) (id : Nat) : State :=
  match s.pjob k id with
  | none => s
  | some pj =>
    if pj.fs != .commit || !pj.allRan s.bidx then s
    else if s.readHolds k id then s.countReadWait k id
    else s.endPath k id

def execCommitDone (k : PlaneIx) (job : Nat) (s : State) : Out := .next (s.commitDone k job)

/-- The word faults of one share of the pass: its own window of positions. -/
def shareWindow (pj : PJob) (h : Share) : Nat := 4 * h.elems.length + 2 * h.kblocks.length * blockEdge pj.prec ^ 2

/-- The rescaling pass on one share (R93, R243): again with FULL where a word stays unresolved; a second failure retires the plane (true).  A
user kernel's fault poisons the bucket and is not tried again (R84, R244). -/
def State.rescaleShare (s : State) (k : PlaneIx) (j : Job) (pj : PJob) (h : Share) (fs : List WordFault) (again : Bool) : Bool × State :=
  let own := h.role == .home
  let vals := h.logVals j.logl pj.orec.step
  let r := s.runKernel k j h.bucket pj.clipc j.hdr.redund 5 own (pj.subgen + 1) vals fs
  let r := if r.bad then r.s.runKernel k j h.bucket pj.clipc 2 5 own (pj.subgen + 1) vals (if again then fs else []) true else r
  if r.bad then (true, r.s)
  else
    let s := if r.fault then r.s.poison k j.id h.bucket else r.s
    (false, if own then s.sendPSN k j h.bucket (pj.subgen + 1) r.arr else s)

/-- The rescaling pass over the shares in ascending bucket number. -/
def State.rescaleAll (s : State) (k : PlaneIx) (j : Job) (pj : PJob) (again : Bool) : List Share → List WordFault → Bool × State
  | [], _ => (false, s)
  | h :: hs, fs =>
    let w := shareWindow pj h
    let r := s.rescaleShare k j pj h (shiftFaults fs 0 w) again
    if r.1 then r else r.2.rescaleAll k j pj again hs (shiftFaults fs w (fs.foldl (fun n f => max n (f.word + 1)) 0 - w))

/-- The rescaling pass has finished (R93), in its turn (R120).  A log or shard word that stays unreadable poisons the bucket that it is read for,
the first one, and its copy is bad (R244, R265; DEDUCED, notes/assumptions 42); the pass goes on. -/
def State.rescaleDone (s : State) (k : PlaneIx) (id : Nat) (flt : ItemFault) : State :=
  match s.findJob id, s.pjob k id with
  | some j, some pj =>
    if pj.fs != .rescale then s
    else if s.readHolds k id then s.countReadWait k id
    else if pj.opt.kernel = 0 then s.endPath k id
    else if pj.opt.kernel = 4 && s.rescaleFirst k != some id then s
    else
      let hs := pj.shares.filter fun h => h.kept && !h.stale s.bidx
      let b := ((hs.head?).map (·.bucket)).getD 0
      let (lost, s) := s.parityRead k { block := 9, cls := 0, index := flt.index, job := id, op := pj.opt.kernel, opk := 5, bucket := b,
                                        bits := flt.mask, word := BitVec.ofNat 32 flt.index, kernel := pj.opt.kernel } flt.parity
      let (state, s) := s.ctlFault k { block := 9, cls := 0, index := flt.index, job := id, opk := 5, bucket := b } flt.ctl
      if (s.pjob k id).isNone then s
      else
        let s := if lost then (s.poison k id b).badCopy k id b else if state then s.poison k id b else s
        let r := s.rescaleAll k j pj flt.rerunUnresolved hs flt.words
        if r.1 then (if (r.2.plane k).ps = .retired then r.2 else r.2.retirePlane k false) else r.2.endPath k id
  | _, _ => s

def execRescaleDone (k : PlaneIx) (job : Nat) (flt : ItemFault) (s : State) : Out := .next (s.rescaleDone k job flt)

/-- A block without what the discarded step left in it (R116, R121). -/
def KBlock.dropStep (q : KBlock) (subgen : Nat) : KBlock :=
  { q with stageL := none, stageR := none, recv := q.recv.filter fun x => !((x.code == ccP || x.code == ccSN) && x.gen ≤ subgen + 1) }

/-- The subjunctive copy has been dropped (R94). -/
def State.discardDone (s : State) (k : PlaneIx) (id : Nat) : State :=
  match s.pjob k id with
  | none => s
  | some pj =>
    if pj.fs != .discard then s
    else
      let s := s.updPJob k id fun pj => { pj with shares := pj.shares.map fun h =>
        { h with kblocks := h.kblocks.map fun q => q.dropStep pj.subgen } }
      s.endPath k id

def execDiscardDone (k : PlaneIx) (job : Nat) (s : State) : Out := .next (s.discardDone k job)

/-! ### The drain (R17, R91, R116, R117, R154, R182, R255) -/

/-- Slots, queues and per-step state of the job are released, and its leaked cells reclaimed (R17, R182). -/
def State.emptyStep (s : State) (k : PlaneIx) (id : Nat) : State :=
  let s := s.updPlane k fun p =>
    let p := (p.purgeQueues id).reclaimCells id
    { p with retained := p.retained.filter (·.job != id), staged := p.staged.filter (·.job != id) }
  s.updPJob k id fun pj => { pj with
    shares := pj.shares.map Share.clearStep, ctrs := ctrSet pj.ctrs .slotHwm pj.slotMax, slotMax := 0 }

/-- The staged roots are installed, rejected or dropped (R116); a home plane sends each installed root to its mirrors, and a mirror
installs what it has received (R121, R261). -/
def State.installRoots (s : State) (k : PlaneIx) (j : Job) (pj : PJob) : State :=
  let kept := pj.outcome == 1 || pj.outcome == 2
  let edge := blockEdge pj.prec
  if pj.opt.kernel != 4 then s
  else if !kept then s.updPJob k j.id fun pj => { pj with shares := pj.shares.map fun h =>
    { h with kblocks := h.kblocks.map fun q => { q with stageL := none, stageR := none } } }
  else s.each (pj.shares.filter Share.kept) fun s h =>
    if h.role == .mirror then if h.stale s.bidx then s else s.installRecvShare k j.id h.bucket edge pj.orec.gen
    else
      let s := s.installShare k j.id h.bucket
      s.each h.kblocks.zipIdx fun s (q, i) =>
        let roots := ((q.stageL.filter rootOk).map fun w => (ccQL, w)).toList ++ ((q.stageR.filter rootOk).map fun w => (ccQR, w)).toList
        s.each (s.mirrorsOf j h.bucket) fun s d => s.each roots fun s x => s.sendArray k j d h.bucket x.1 i pj.orec.gen x.2

/-- The drain of a step whose combined word carries `ABANDON` applies the device's pending re-form on the plane, where a plane of this
device sent that bit in this step, whether or not it was this plane: a re-form that came after every pair of the device had gone stays
pending (R154).  Once every plane has taken it, the device's old group record is free (R152). -/
def State.applyReform (s : State) (k : PlaneIx) (j : Job) (pj : PJob) : State :=
  match j.reform with
  | none => s
  | some (rec', ms) =>
    if pj.outcome != 5 || j.reformStep != some (pj.orec.step - 1) || pj.groupRec == rec' then s
    else
      let s := s.updPJob k j.id fun pj => { pj with group := ms, groupRec := rec', reformSeen := false }
      if (s.heldPlanes j).all fun q => ((s.pjob q j.id).map fun x => x.groupRec == rec').getD true then
        let s := { s with groups := s.groups.filter (· != j.groupRec) }
        s.updJob j.id fun j => { j with group := ms, groupRec := rec', reform := none, reformStep := none }
      else s

/-- The held frames of the job's next step are taken again, in order (R17); one whose stored bytes or entry fail parity is discarded (R177). -/
def State.admitHeld (s : State) (k : PlaneIx) (id : Nat) : State :=
  let mine (h : HeldFrame) : Bool := !h.serve && h.frame.hdr.job == id && (h.frame.hdr.op == opGrad || h.frame.hdr.op == opPartial)
  let hs := (s.plane k).held.filter mine
  let s := s.updPlane k fun p => { p with held := p.held.filter (!mine ·) }
  s.each hs fun s h =>
    if h.later != .none then s.loseStored k h.frame h.later 0
    else if h.frame.hdr.op = opPartial then s.partialIn h.lane h.frame else s.grad h.lane h.frame

/-- The plane's part of a job that has been reclaimed (R151, R158, R160). -/
def State.reclaimPlane (s : State) (k : PlaneIx) (id : Nat) : State :=
  let s := s.endWaits k id .fenced
  let s := s.each ((s.plane k).applyQ.filter (·.pkt.job == id)) fun s c => s.endApply k c
  let cs := (s.plane k).ckpts.filter fun c => c.job == id && !c.started
  let s := s.updPlane k fun p => { p with ckpts := p.ckpts.filter fun c => !(c.job == id && !c.started) }
  let s := s.each cs fun s c => s.planeAnswer c.held k .fenced (leBytes 4 c.gen ++ zeros 4 ++ leBytes 8 0)
  let s := s.updPlane k fun p => p.releaseJob id
  let s := s.updPJob k id fun pj => { pj with fs := .reclaimed }
  s.settleJob id

/-- The drain prefetches the job's lowest layer from the generation that is indicative after the full stop (R132). -/
def State.prefetchFirst (s : State) (k : PlaneIx) (id : Nat) : State :=
  match s.findJob id, s.pjob k id with
  | some j, some pj => match (j.layersHere pj).min? with
    | some l => if pj.opt.kernel = 0 then s else s.prefetchLayer k j pj l
    | none => s
  | _, _ => s

/-- A step begins: the reads and rebuilds that start here, and the held frames. -/
def State.nextStep (s : State) (k : PlaneIx) (id : Nat) : State :=
  let s := s.beginStep k id
  let s := (s.startReads k id).startRebuilds k id
  (s.admitHeld k id).schedule k

/-- The drain waits until the step's frames have left the Publish and Egress queues, but those of copies that are read (R17, R163; DEDUCED,
notes/assumptions 93), for the refreshes of the step and for the tests that are due; the last two delays are counted once (R117, R255). -/
def State.drainWaits (s : State) (k : PlaneIx) (pj : PJob) : Option State :=
  if (s.plane k).unsent.any fun d => d.job == pj.id && d.frame.hdr.op != opCkpt then some s
  else if !pj.refreshQ.isEmpty then
    some (if pj.refLateSeen then s else (s.jobCtr k pj.id .refLate).updPJob k pj.id fun pj => { pj with refLateSeen := true })
  else if !(s.plane k).tests.isEmpty then
    if (s.plane k).tests.all (·.deferred) then some s
    else some ((s.planeCtr k .testLate).updPlane k fun p => { p with tests := p.tests.map fun t => { t with deferred := true } })
  else none

/-- The drain of a job on a plane completes. -/
def State.drainComplete (s : State) (k : PlaneIx) (id : Nat) : State :=
  match s.findJob id, s.pjob k id with
  | some j, some pj =>
    if pj.fs != .drain then s
    else match s.drainWaits k pj with
      | some s => s
      | none =>
        let s := (s.emptyStep k id).installRoots k j pj
        let s := s.applyReform k j pj
        let s := s.updPJob k id fun pj => { pj with histLast := pj.histLast.map fun h =>
          if h.step == pj.histNow.step then { h with sflags := pj.histNow.sflags } else h }
        if pj.fencePend != 0 then s.fencePlane k id
        else if pj.wordFlags.drain then s.reclaimPlane k id
        else (s.prefetchFirst k id).nextStep k id
  | _, _ => s

def execDrainComplete (k : PlaneIx) (job : Nat) (s : State) : Out := .next (s.drainComplete k job)

/-! ### Fence orders and the timers of a job -/

/-- The plane takes a fence order from its Scalar down queue (R101): at once, also where a mirror waits with the combined word (R278), or after
the path and the drain that it has begun. -/
def State.fenceOrder (s : State) (k : PlaneIx) : State :=
  match (s.plane k).scalarDown with
  | .fence id cause :: _ =>
    let s := s.updPlane k Plane.popDown
    match s.pjob k id with
    | none => s
    | some pj =>
      if pj.fs == .commit || pj.fs == .rescale || pj.fs == .discard || pj.fs == .drain then
        s.updPJob k id fun pj => { pj with fencePend := cause }
      else s.fencePlane k id
  | _ => s

def execScalarFenceOrder (k : PlaneIx) (s : State) : Out := .next (s.fenceOrder k)

/-- Every plane of the job on a board has sent its pair of the step in progress and waits for the device ring (R162). -/
def State.ringWaits (s : State) (j : Job) : Bool :=
  1 < (s.jobDevs j).length && (s.heldPlanes j).all fun k =>
    ((s.pjob k j.id).map fun pj => pj.fs == .await && pj.pairSent && pj.waitWord.isNone).getD true &&
    !(((s.plane k).scalarDown ++ (s.plane k).downWait).any fun w => match w with
      | .combined id _ _ _ => id == j.id
      | .fence _ _ => false)

/-- The deadline passes (R161, R162): a device that waits for the ring's result holds the fence. -/
def execReclaimDeadline (job : Nat) (s : State) : Out :=
  .next (match s.findJob job with
    | none => s
    | some j =>
      if j.st != .reclaiming then s
      else if s.ringWaits j then s.updJob job fun j => { j with ringHold := true }
      else s.fenceJob job 1)

/-- The held fence acts when no result has come within the operation timeout (R162). -/
def execRingFenceHoldExpiry (job : Nat) (s : State) : Out :=
  .next (match s.findJob job with
    | none => s
    | some j => if j.ringHold then s.fenceJob job 1 else s)

/-- Everything the device still holds of a job is gone. -/
def State.removeJob (s : State) (id : Nat) : State :=
  let s := s.each allPlanes fun s k => s.updPlane k fun p =>
    let p := p.releaseJob id
    { p with jobs := p.jobs.filter (·.id != id) }
  { s with jobs := s.jobs.filter (·.id != id), comb := { s.comb with dropped := s.comb.dropped.filter (·.1 != id) } }

/-- `CKHOLD` seconds have passed (R148): the job is `FREE`, with a job report. -/
def execCkholdExpiry (job : Nat) (s : State) : Out :=
  .next (match s.findJob job with
    | none => s
    | some j =>
      if !((j.st == .reclaimed || j.st == .fenced) && j.ended) || j.closing.isSome then s
      else
        let s := s.each j.planes fun s k => s.endReads k job
        (s.jobReport j .ok 0).removeJob job)

end Sys2Proof.Machine
end

