-- ==== Sys2Proof/Machine/Restore.lean ====
section
/-! DEFINITION. Shard loads (R75, R76, R186) and the restore of a job (R273, R274). -/
namespace Sys2Proof.Machine

/-! ### `LOAD` frames (R76) -/

/-- The codes of a payload as FP32 words, and the flags of its NaN and infinite elements or of an expansion (R31, R33, R39): integers through
the job's expansion. -/
def loadVals (pj : PJob) (fmt n : Nat) (b : List Byte) : List W32 × W32 :=
  if fmtInt fmt then
    match pj.expands.find? (·.fmt == fmt) with
    | none => ([], 0)
    | some x =>
      let r := (unpackCodes fmt n b).map (expandCode x ((fmtBits fmt).getD 8))
      (frWords r, frFlags r)
  else
    let ws := decodeVals fmt n b
    (ws, inFlagsAll ws)

/-- Words written into an array from a position; what lies beyond its end is padding. -/
def writeWords (ws : List W32) (at' : Nat) (vs : List W32) : List W32 :=
  let vs := vs.take (ws.length - at')
  ws.take at' ++ vs ++ ws.drop (at' + vs.length)

/-- The image after master words from a position (R75): each converted to nearest even (R37). -/
def writeImage (img : List W16) (at' : Nat) (vs : List W32) : List W16 × W32 :=
  let r := (vs.take (img.length - at')).map e8m7Rne
  (img.take at' ++ r.map (·.1) ++ img.drop (at' + r.length), r.foldl (fun f x => f ||| x.2) 0)

/-- Array words of the indicative copy are written from a position within the share; master words also write the image. -/
def State.writeArray (s : State) (k : PlaneIx) (id b i at' : Nat) (vs : List W32) : State :=
  match (s.pjob k id).bind (·.findShare b) with
  | none => s
  | some h =>
    let arrays := h.ind.zipIdx.map fun x => if x.2 = i then writeWords x.1 at' vs else x.1
    let img := if i = 0 then writeImage h.indImg at' vs else (h.indImg, 0)
    (s.updShare k id b fun h => h.setInd arrays img.1).arith k id uCvt img.2

/-- The position within the share of the first element of a bucket's element range. -/
def Share.posOf (h : Share) (e : Nat) : Nat := (h.elems.filter (· < e)).length

/-- The content codes of R261. -/
def contentCode (c : Nat) : Bool := (1 ≤ c && c ≤ 4) || matrixCode c || c == ccLog

/-- The number of elements of a payload. -/
def payloadCount (f : Frame) : Nat := f.payload.length * 8 / (fmtBits f.hdr.fmt).getD 32

/-- Row 6 of R76 under a restore: what the frame names lies outside the share, its blocks or its log. -/
def Share.loadBeyond (h : Share) (pj : PJob) (logl : Nat) (f : Frame) : Bool :=
  let c := f.hdr.comma
  let edge := blockEdge pj.prec
  if c = ccLog then logl ≤ f.hdr.chunk || h.elems.length ≤ f.hdr.elemoff
  else if matrixCode c then h.kblocks.length ≤ f.hdr.chunk || edge * edge < f.hdr.elemoff + payloadCount f
  else h.ind.length < c || h.elems.length ≤ f.hdr.elemoff

/-- A matrix of a block is written by its content code; `P` and `SN` name nothing that is kept. -/
def KBlock.load (q : KBlock) (code at' : Nat) (vs : List W32) : KBlock :=
  if code = ccQL then { q with ql := writeWords q.ql at' vs }
  else if code = ccQR then { q with qr := writeWords q.qr at' vs }
  else if code = ccL then q.setBuf q.mapL (writeWords (q.stat 0) at' vs)
  else if code = ccR then q.setBuf q.mapR (writeWords (q.stat 1) at' vs)
  else q

/-- Row 9 of R76: the words are written. -/
def State.loadWrite (s : State) (k : PlaneIx) (j : Job) (pj : PJob) (d : BucketDesc) (h : Share) (f : Frame) : State :=
  let c := f.hdr.comma
  if !pj.restore then
    let r := d.chunkRange f.hdr.chunk
    let v := loadVals pj f.hdr.fmt r.2 f.payload
    (s.arith k j.id uCvt v.2).writeArray k j.id d.bucket 0 (h.posOf r.1) v.1
  else
    let v := loadVals pj f.hdr.fmt (payloadCount f) f.payload
    let s := s.arith k j.id uCvt v.2
    if c = ccLog then
      s.updShare k j.id d.bucket fun h =>
        let cur := (h.log.lookup f.hdr.chunk).getD { step := 0, vals := List.replicate h.elems.length 0 }
        { h with log := (f.hdr.chunk, { cur with vals := writeWords cur.vals f.hdr.elemoff v.1 }) :: h.log.filter (·.1 != f.hdr.chunk) }
    else if matrixCode c then s.updShare k j.id d.bucket fun h => h.updBlock f.hdr.chunk fun q => q.load c f.hdr.elemoff v.1
    else s.writeArray k j.id d.bucket (c - 1) f.hdr.elemoff v.1

/-- A refused `LOAD`: the home plane answers, a mirror only counts (R76, R186). -/
def State.loadRefuse (s : State) (lane : DevLane) (f : Frame) (mirror : Bool) (st : Status) : State :=
  let k := planeOf lane
  let s := if st = .format then s.formatFlag k f.hdr.job else s
  if mirror then (s.frmDrop k).jobCtr k f.hdr.job .frmRej else s.refuseFrame lane f st (some .frmRej)

/-- Rows 4 to 9 of R76, on a plane that holds a copy of the bucket; a home plane sends the frame on to the mirrors, with the sender's member
number (R185, R186). -/
def State.loadRows (s : State) (lane : DevLane) (f : Frame) (j : Job) (pj : PJob) (m : Nat) (mirror : Bool)
    (keep : Keep := {}) : State :=
  let k := planeOf lane
  if pj.fs != .loading then s.loadRefuse lane f mirror (if fmtInt f.hdr.fmt then .format else .param)
  else match j.bucketDesc f.hdr.bucket with
    | none => s.loadRefuse lane f mirror .param
    | some d =>
      if pj.opt.kernel = 0 || (if pj.restore then !contentCode f.hdr.comma else f.hdr.comma != 0) then s.loadRefuse lane f mirror .param
      else match pj.findShare d.bucket with
        | none => s.loadRefuse lane f mirror .length
        | some h =>
          if !h.kept || (if pj.restore then h.loadBeyond pj j.logl f else !j.chunkOk k d f) then s.loadRefuse lane f mirror .length
          else if pj.restore && f.hdr.comma != 1 && f.hdr.fmt != 0 then s.loadRefuse lane f mirror .format
          else if fmtInt f.hdr.fmt && !pj.expands.any (·.fmt == f.hdr.fmt) then s.loadRefuse lane f mirror .param
          else
            let s := s.loadWrite k j pj d h f
            if mirror then s
            else
              let on : Frame := { f with hdr := { f.hdr with memb := (pj.groupNo m).getD 0 } }
              let s := s.each (s.mirrorsOf j d.bucket).zipIdx fun s v =>
                s.toDevice k j v.1 on d.bucket false (if v.2 = 0 then keep else { keep with cells := 0 })
              s.status lane f .ok

/-- A `LOAD` frame (R76, R186): relayed toward its home device after rows 1 to 3, or handled here. -/
def State.load (s : State) (lane : DevLane) (f : Frame) (keep : Keep := {}) : State :=
  let k := planeOf lane
  let mirror := s.isPeer lane && ((s.findJob f.hdr.job).map fun j => s.homeDev j f.hdr.bucket != s.bidx).getD false
  match s.admitSender lane f false with
  | .error st => s.loadRefuse lane f mirror st
  | .ok (j, pj, m) =>
    let home := s.homeDev j f.hdr.bucket
    if !s.isPeer lane && home != s.bidx then s.relay k j pj m home f f.hdr.bucket keep
    else s.loadRows lane f j pj m mirror keep

/-! ### `RESTORE_BEGIN` (R273) -/

/-- The arrays and images of both copies, all +0, for the job's kernel (R75). -/
def Share.zeroCopies (h : Share) (o : OptBlock) : Share :=
  let a := List.replicate (wordsOf o) (List.replicate h.elems.length 0)
  let img := if o.stochrnd && o.kernel != 0 then List.replicate h.elems.length 0 else []
  { h with copyA := a, copyB := a, imgA := img, imgB := img }

/-- The job is placed under restore and every plane of it takes the command. -/
def execRestoreBegin (p : Packet) (s : State) : Out :=
  .next (s.dispatch 0x020B p fun c s =>
    match s.findJob p.job with
    | none => s.reply c .param
    | some j =>
      if j.st != .loading then s.reply c .param
      else (s.updJob j.id fun j => { j with restore := true }).handOut c j.planes)

/-- A plane clears what it keeps and takes the record. -/
def State.takeRestoreBegin (s : State) (k : PlaneIx) (c : PlaneCmd) : State :=
  s.withPJob k c fun j pj =>
    if jobEnded j pj then s.planeAnswer c.held k .fenced []
    else
      let r := parseOrec c.pkt.params
      let s := s.updPJob k j.id fun pj => { pj with
        shares := pj.shares.map fun h => { h.zeroCopies pj.opt with
          kblocks := h.kblocks.map fun _ => KBlock.fresh (blockEdge pj.prec), log := [] }
        slog := [], restore := true
        orec := { pj.orec with step := r.step, updates := r.updates, gen := r.gen, nextgen := r.nextgen, lscale := r.lscale,
                               clean := r.clean, pow1 := r.pow1, pow2 := r.pow2, skipped := r.skipped } }
      s.planeAnswer c.held k .ok []

/-! ### `RESTORE_REPLAY` (R274) -/

/-- A replayed commit or clip: the kernel over every share from the log, the flips, the refreshed roots (R92, R116). -/
def State.replayCommit (s : State) (k : PlaneIx) (j : Job) (pj : PJob) (x : StepHdr) : State :=
  if pj.opt.kernel = 0 then s
  else
    let s := if pj.opt.kernel = 4 then s.replayRoots k j x none else s
    s.each (pj.shares.filter Share.kept) fun s h =>
      (s.replayStep k j h.bucket x true 0 ((h.log.lookup (x.step % j.logl)).map (·.vals) |>.getD (List.replicate h.elems.length 0))).installShare
        k j.id h.bucket

/-- The record after a replayed step (R92, R95, R96, R274). A header carries no overflow bit, so outcome 4 leaves the scale unchanged
(DEDUCED, notes/assumptions 48). -/
def PJob.replayRecord (pj : PJob) (x : StepHdr) : OptRec :=
  let r := pj.orec
  let kept := x.lout == 1 || x.lout == 2
  let ls := lossScale x.opt x.lscale r.clean x.lout false
  let none' := pj.opt.kernel == 0
  { r with
    step := r.step + 1, updates := if kept then r.updates + 1 else r.updates
    gen := if none' || !kept then r.gen else if x.lout = 2 then x.gensub + 1 else x.gensub
    nextgen := if none' then r.nextgen else if x.lout = 2 then x.gensub + 2 else x.gensub + 1
    lscale := ls.1, clean := ls.2, pow1 := if kept then (fmul r.pow1 x.opt.mu).1 else r.pow1,
    pow2 := if kept then (fmul r.pow2 x.opt.beta2).1 else r.pow2, skipped := if kept then r.skipped else r.skipped + 1 }

/-- Replay stops at this header (second row of R274; a header with no outcome of the table stops it too, DEDUCED,
notes/assumptions 48). -/
def PJob.replayStops (pj : PJob) (x : StepHdr) : Bool :=
  pj.orec.step < x.step || x.genin != pj.orec.gen || x.incomplete || x.lout < 1 || 5 < x.lout

/-- A plane takes the headers in order: how many it took, whether it stopped, the state. -/
def State.replayAll (s : State) (k : PlaneIx) (id : Nat) : List StepHdr → Nat → Nat × Bool × State
  | [], n => (n, false, s)
  | x :: xs, n =>
    match s.findJob id, s.pjob k id with
    | some j, some pj =>
      if x.step < pj.orec.step then s.replayAll k id xs (n + 1)
      else if pj.replayStops x then (n, true, s)
      else
        let y := { x with updates := pj.orec.updates, pow1 := pj.orec.pow1, pow2 := pj.orec.pow2, clipf := if x.lout = 2 then x.clipf else fone }
        let s := if x.lout = 1 || x.lout = 2 then s.replayCommit k j pj y else s
        (s.updPJob k id fun _ => ((s.pjob k id).map fun p => { p with orec := pj.replayRecord x }).getD pj).replayAll k id xs (n + 1)
    | _, _ => (n, true, s)

/-- The payload of a `RESTORE_REPLAY`: how many headers were taken, and `STEP` and `GEN` (R298). -/
def replayReply (taken step gen : Nat) : List Byte := leBytes 1 taken ++ zeros 3 ++ leBytes 8 step ++ leBytes 4 gen ++ zeros 4

/-- `RESTORE_REPLAY` of a job that is not under restore is refused with no header taken, and with the job's `STEP` and `GEN`, zero where no
plane holds it (R298; notes/assumptions 30). -/
def execRestoreReplay (p : Packet) (s : State) : Out :=
  .next (s.dispatch 0x020C p fun c s =>
    match s.findJob p.job with
    | none => s.reply c .param (replayReply 0 0 0)
    | some j =>
      if j.st = .loading && j.restore then s.handOut c j.planes
      else
        let r : OptRec := (((s.heldPlanes j).filterMap fun k => s.pjob k j.id).head?.map (·.orec)).getD {}
        s.reply c .param (replayReply 0 r.step r.gen))

/-- The headers of a packet. -/
def replayHdrs (p : Packet) : List StepHdr := (List.range (pf p 0 1)).map fun i => parseStepHdr (psl p (4 + 192 * i) 192)

/-- `RESTORE_REPLAY` on a plane: the headers taken, `STEP` and `GEN`. -/
def State.takeRestoreReplay (s : State) (k : PlaneIx) (c : PlaneCmd) : State :=
  s.withPJob k c fun j pj =>
    if jobEnded j pj then s.planeAnswer c.held k .fenced []
    else
      let r := s.replayAll k j.id (replayHdrs c.pkt) 0
      let rec' := ((r.2.2.pjob k j.id).map (·.orec)).getD pj.orec
      r.2.2.planeAnswer c.held k (if r.2.1 then .param else .ok) (replayReply r.1 rec'.step rec'.gen)

end Sys2Proof.Machine
end

