-- ==== Sys2Proof/Machine/Checking.lean ====
section
/-! DEFINITION. The leaked-buffer detector (R182), in-field tests (R254 to R257), and the restart of a plane by its watchdog (R276). -/
namespace Sys2Proof.Machine

/-! ### The leaked-buffer detector (R182) -/

/-- `EINDEX` of a frame cell, or of an overflow entry, which sets bit 31 (R246). -/
def cellIndex (cell : Nat) : Nat := if cell < 65536 then cell else cell - 65536 + 2 ^ 31

/-- A cell that two consecutive sweeps find unreferenced is leaked: recorded, and reclaimed at the next drain of its job, or at once
where no drain of the job is to come. -/
def State.leakCell (s : State) (k : PlaneIx) (cell job : Nat) : State :=
  let s := s.updPlane k fun p => { p with suspects := p.suspects.filter (· != cell) }
  let s := s.error k { block := 2, cls := 7, index := cellIndex cell, job := job }
  match s.findJob job, s.pjob k job with
  | some j, some pj =>
    if jobEnded j pj then s.planeCtr k .bufLeak else s.updPlane k fun p => { p with leaked := p.leaked ++ [(cell, job)] }
  | _, _ => s.planeCtr k .bufLeak

/-- One cell or entry is audited. -/
def State.audit (s : State) (k : PlaneIx) (cell : Nat) (f : AuditFinding) : State :=
  match f with
  | .clean => s.updPlane k fun p => { p with suspects := p.suspects.filter (· != cell) }
  | .unreferenced job =>
    let p := s.plane k
    if p.leaked.any (·.1 == cell) then s
    else if p.suspects.contains cell then s.leakCell k cell job
    else s.updPlane k fun p => { p with suspects := cell :: p.suspects }
  | .freeAndHeld => (s.error k { block := 2, cls := 8, index := cellIndex cell }).planeCtr k .bufDup

/-- The detector works while its plane is in service. -/
def execBufferAudit (k : PlaneIx) (cell : Nat) (f : AuditFinding) (s : State) : Out :=
  .next (if (s.plane k).ps = .inService then s.audit k cell f else s)

/-! ### In-field tests (R254 to R257) -/

/-- A block's test falls due; one that is still running stands for it. -/
def execTestDue (k : PlaneIx) (block : Nat) (s : State) : Out :=
  .next (if (s.plane k).ps != .inService || testSegments block = 0 || (s.plane k).tests.any (fun t => t.block == block && t.cmd.isNone) then s
    else s.updPlane k fun p => { p with tests := p.tests ++ [{ block := block, segsLeft := testSegments block }] })

/-- The first test of a block on a plane. -/
def Plane.testOf (p : Plane) (block : Nat) : Option TestRun := p.tests.find? (·.block == block)

/-- The first test of a block is replaced, or removed. -/
def Plane.setTest (p : Plane) (t : TestRun) (n : Option TestRun) : Plane :=
  { p with tests := match n with
      | some x => p.tests.replace t x
      | none => p.tests.erase t }

/-- A test of a block ends (R252, R255): a unit leaves observation after `OBSCLEAR` consecutive passing tests, a failed one starts the count
again, and what an overdue test caused ends when it has run and no other is overdue. -/
def testedObs (obs : List Obs) (block clear : Nat) (failed endOverdue : Bool) : List Obs :=
  (obs.map fun o => if o.block == block && !o.overdue then { o with passes := if failed then 0 else o.passes + 1 } else o).filter fun o =>
    !(o.block == block && !o.overdue && !failed && clear ≤ o.passes) && !(endOverdue && o.overdue)

/-- The failed runs of a command's tests are gathered in one that still runs; the last answers (R257).  A run of the command has failed
when the test of any of its blocks failed in it. -/
def State.endCmdTest (s : State) (k : PlaneIx) (t : TestRun) (cmd : Nat) : State :=
  match (s.plane k).tests.find? (·.cmd == some cmd) with
  | some o => s.updPlane k fun p => p.setTest o (some { o with failRuns := (o.failRuns ++ t.failRuns).dedup })
  | none =>
    let n := t.failRuns.length
    s.planeAnswer cmd k (if n = 0 then .ok else .check) (leBytes 2 n ++ zeros 2)

/-- A run of a test ends: the next run of a `TEST_RUN` begins, or the test is over (R255 to R257). -/
def State.endRun (s : State) (k : PlaneIx) (t : TestRun) (failed : Bool) : State :=
  let others := (s.plane k).tests.any fun o => o.overdue && o != t
  let s := s.updPlane k fun p => { p with obs := testedObs p.obs t.block s.host.obsclear failed (t.overdue && !others) }
  let fr := if failed then t.repeats :: t.failRuns else t.failRuns
  if 1 < t.repeats then
    s.updPlane k fun p => p.setTest t (some { t with segsLeft := testSegments t.block, repeats := t.repeats - 1, failRuns := fr })
  else
    let s := s.updPlane k fun p => p.setTest t none
    match t.cmd with
    | some c => s.endCmdTest k { t with failRuns := fr } c
    | none => s

/-- The segments of the vector unit's test that exercise the lane generators (R254). -/
def genSegment (block seg : Nat) : Bool := block == 6 && 8 ≤ seg

/-- The memory blocks, whose tests march (R254). -/
def memBlocks : List Nat := [2, 5, 8, 9]

/-- A run of a segment passes (R254, R256): the signature is the firmware image's, every generator's round-ups lie in 1,888 to 2,208, or a march
test found what it wrote. -/
def segPasses (block seg : Nat) (r : SegRun) : Bool :=
  match r with
  | .folded x => !memBlocks.contains block && !genSegment block seg && x == Config.testSignature block seg
  | .roundUps l => genSegment block seg && l.length == 512 && l.all fun n => 1888 ≤ n && n ≤ 2208
  | .march ok => memBlocks.contains block && ok

/-- The memory units that a segment tests (R254): 4,096 cells, 32 slots or 32 scratch regions; for the HBM path, the regions of the 1 MiB that
boot code keeps, wherever it lies. -/
def segUnit (block seg unit : Nat) : Bool :=
  match block with
  | 2 => unit / 4096 == seg
  | 5 => unit / 32 == seg
  | 8 => unit / 32 == seg
  | _ => true

/-- A memory unit is free to be tested: one that is held is skipped (R254).  Of the cells and scratch regions only those out of use are known by
number. -/
def Plane.testFree (p : Plane) (block unit : Nat) : Bool :=
  match block with
  | 2 => !p.retCells.contains unit && p.leaked.all (cellIndex ·.1 != unit)
  | 5 => !p.retSlots.contains unit && p.jobs.all fun pj => pj.shares.all fun h => !h.slots.contains unit
  | 8 => !p.retScratch.contains unit
  | _ => true

/-- A due segment may run (R255): with no job running on the plane, during a job's drain, or, once after a comma, where the block's input queue
is empty and no chunk set is ready. -/
def State.segmentAllowed (s : State) (k : PlaneIx) (block : Nat) : Bool :=
  let p := s.plane k
  !s.planeRuns k || p.jobs.any (·.fs == .drain) ||
  (p.segSlot && p.adder.isNone && (block != 4 || p.qAdmit.idle) && (!(block == 6 || block == 7) || p.qComplete.idle))

/-- A segment of a test ends (R256): a first run that fails is followed by a second; `unit` is the memory unit that a failing segment names. -/
def State.segmentDone (s : State) (k : PlaneIx) (block : Nat) (run1 run2 : SegRun) (unit : Nat) : State :=
  match (s.plane k).testOf block with
  | none => s
  | some t =>
    let seg := testSegments block - t.segsLeft
    let tested := segUnit block seg unit && (s.plane k).testFree block unit
    let pass1 := segPasses block seg run1 || !tested
    let pass2 := segPasses block seg run2
    if !s.segmentAllowed k block then s
    else
      let s := s.updPlane k fun p => { p with segSlot := false }
      let e : ErrInfo := { block := block, cls := 6, index := unit, op := seg, opk := 8 }
      let s := if pass1 then s
        else if pass2 then s.error k { e with disp := dRetried ||| dRetryOk }
        else (s.error k { e with disp := dRetried }).error k { e with disp := dSecond }
      let failed := !pass1 && !pass2
      if (s.plane k).testOf block != some t then s
      else if failed || t.segsLeft ≤ 1 then s.endRun k t failed
      else s.updPlane k fun p => p.setTest t (some { t with segsLeft := t.segsLeft - 1 })

def execTestSegmentDone (k : PlaneIx) (block : Nat) (run1 run2 : SegRun) (unit : Nat) (s : State) : Out :=
  .next (s.segmentDone k block run1 run2 unit)

/-- The arithmetic blocks (R237, R246). -/
def arithBlocks : List Nat := [4, 6, 7]

/-- A test is overdue (R255): a record of class 12, which is no error of a unit, and every arithmetic block under observation until the
test has passed. -/
def State.testOverdue (s : State) (k : PlaneIx) (block : Nat) : State :=
  match (s.plane k).tests.find? (fun t => t.block == block && t.cmd.isNone && !t.overdue) with
  | none => s
  | some t =>
    let p := s.plane k
    let new := arithBlocks.filter fun b => !p.observed b
    let s := s.updPlane k fun p =>
      { p.setTest t (some { t with overdue := true }) with
        obs := new.map (fun b => { block := b, unit := 0, overdue := true }) ++ p.obs }
    s.writeRecord k { block := block, cls := 12, op := testSegments block - t.segsLeft, opk := 8 } (if new.contains block then dObsEnt else 0)
      (p.observed block)

def execTestOverdue (k : PlaneIx) (block : Nat) (s : State) : Out := .next (s.testOverdue k block)

/-! ### The watchdog of a plane (R11, R276) -/

/-- The watchdog expires: the record names the core, the plane restarts, and every job that names it is fenced.  Where the record retires
the cores, the plane is retired instead (R253). -/
def State.watchdog (s : State) (k : PlaneIx) (core : Fin 4) : State :=
  if (s.plane k).ps != .inService then s
  else
    let s := s.error k { block := 0x0B, cls := 9, index := core.val }
    if (s.plane k).ps != .inService then s
    else
      let cmds := (s.plane k).tests.filterMap (·.cmd)
      let s := s.reportLost k
      let s := s.updPlane k fun p => { p with ps := .restarting }
      let s := s.each cmds.dedup fun s c => s.planeAnswer c k .planedown []
      s.dropPlaneJobs k 3

def execWatchdogExpiry (k : PlaneIx) (core : Fin 4) (s : State) : Out := .next (s.watchdog k core)

/-- The plane is back in service, with no jobs. -/
def execPlaneRestartDone (k : PlaneIx) (s : State) : Out :=
  .next (if (s.plane k).ps = .restarting then s.updPlane k fun p => { p with ps := .inService } else s)

end Sys2Proof.Machine
end

