-- ==== Sys2Proof/Machine/JobOpen.lean ====
section
/-! DEFINITION. The description of a job and the checks of `JOB_OPEN` (R142 to R147, with the rules that row 2 of R147 names, R83, R141,
R183, R253, R259, R325). -/
namespace Sys2Proof.Machine

/-! ### Tables -/

/-- The first `n` bytes of a table; a byte not written reads 0. -/
def tabBytes (t : List (Nat × Byte)) (n : Nat) : List Byte := (List.range n).map fun i => (t.lookup i).getD 0

/-- Every byte of a declared table has been written. -/
def tabWhole (t : List (Nat × Byte)) (n : Nat) : Bool := (List.range n).all fun i => (t.lookup i).isSome

/-- A segment written over a table (R144). -/
def tabWrite (t : List (Nat × Byte)) (off : Nat) (bs : List Byte) : List (Nat × Byte) :=
  bs.zipIdx.map (fun x => (off + x.2, x.1)) ++ t.filter fun x => x.1 < off || off + bs.length ≤ x.1

/-- The declared length of a table (R144). -/
def JobHdr.tabLen (h : JobHdr) (t : Nat) : Nat := match t with
  | 1 => 32 * h.nbucket
  | 2 => 16 * h.nplace
  | _ => h.kimglen

/-- A job with its bucket and placement tables read. -/
def Job.parsed (j : Job) : Job :=
  { j with buckets := parseBuckets (tabBytes j.tabBucket (j.hdr.tabLen 1)), places := parsePlaces (tabBytes j.tabPlace (j.hdr.tabLen 2)) }

/-! ### Row 2 of R147 -/

def within (v lo hi : Nat) : Bool := lo ≤ v && v ≤ hi

/-- The header ranges of R143, R58, R127, R133, R135 and R196; `KIMGLEN` is zero unless the kernel is 5. -/
def JobHdr.rangesOk (h : JobHdr) : Bool :=
  within h.nbucket 1 65536 && within h.nmemb 1 128 && within h.nplace 0 4096 && within h.stripe 5 24 && within h.syncn 0 2048 &&
  within h.slotceil 1 768 && within h.accn 1 (if h.thin then 1024 else 64) && within h.spillq 0 65536 && within h.stashq 0 262144 &&
  within h.retq 0 65536 && within h.qbase 10 10000 && within h.optmo 1 1000 && within h.gwait 0 100 && within h.ckhold 0 3600 &&
  h.redund != 3 && classes.contains h.jclass && h.planes != 0 && (h.opt.kernel == 5 || h.kimglen == 0)

/-- The optimizer and preconditioner blocks (R71, R107, R108). -/
def JobHdr.blocksOk (h : JobHdr) : Bool :=
  optOpenOk h.opt (precBytes h.prec != zeros 32) && (h.opt.kernel != 4 || precRangeOk h.prec)

/-- A chunk of a bucket spans two planes (R49): it does not lie in one granule of the stripe map. -/
def JobHdr.chunkSpans (h : JobHdr) (d : BucketDesc) (c : Nat) : Bool :=
  let r := d.chunkRange c
  (d.elembase + r.1) / 2 ^ h.stripe != (d.elembase + r.1 + r.2 - 1) / 2 ^ h.stripe

/-- Two element ranges overlap (R49). -/
def BucketDesc.overlaps (a b : BucketDesc) : Bool := a.elembase < b.elembase + b.nelem && b.elembase < a.elembase + a.nelem

/-- The fields of a bucket entry (R48). -/
def BucketDesc.fieldsOk (d : BucketDesc) : Bool :=
  d.rsvdZero && within d.chunk 32 4096 && d.chunk % 32 == 0 && within d.nelem 1 16777216 && d.elembase % d.chunk == 0

/-- Entries differ in number and share no element (R49). -/
def bucketsApart : List BucketDesc → Bool
  | [] => true
  | d :: ds => ds.all (fun x => x.bucket != d.bucket && !d.overlaps x) && bucketsApart ds

/-- The bucket table (R48, R49), and `STOCHRND` with an FP32 output (R71). -/
def Job.bucketsOk (j : Job) : Bool :=
  j.buckets.all BucketDesc.fieldsOk && bucketsApart j.buckets &&
  ((maskList 8 j.hdr.planes.toNat).length == 1 || j.buckets.all fun d => (List.range d.nchunks).all fun c => !j.hdr.chunkSpans d c) &&
  (!j.hdr.opt.stochrnd || j.buckets.all fun d => d.outFmt == 1)

/-- A placement entry (R145, R259) on a board of `n` devices. -/
def Place.ok (p : Place) (n : Nat) : Bool :=
  p.rsvdZero && 1 ≤ p.pcount && p.pdev < n && p.pmirror < 2 ^ n && !p.pmirror.testBit p.pdev && (maskList 8 p.pmirror).length ≤ 2

/-- A placement entry and a bucket share an element. -/
def Place.meets (p : Place) (d : BucketDesc) : Bool := p.pbase < d.elembase + d.nelem && d.elembase < p.pbase + p.pcount

/-- The placement table (R145): every bucket lies wholly in the one entry it meets; none is needed on a board of one. -/
def Job.placesOk (j : Job) (n : Nat) : Bool :=
  j.places.all (·.ok n) &&
  if j.hdr.nplace = 0 then n ≤ 1
  else j.buckets.all fun d => match j.places.filter (·.meets d) with
    | [p] => p.pbase ≤ d.elembase && d.elembase + d.nelem ≤ p.pbase + p.pcount
    | _ => false

/-- The elements of a bucket that lie on a plane (R10, R146), ascending. -/
def Job.planeElems (j : Job) (k : PlaneIx) (d : BucketDesc) : List Nat :=
  (j.planeChunks k d).flatMap fun c => (List.range (d.chunkRange c).2).map fun i => (d.chunkRange c).1 + i

/-- The number of elements of a bucket that lie on a plane. -/
def Job.planeCount (j : Job) (k : PlaneIx) (d : BucketDesc) : Nat := ((j.planeChunks k d).map fun c => (d.chunkRange c).2).sum

/-- No bucket's need on a plane exceeds both ceilings (R58). -/
def Job.needsOk (j : Job) : Bool :=
  j.planes.all fun k => j.buckets.all fun d =>
    let need := shareNeed j.hdr.redund (j.planeCount k d)
    need ≤ j.hdr.slotceil || need ≤ j.hdr.spillq

/-- The members (R143, R147): `MDEV` on the board, and no two on one lane of one plane of a device. -/
def membersApart (h : JobHdr) : List MemberDesc → Bool
  | [] => true
  | m :: ms =>
    ms.all (fun x => x.mdev != m.mdev || (maskList 8 h.planes.toNat).all fun k => m.mlanes / 16 ^ k % 16 != x.mlanes / 16 ^ k % 16) &&
    membersApart h ms

/-- The member lanes of this device on the job's planes. -/
def State.ownLanes (s : State) (j : Job) : List DevLane :=
  j.planes.flatMap fun k => ((List.range j.members.length).filter fun m => j.memberDev m == s.bidx).map fun m => devLane k (j.memberLane k m)

def State.membersOk (s : State) (j : Job) : Bool :=
  j.members.all (fun m => m.mdev < s.part.bsize) && membersApart j.hdr j.members && (s.ownLanes j).all fun d => !s.isPeer d

/-- The peer lanes toward each other device of the job that are up at this moment (R183), as (plane, device, lane). -/
def State.peerLists (s : State) (j : Job) : List (Nat × Nat × Nat) :=
  j.planes.flatMap fun k => ((s.jobDevs j).filter (· != s.bidx)).flatMap fun d =>
    (allLanes.filter fun l => s.farDev (devLane k l) == d && (s.lane (devLane k l)).st == .up).map fun l => (k.val, d, l.val)

/-- The devices that this one must exchange traffic with: members on one side and a home on the other (R183), or a home and its mirror
(R259; for both sides, DEDUCED, notes/assumptions 49). -/
def State.mustReach (s : State) (j : Job) (d : Nat) : Bool :=
  let member (x : Nat) : Bool := j.members.any (·.mdev == x)
  let home (x : Nat) : Bool := j.places.any (·.pdev == x)
  let mirror (x y : Nat) : Bool := j.places.any fun p => p.pdev == y && p.pmirror.testBit x
  (member d && home s.bidx) || (member s.bidx && home d) || mirror s.bidx d || mirror d s.bidx

/-- No list that is needed is empty (R183, R259). -/
def State.listsOk (s : State) (j : Job) (peers : List (Nat × Nat × Nat)) : Bool :=
  ((s.jobDevs j).filter fun d => d != s.bidx && s.mustReach j d).all fun d => j.planes.all fun k =>
    peers.any fun p => p.1 == k.val && p.2.1 == d

/-- On a board, a member or a placement entry on this device (R147, R168). -/
def State.hasPart (s : State) (j : Job) : Bool :=
  s.part.bsize ≤ 1 || j.members.any (·.mdev == s.bidx) || j.places.any fun p => p.pdev == s.bidx || p.pmirror.testBit s.bidx

/-- The layout of a user kernel image (R83, R325). -/
def Job.imageOk (j : Job) : Bool :=
  let b := j.kimg
  let n := fieldAt b 4 4
  j.hdr.opt.kernel != 5 ||
  (16 ≤ j.hdr.kimglen && fieldAt b 0 2 == 1 && fieldAt b 2 1 == j.hdr.opt.userwords && zeroAt b 3 1 && within n 1 4096 &&
   within (fieldAt b 8 4) 1 64 && zeroAt b 0x0C 4 && j.hdr.kimglen == 16 + 8 * n + 4627)

/-- Row 2 of R147 for a parsed description. -/
def State.openParam (s : State) (j : Job) (peers : List (Nat × Nat × Nat)) : Bool :=
  let h := j.hdr
  let ceil := if h.serving then s.part.serve.jobceil else s.part.lend.jobceil
  h.rangesOk && tabWhole j.tabBucket (h.tabLen 1) && tabWhole j.tabPlace (h.tabLen 2) && tabWhole j.tabKimg (h.tabLen 3) &&
  h.blocksOk && rateRangeOk h.rate h.serving ceil && j.planes.all (fun k => (s.plane k).ps == .inService) && s.membersOk j &&
  j.bucketsOk && j.placesOk s.part.bsize && s.hasPart j && j.needsOk && s.listsOk j peers && j.imageOk

/-! ### Rows 3 to 5 of R147 -/

/-- A user kernel's signature verifies with the key that the manifest names (R83, R325). -/
def State.kernelSigned (s : State) (j : Job) : Bool :=
  let b := j.kimg
  let n := b.length - 4627
  j.hdr.opt.kernel != 5 || (s.part.ukey && s.nv.verifies (slice s.boot.manifest 0x960 2592) (b.take n) (b.drop n))

/-- Row 3: every member lane of this device belongs to the job's partition (R141, R195). -/
def State.openPartition (s : State) (j : Job) : Bool :=
  ((s.ownLanes j).all fun d => s.laneOwner d == 2 || s.laneOwner d == (if j.hdr.serving then 1 else 0)) && s.kernelSigned j

/-- The buckets of which this device keeps a copy, home or mirror (R145, R259). -/
def State.keptBuckets (s : State) (j : Job) : List BucketDesc := j.buckets.filter fun d => (s.keepers j d.bucket).contains s.bidx

/-- The bytes of one copy of a share of `n` elements (R73, R74, R45). -/
def copyBytes (o : OptBlock) (n : Nat) : Nat :=
  if o.kernel = 0 then 0 else wordsOf o * page (4 * n) + if o.stochrnd then page (2 * n) else 0

/-- The bytes of the block matrices and the staging area on a plane (R110). -/
def kronSize (h : JobHdr) (ns : List Nat) : Nat :=
  let sq := blockEdge h.prec * blockEdge h.prec
  let nb := (ns.map (· / sq)).sum
  if h.opt.kernel = 4 then nb * (20 * sq) + (nb + h.prec.refresh - 1) / h.prec.refresh * (8 * sq) else 0

/-- The job's state on a plane, in bytes (R147).  What the frames that its mirror copies receive take of it is not stated (R259): a free value
where the plane keeps one (notes/assumptions 4). -/
def State.jobBytes (s : State) (j : Job) (k : PlaneIx) : Nat :=
  let h := j.hdr
  let ns := (s.keptBuckets j).map fun d => j.planeCount k d
  let here := (j.members.filter fun m => m.mdev == s.bidx).length
  (ns.map fun n => 2 * copyBytes h.opt n).sum + kronSize h ns + 2 * h.stashq * 65536 + (h.spillq + h.retq) * 65536 +
  j.logl * (4 * ns.sum + 192) +
  (let ms := ((s.keptBuckets j).filter fun d => s.homeDev j d.bucket != s.bidx).map fun d => j.planeCount k d
   if ms.isEmpty then 0 else Config.mirrorFrames ms) + if h.staging then 0 else h.nbucket * 16 * here

/-- Row 4: the state fits in `HBMQ`. -/
def State.openSize (s : State) (j : Job) : Bool := j.planes.all fun k => s.jobBytes j k ≤ j.hdr.hbmq * 65536

/-- Synchronisation objects that jobs hold or are about to take on a plane (R7, R156). -/
def State.syncHeld (s : State) (k : PlaneIx) : Nat :=
  ((s.jobs.filter fun j => j.hdr.planes.getLsbD k.val && j.st.isOpen &&
    (j.st.isActive || ((s.pjob k j.id).map fun pj => !pj.syncPhys.isEmpty).getD false)).map (·.hdr.syncn)).sum

/-- The scratch regions of 64 KiB that a KRONECKER block needs (R253). -/
def scratchNeed (h : JobHdr) : Nat :=
  if h.opt.kernel = 4 then [11, 44, 176, 128].getD h.prec.block 0 else 0

/-- Enough unretired engine scratch on a plane (R253): 2 MiB of it is held for staging while a job on the plane stages. -/
def State.scratchOk (s : State) (j : Job) (k : PlaneIx) : Bool :=
  let free := 256 - (s.plane k).retScratch.dedup.length
  let stages := j.hdr.staging || s.jobs.any fun x => x.st.isActive && x.hdr.planes.getLsbD k.val && x.hdr.staging
  scratchNeed j.hdr ≤ free - (if stages then 32 else 0) && (!j.hdr.staging || 32 ≤ free)

/-- Row 5: the counted resources, on this device and on every plane of the job. -/
def State.openQuota (s : State) (j : Job) : Bool :=
  s.jobsOpen < 256 && (freeGroup s.groups).isSome && j.planes.all fun k =>
    s.syncHeld k + j.hdr.syncn ≤ 2048 && j.hdr.hbmq ≤ s.hbmFreeOf k j.hdr.serving && s.scratchOk j k

/-- The status of `JOB_OPEN` for a job in `DEFINING` (rows 2 to 6 of R147). -/
def State.openStatus (s : State) (j : Job) (peers : List (Nat × Nat × Nat)) : Status :=
  if !s.openParam j peers then .param
  else if !s.openPartition j then .partition
  else if !s.openSize j then .param
  else if !s.openQuota j then .quota
  else .ok

/-! ### What a plane keeps of a job from its opening -/

/-- What a bucket's share is to this device (R55, R145, R259). -/
def State.roleOf (s : State) (j : Job) (b : Nat) : Role :=
  if s.homeDev j b = s.bidx then .home else if (j.mirrorMask b).testBit s.bidx then .mirror else .remote

/-- The share of a bucket on a plane as the job opens (R75, R111). -/
def State.openShareOf (s : State) (j : Job) (k : PlaneIx) (d : BucketDesc) : Share :=
  let role := s.roleOf j d.bucket
  let elems := j.planeElems k d
  let sq := blockEdge j.hdr.prec * blockEdge j.hdr.prec
  let h : Share := { bucket := d.bucket, role := role, elems := elems }
  if role = .remote || j.hdr.opt.kernel = 0 then h
  else { h.zeroCopies j.hdr.opt with
    kblocks := if j.hdr.opt.kernel = 4 then List.replicate (elems.length / sq) (KBlock.fresh (blockEdge j.hdr.prec)) else [] }

/-- The shares of a plane in ascending bucket number: those it keeps, and those its members contribute to. -/
def State.openShares (s : State) (j : Job) (k : PlaneIx) : List Share :=
  let ds := (j.buckets.filter fun d => !(j.planeChunks k d).isEmpty).mergeSort fun a b => a.bucket ≤ b.bucket
  let member := j.members.any (·.mdev == s.bidx)
  (ds.filter fun d => member || s.roleOf j d.bucket != .remote).map fun d => s.openShareOf j k d

/-- The job on a plane as it opens (R75, R77, R87, R111, R143, R156, R200). -/
def State.openPJob (s : State) (j : Job) (k : PlaneIx) (phys : List Nat) : PJob :=
  let h := j.hdr
  { id := j.id, elidedPeers := (j.lostPeers.filter (·.1 == k.val)).map (·.2), orec := { lscale := h.opt.lsinit, clipf := fone, pow1 := fone, pow2 := fone }, opt := h.opt, prec := h.prec,
    shares := s.openShares j k, group := j.group, groupRec := j.groupRec, syncs := List.replicate h.syncn 0, syncPhys := phys, rate := h.rate, tc := h.rate.cbs,
    tp := h.rate.pbs }

end Sys2Proof.Machine
end

