-- ==== Sys2Proof/Machine/Jobs.lean ====
section
/-! DEFINITION. The job, group and optimizer commands (R142 to R149, R153, R155, R159, R160, R163, R262, R271, R298, R299, R301, with R72 and
R108).  For a command that planes execute, `exec…` is what the dispatcher does and `take…` what the plane does when it takes it. -/
namespace Sys2Proof.Machine

/-! ### Definition (R142 to R144, R262) -/

/-- The jobs in `DEFINING`. -/
def State.defining (s : State) : Nat := (s.jobs.filter fun j => j.st == .defining).length

/-- The header and member table of a `JOB_DEFINE` in a job that keeps its `REPL_SET` values. -/
def Job.define (j : Job) (b : List Byte) : Job :=
  let h := parseHdr b
  { j with rawHdr := b.take 192, rawMemb := slice b 192 (8 * h.nmemb), tabBucket := [], tabPlace := [], tabKimg := [], hdr := h,
           members := parseMembers (b.drop 192) h.nmemb, buckets := [], places := [] }

/-- `JOB_DEFINE` (R142, R317); an identifier whose `JOB_CLOSE` reply has not been sent is not free (R149). -/
def execJobDefine (p : Packet) (s : State) : Out :=
  .next (s.dispatch 0x0201 p fun c s =>
    if s.host.programming.isSome then s.reply c .busy
    else match s.findJob c.pkt.job with
      | some j =>
        if j.st = .defining then (s.updJob j.id fun j => j.define c.pkt.params).reply c .ok else s.reply c .param
      | none =>
        if s.host.closeReplies.any fun x => x.2 == c.pkt.job && s.host.held.any (·.id == x.1) then s.reply c .param
        else if 4 ≤ s.defining then s.reply c .busy
        else ({ s with jobs := s.jobs ++ [Job.define { id := c.pkt.job } c.pkt.params] } : State).reply c .ok)

/-- A segment written into a table of a job (R144). -/
def Job.writeTable (j : Job) (t off : Nat) (bs : List Byte) : Job := match t with
  | 1 => { j with tabBucket := tabWrite j.tabBucket off bs }
  | 2 => { j with tabPlace := tabWrite j.tabPlace off bs }
  | _ => { j with tabKimg := tabWrite j.tabKimg off bs }

/-- `JOB_TABLE` (R144). -/
def execJobTable (p : Packet) (s : State) : Out :=
  .next (s.dispatch 0x0202 p fun c s =>
    let t := pf c.pkt 0 1
    let off := pf c.pkt 4 4
    let n := pf c.pkt 8 4
    match s.findJob c.pkt.job with
    | none => s.reply c .nojob
    | some j =>
      if j.st != .defining then s.reply c .nojob
      else if j.hdr.tabLen t < off + n then s.reply c .param
      else (s.updJob j.id fun j => j.writeTable t off (psl c.pkt 12 n)).reply c .ok)

/-- `REPL_SET` (R262). -/
def execReplSet (p : Packet) (s : State) : Out :=
  .next (s.dispatch 0x0209 p fun c s =>
    let d := pf c.pkt 0 2
    let l := pf c.pkt 2 1
    match s.findJob c.pkt.job with
    | none => s.reply c .param
    | some j =>
      if j.st != .defining || 10000 < d || !within l 1 64 then s.reply c .param
      else (s.updJob j.id fun j => { j with digk := d, logl := l }).reply c .ok)

/-! ### `JOB_OPEN` (R147) -/

/-- The job becomes `LOADING`: its group record and its peer lists are taken (R152, R183), and every plane of it takes the command. -/
def State.openJob (s : State) (c : Held) (j : Job) (peers : List (Nat × Nat × Nat)) : State :=
  let g := (freeGroup s.groups).getD 0
  let s := { s with groups := g :: s.groups }
  let s := s.updJob j.id fun _ => { j with
    st := .loading, peers := peers, groupRec := g, group := List.range j.members.length, reform := none, reformStep := none, fencedM := [], lostM := [], lostPeers := [], lastComb := -1 }
  s.handOut c j.planes

def execJobOpen (p : Packet) (s : State) : Out :=
  .next (s.dispatch 0x0203 p fun c s =>
    if s.host.programming.isSome then s.reply c .busy
    else match s.findJob c.pkt.job with
      | none => s.reply c .nojob
      | some j =>
        if j.st != .defining then s.reply c .nojob
        else
          let j := j.parsed
          let peers := s.peerLists j
          match s.openStatus j peers with
          | .ok => s.openJob c j peers
          | st => s.reply c st)

/-- A plane opens the job: its shares, its objects, the fences of members lost before (R155), and the dormant member lanes of it that wake
(R75, R156, R230).  A `JOB_START` already handed out does not keep the plane from taking the `JOB_OPEN` before it (R308). -/
def State.takeJobOpen (s : State) (k : PlaneIx) (c : PlaneCmd) : State :=
  match s.findJob c.pkt.job with
  | none => s.planeAnswer c.held k .fenced []
  | some j =>
    if !j.st.isActive then s.planeAnswer c.held k .fenced []
    else if (s.pjob k j.id).isSome then s.planeAnswer c.held k .ok []
    else
      let pj := s.openPJob j k ((s.plane k).freeSync.take j.hdr.syncn)
      let s := s.updPlane k fun p => { p with freeSync := p.freeSync.drop j.hdr.syncn, jobs := p.jobs ++ [pj], fenceQ := p.fenceQ ++ j.lostM.reverse.map fun m => (j.id, m) }
      let s := s.each ((s.ownLanes j).filter fun d => planeOf d == k) fun s d => s.wakeLane d
      s.planeAnswer c.held k .ok []

/-! ### `JOB_START` (R148, R167) -/

/-- `STEP` of a job, the same on every plane of it (R77). -/
def State.jobStep (s : State) (j : Job) : Nat := (((s.heldPlanes j).filterMap fun k => s.pjob k j.id).head?.map (·.orec.step)).getD 0

def execJobStart (p : Packet) (s : State) : Out :=
  .next (s.dispatch 0x0204 p fun c s =>
    match s.findJob c.pkt.job with
    | none => s.reply c .param
    | some j =>
      if j.st != .loading then s.reply c .param
      else
        let n := s.jobStep j
        (s.updJob j.id fun j => { j with st := .running, restore := false, lastComb := (n : Int) - 1 }).handOut c j.planes)

/-- A plane sends the digest of the description to its peers, compares those it has, and begins the step (R148, R167).  Its `STEP` less 1 is
L of R72 until a step is combined. -/
def State.takeJobStart (s : State) (k : PlaneIx) (c : PlaneCmd) : State :=
  s.withPJob k c fun j pj =>
    if jobEnded j pj then s.planeAnswer c.held k .fenced []
    else
      let s := s.updJob j.id fun j => { j with lastComb := max j.lastComb ((pj.orec.step : Int) - 1) }
      let s := s.each ((s.jobDevs j).filter (· != s.bidx)) fun s d => s.toDevice k j d (jdigFrame j) 0
      let s := (s.jdigCheck j.id).nextStep k j.id
      (s.retryGathers k j.id).planeAnswer c.held k .ok []

/-! ### `JOB_CLOSE` (R148, R149, R310) -/

/-- The planes of a job without a running step release what it holds; no report follows (R148 to R151). -/
def State.closeQuiet (s : State) (j : Job) : State :=
  let s := s.updJob j.id fun j => { j with st := .fenced, ended := true, restore := false }
  (s.each (s.heldPlanes j) fun s k => s.fencePlane k j.id).releaseGroups j

/-- `JOB_CLOSE`: reads and waits end, a running step is fenced with cause 2, and the reply waits for the planes. -/
def State.closeJob (s : State) (c : Held) (j : Job) : State :=
  let s := (s.updHeld c.id fun c => { c with phase := .waiting }).updJob j.id fun j => { j with closing := some c.id }
  let s := s.each j.planes fun s k => s.endReads k j.id
  match j.st with
  | .running | .reclaiming => s.fenceJob j.id 2
  | .loading => s.closeQuiet j
  | _ => s

def execJobClose (p : Packet) (s : State) : Out :=
  .next (s.dispatch 0x0205 p fun c s =>
    match s.findJob c.pkt.job with
    | none => s.reply c .param
    | some j =>
      if j.closing.isSome then s.reply c .param
      else if j.st = .defining then ({ s with jobs := s.jobs.filter (·.id != j.id) } : State).reply c .ok (s.perPlane j)
      else s.closeJob c j)

/-- Every plane has released the closing job: the reply with `STEP` and `GEN`; the identifier is free once it has been sent (R149). -/
def execJobCloseReleased (job : Nat) (s : State) : Out :=
  .next (match s.findJob job with
    | none => s
    | some j => match j.closing with
      | none => s
      | some id =>
        let done := j.ended && j.planes.all fun k =>
          ((s.pjob k job).map fun pj => pj.fs == .fenced || pj.fs == .reclaimed).getD true && (s.plane k).cmdIn.all fun x => x.pkt.job != job
        if done then
          let s := ((s.removeJob job).updHost fun h => { h with closeReplies := (id, job) :: h.closeReplies }).answer id .ok (s.perPlane j)
          s.updHost fun h => { h with closeReplies := h.closeReplies.filter fun x => h.held.any (·.id == x.1) }
        else s)

/-! ### `JOB_QUERY`, `JOB_LIST` (R298) -/

/-- The head of a `JOB_QUERY` reply.  No rule gives `GROUP` and `NMEMB` of a job that has no group record: free values (notes/assumptions
3). -/
def jobQueryHead (j : Job) (n : Nat) : List Byte :=
  let holds := j.st.isActive
  leBytes 1 j.st.code ++ leBytes 1 (j.reform.isSome && holds).toNat ++
  leBytes 2 (if holds then j.groupRec else (Config.reading n).toNat) ++
  leBytes 2 (if j.st = .defining then (Config.reading (n + 1)).toNat else j.group.length) ++ zeros 2 ++ leBytes 16 (listMask j.fencedM)

def execJobQuery (p : Packet) (s : State) : Out :=
  .next (s.dispatch 0x0206 p fun c s =>
    match s.findJob c.pkt.job with
    | none => s.reply c .nojob
    | some j =>
      let head := jobQueryHead j s.fresh
      let s := { s with fresh := s.fresh + 2 }
      if j.st = .defining then s.reply c .ok (head ++ zeros 128) else s.handOut c j.planes head)

def State.takeJobQuery (s : State) (k : PlaneIx) (c : PlaneCmd) : State :=
  s.withPJob k c fun _ pj => s.planeAnswer c.held k .ok (leBytes 1 pj.fs.code ++ zeros 3 ++ leBytes 4 pj.orec.gen ++ leBytes 8 pj.orec.step)

def execJobList (p : Packet) (s : State) : Out :=
  .next (s.dispatch 0x020D p fun c s =>
    let js := s.jobs.mergeSort fun a b => a.id ≤ b.id
    s.reply c .ok (leBytes 2 js.length ++ zeros 2 ++ js.flatMap fun j => leBytes 2 j.id ++ leBytes 1 j.st.code ++ leBytes 1 j.hdr.jclass))

/-! ### `RECLAIM` (R159, R160) -/

/-- The deadline of a command in ms: 0 means 45,000. -/
def deadlineMs (d : Nat) : Nat := if d = 0 then 45000 else d

/-- The planes of a job take an accepted command whose reply has been written (R309), each through its Command in queue (R21). -/
def State.notify (s : State) (c : Held) (j : Job) : State :=
  s.each (s.heldPlanes j) fun s k =>
    let x : PlaneCmd := { held := c.id, pkt := c.pkt }
    if (s.plane k).cmdIn.length < 16 then s.updPlane k fun p => { p with cmdIn := p.cmdIn ++ [x] }
    else s.updHost fun h => { h with cmdWait := h.cmdWait ++ [(k.val, x)] }

/-- A `LOADING` job is reclaimed at once: what has been loaded is kept, and a restore ends (R148, R159, R278). -/
def State.reclaimLoading (s : State) (j : Job) (r : ReclaimSt) : State :=
  let s := s.updJob j.id fun j => { j with st := .reclaimed, ended := true, restore := false, reclaim := some r }
  let s := (s.each (s.heldPlanes j) fun s k => s.reclaimPlane k j.id).releaseGroups j
  s.reclaimReport { j with reclaim := some r } .ok

def execReclaim (p : Packet) (s : State) : Out :=
  .next (s.dispatch 0x0207 p fun c s =>
    let d := pf c.pkt 0 4
    let r : ReclaimSt := { deadlineMs := deadlineMs d, at' := s.host.hpcnt + deadlineMs d * 1000000 }
    if 60000 < d then s.reply c .param
    else match s.findJob c.pkt.job with
      | none => s.reply c .nojob
      | some j =>
        if j.st = .defining || j.closing.isSome then s.reply c .nojob
        else if j.hdr.serving then s.reply c .partition
        else
          let s := s.reply c .ok
          match j.st with
          | .loading => s.reclaimLoading j r
          | .running => (s.updJob j.id fun j => { j with st := .reclaiming, reclaim := some r, reclaimTaken := [] }).notify c j
          | .reclaiming =>
            s.updJob j.id fun j => { j with reclaim := some (match j.reclaim with
              | some o => if r.at' < o.at' then r else o
              | none => r) }
          | _ => s)

/-- The plane has taken the `RECLAIM`: its next pair carries `DRAIN` (R160). -/
def State.takeReclaim (s : State) (k : PlaneIx) (c : PlaneCmd) : State :=
  s.updJob c.pkt.job fun j => { j with reclaimTaken := k.val :: j.reclaimTaken }

/-! ### `CKPT_READ`, `LOG_READ` (R163, R271) -/

/-- The rule of R72 for a step: not below L + 2. -/
def Job.fromOk (j : Job) (step : Nat) : Bool := j.lastComb + 2 ≤ (step : Int)

/-- The destination is in the member set and its lane to every named plane of the job is up; for a member of another device, what this device
can see of its lane is that a lane toward that device is up (R163; DEDUCED, notes/assumptions 46). -/
def State.destOk (s : State) (j : Job) (dest : Nat) (ps : List PlaneIx) : Bool :=
  dest < j.members.length &&
  (ps.filter fun k => j.hdr.planes.getLsbD k.val).all fun k =>
    if j.memberDev dest = s.bidx then (s.lane (devLane k (j.memberLane k dest))).st == .up else !s.unreachable k j (j.memberDev dest)

/-- The dispatcher's part of a read (R163): `NOJOB`, `PARAM`, or the planes take it. -/
def State.readCmd (s : State) (c : Held) (isLog : Bool) : State :=
  let named := planesOf c.pkt.pmask.toNat
  match s.findJob c.pkt.job with
  | none => s.replyPlanes c named .nojob
  | some j =>
    let ps := namedPlanes c.pkt j.hdr.planes
    let from' := pf c.pkt 16 8
    if !(j.st.isOpen && j.st != .loading) || j.closing.isSome then s.replyPlanes c ps .nojob
    else if !s.destOk j (pf c.pkt 0 1) ps || (!isLog && (if j.st.isRunning then !j.fromOk from' else from' != 0)) then
      s.replyPlanes c ps .param
    else s.handOut c ps

def execCkptRead (p : Packet) (s : State) : Out := .next (s.dispatch 0x0208 p fun c s => s.readCmd c false)

def execLogRead (p : Packet) (s : State) : Out := .next (s.dispatch 0x020A p fun c s => s.readCmd c true)

/-- A plane takes a read: a checkpoint of a running job waits for the drain that begins its step; anything else begins at once. -/
def State.takeRead (s : State) (k : PlaneIx) (c : PlaneCmd) (isLog : Bool) : State :=
  s.withPJob k c fun j pj =>
    let x : CkptJob := { held := c.held, job := j.id, isLog := isLog, dest := pf c.pkt 0 1, rwkey := pf c.pkt 4 4, rwbase := pf c.pkt 8 8,
                         step := if isLog then 0 else pf c.pkt 16 8 }
    let s := s.updPlane k fun p => { p with ckpts := p.ckpts ++ [x] }
    if !isLog && j.st.isRunning && !jobEnded j pj && pj.orec.step < x.step then s else s.startRead k x

def State.takeCkptRead (s : State) (k : PlaneIx) (c : PlaneCmd) : State := s.takeRead k c false

def State.takeLogRead (s : State) (k : PlaneIx) (c : PlaneCmd) : State := s.takeRead k c true

/-! ### Groups (R153, R155) -/

/-- What R153 checks of a `GROUP_REFORM`, in its order, and the new group. -/
def Job.reformStatus (j : Job) (ms : List Nat) (groups : List Nat) : Status :=
  if !j.st.isRunning || ms.any (fun m => j.members.length ≤ m || !j.group.contains m || !j.fencedM.contains m) ||
     j.group.all ms.contains then .param
  else if j.reform.isSome then .busy
  else if (freeGroup groups).isNone then .quota
  else .ok

/-- `GROUP_REFORM`: a second record for the new group; the planes record the re-form when they take it (R152 to R154, R308). -/
def execGroupReform (p : Packet) (s : State) : Out :=
  .next (s.dispatch 0x0301 p fun c s =>
    match s.findJob c.pkt.job with
    | none => s.reply c .param
    | some j =>
      let ms := maskMembers c.pkt
      match j.reformStatus ms s.groups with
      | .ok =>
        let g := (freeGroup s.groups).getD 0
        let s := { s with groups := g :: s.groups }
        let s := s.updJob j.id fun j => { j with reform := some (g, j.group.filter fun m => !ms.contains m) }
        (s.reply c .ok).notify c j
      | st => s.reply c st)

/-- The plane records the re-form; in `RUN` it sends its pair at once with `ABANDON` (R154). -/
def State.takeGroupReform (s : State) (k : PlaneIx) (c : PlaneCmd) : State :=
  let pending (pj : PJob) : Bool := ((s.findJob c.pkt.job).bind (·.reform)).any fun r => r.1 != pj.groupRec
  (s.updPJob k c.pkt.job fun pj => { pj with reformSeen := pending pj }).checkPair k c.pkt.job

/-- `MEMBER_FENCE`: recorded at once, applied by each plane at its apply point (R155, R308). -/
def execMemberFence (p : Packet) (s : State) : Out :=
  .next (s.dispatch 0x0302 p fun c s =>
    match s.findJob c.pkt.job with
    | none => s.reply c .nojob
    | some j =>
      let ms := maskMembers c.pkt
      if !j.st.isActive then s.reply c .nojob
      else if ms.any fun m => j.members.length ≤ m then s.reply c .param
      else (s.updJob j.id fun j => { j with fencedM := ms.filter (fun m => !j.fencedM.contains m) ++ j.fencedM }).handOut c j.planes)

def State.takeMemberFence (s : State) (k : PlaneIx) (c : PlaneCmd) : State :=
  s.withPJob k c fun j pj =>
    if jobEnded j pj then s.planeAnswer c.held k .fenced []
    else s.updPlane k fun p => { p with applyQ := p.applyQ ++ [c] }

/-! ### Optimizer and preconditioner blocks (R72, R108, R301) -/

/-- The fields of a block that `OPT_SET` may not change (R72). -/
def OptBlock.fixedPart (o : OptBlock) : OptBlock :=
  { o with lr := 0, mu := 0, beta2 := 0, eps := 0, wd := 0, trustmax := 0, clipnorm := 0, uparam := [] }

/-- Where `OPT_SET` and `PREC_SET` stand for a job: `LOADING` takes `FROM` 0 and the planes replace the block when they take it; a running
job takes a step that no plane can have begun, and the block waits for it on every plane (R72, R301, R308). -/
def State.setBlock (s : State) (c : Held) (ok : Job → Bool) (pend : PJob → PJob) : State :=
  let from' := pf c.pkt 0 8
  match s.findJob c.pkt.job with
  | none => s.reply c .param
  | some j =>
    if !j.st.isActive || !ok j then s.reply c .param
    else if j.st = .loading then (if from' = 0 then s.handOut c j.planes else s.reply c .param)
    else if !j.fromOk from' then s.reply c .param
    else (s.each (s.heldPlanes j) fun s k => s.updPJob k j.id pend).reply c .ok

def execOptSet (p : Packet) (s : State) : Out :=
  .next (s.dispatch 0x0501 p fun c s =>
    let o := parseOpt (psl c.pkt 8 64)
    s.setBlock c (fun j => optRangeOk o && o.fixedPart == j.hdr.opt.fixedPart) fun pj =>
      { pj with pendOpt := pj.pendOpt ++ [(pf c.pkt 0 8, o)] })

/-- In `LOADING` the block is replaced at once (R301). -/
def State.takeOptSet (s : State) (k : PlaneIx) (c : PlaneCmd) : State :=
  s.withPJob k c fun j pj =>
    if jobEnded j pj then s.planeAnswer c.held k .fenced []
    else (s.updPJob k j.id fun pj => { pj with opt := parseOpt (psl c.pkt 8 64) }).planeAnswer c.held k .ok []

def execOptRead (p : Packet) (s : State) : Out := .next (s.dispatch 0x0502 p fun c s => s.toJobPlanes c)

def State.takeOptRead (s : State) (k : PlaneIx) (c : PlaneCmd) : State :=
  s.withPJob k c fun j pj => s.planeAnswer c.held k .ok (optBytes pj.opt ++ orecBytes j.id k.val pj.fs pj.orec)

def execPrecSet (p : Packet) (s : State) : Out :=
  .next (s.dispatch 0x0503 p fun c s =>
    let b := parsePrec (psl c.pkt 8 32)
    s.setBlock c (fun j => j.hdr.opt.kernel == 4 && precRangeOk b && b.block == j.hdr.prec.block) fun pj =>
      { pj with pendPrec := pj.pendPrec ++ [(pf c.pkt 0 8, b)] })

def State.takePrecSet (s : State) (k : PlaneIx) (c : PlaneCmd) : State :=
  s.withPJob k c fun j pj =>
    if jobEnded j pj then s.planeAnswer c.held k .fenced []
    else (s.updPJob k j.id fun pj => { pj with prec := parsePrec (psl c.pkt 8 32) }).planeAnswer c.held k .ok []

/-- The preconditioner block in force: that of the lowest plane that keeps the job. -/
def State.precNow (s : State) (j : Job) : PrecBlock := (((s.heldPlanes j).filterMap fun k => s.pjob k j.id).head?.map (·.prec)).getD j.hdr.prec

/-- `PREC_READ` (R107). -/
def execPrecRead (p : Packet) (s : State) : Out :=
  .next (s.dispatch 0x0504 p fun c s =>
    match s.findJob c.pkt.job with
    | none => s.reply c .param
    | some j => if j.st.isOpen && j.hdr.opt.kernel = 4 then s.reply c .ok (precBytes (s.precNow j)) else s.reply c .param)

end Sys2Proof.Machine
end

