-- ==== Sys2Proof/Machine/PlaneTake.lean ====
section
/-! DEFINITION. A plane takes a dispatched command from its Command in queue (R21, R308). -/
namespace Sys2Proof.Machine

/-- The plane's part of a command, by opcode (R296 to R305).  A packet of a device-scope opcode never reaches a plane. -/
def State.takeCmd (s : State) (k : PlaneIx) (c : PlaneCmd) : State :=
  match c.pkt.opcode.toNat with
  | 0x0102 => s.takeDevStatus k c
  | 0x0103 => s.takeCntRead k c
  | 0x0104 => s.takeAstatRead k c
  | 0x0203 => s.takeJobOpen k c
  | 0x0204 => s.takeJobStart k c
  | 0x0206 => s.takeJobQuery k c
  | 0x0207 => s.takeReclaim k c
  | 0x0208 => s.takeCkptRead k c
  | 0x020A => s.takeLogRead k c
  | 0x020B => s.takeRestoreBegin k c
  | 0x020C => s.takeRestoreReplay k c
  | 0x0301 => s.takeGroupReform k c
  | 0x0302 => s.takeMemberFence k c
  | 0x0303 | 0x0304 | 0x0305 | 0x0306 => s.queueSync k c
  | 0x0401 => s.takeBucketQuery k c
  | 0x0402 => s.takeExpandSet k c
  | 0x0403 => s.takeHistRead k c
  | 0x0501 => s.takeOptSet k c
  | 0x0502 => s.takeOptRead k c
  | 0x0503 => s.takePrecSet k c
  | 0x0601 => s.takeStashQuery k c
  | 0x0602 => s.takeTreeRead k c
  | 0x0701 => s.takeRateSet k c
  | 0x0702 => s.takeRateRead k c
  | 0x0703 => s.takeShapeSet k c
  | 0x0704 => s.takeShapeRead k c
  | 0x0705 => s.takeGatePhase k c
  | 0x0706 => s.takeGateRead k c
  | 0x0801 => s.takeLaneStatus k c
  | 0x0802 => s.takeLaneEq k c
  | 0x0803 => s.takeLaneHold k c
  | 0x0804 => s.takeLaneRelease k c
  | 0x0805 => s.takeLaneDormant k c
  | 0x0806 => s.takeLaneWake k c
  | 0x0807 => s.takeLaneDisable k c
  | 0x0808 => s.takeLaneEnable k c
  | 0x0809 => s.takeLaneFwd k c
  | 0x0904 => s.takeTestRun k c
  | _ => s

/-- The oldest command of the plane's Command in queue is taken, and its entry lets a waiting one in (R21). -/
def State.planeTake (s : State) (k : PlaneIx) : State :=
  match (s.plane k).cmdIn with
  | [] => s
  | c :: cs => ((s.updPlane k fun p => { p with cmdIn := cs }).refillCmdIn k).takeCmd k c

/-- A plane that is not in service takes nothing. -/
def execPlaneCommandTake (k : PlaneIx) (s : State) : Out :=
  .next (if (s.plane k).ps = .inService then s.planeTake k else s)

end Sys2Proof.Machine
end

