-- ==== Sys2Proof/Machine/Frames.lean ====
section
/-! DEFINITION. What a plane does with an admitted frame, by `OP` (R52, R125, R136, R137, R157, R175, R185 to R189), the frame rows of the
opcode table, and the frames that wait behind the policer until a credit returns (R19, R20). -/
namespace Sys2Proof.Machine

/-- A status frame that names no member and answers a `DIGEST` speaks of a copy (notes/assumptions 59). -/
def aboutCopy (f : Frame) : Bool := f.hdr.op == opStatus && !f.hdr.uni && fieldAt f.payload 4 1 == opDigest

/-- The handling by `OP`. -/
def State.handleBy (s : State) (x : Parked) : State :=
  let op := x.frame.hdr.op
  if op = opGrad then s.grad x.lane x.frame x.later
  else if op = opPartial then s.partialIn x.lane x.frame x.later x.work
  else if op = opDone then s.doneIn x.lane x.frame x.keep
  else if aboutCopy x.frame then s.copyStatus x.lane x.frame
  else if op = opStatus || op = opParm || op = opRslt then s.peerIn x.lane x.frame x.keep x.work
  else if op = opLoad then s.load x.lane x.frame x.keep
  else if op = opGreq then s.greq x.lane x.frame x.keep
  else if op = opAck then s.ack x.lane x.frame x.keep
  else if op = opRdreq then s.rdreq x.lane x.frame x.work.parity true x.work x.keep
  else if op = opSread then s.sread x.lane x.frame x.work
  else if op = opNotice || op = opRetract then s.noticeIn x.lane x.frame x.keep
  else if op = opSync then s.sync x.lane x.frame
  else if op = opDesc then s.desc x.lane x.frame
  else if op = opCkpt then s.ckptIn x.lane x.frame x.keep
  else if op = opDigest then s.digestIn x.lane x.frame
  else if op = opNorm then s.normIn x.lane x.frame
  else if op = opJdig then s.jdigIn x.lane x.frame
  else s

/-- The handling of a frame; a word of a share that both copies of a control word have lost makes that copy bad (R244). -/
def State.handle (s : State) (x : Parked) : State :=
  let s := s.handleBy x
  match x.work.ctl with
  | .shardWord b _ 2 => s.badCopy (planeOf x.lane) x.frame.hdr.job b
  | _ => s

/-- A received frame of the types `ops`, handled at once or once the stages behind the policer have credits (R19, R20). -/
def State.frameIn (s : State) (lane : DevLane) (f : RxFrame) (ops : List Nat) : Out := .next (s.receive lane f ops fun x s => s.handle x)

def execGradFrame (lane : DevLane) (f : RxFrame) (s : State) : Out := s.frameIn lane f [opGrad]
def execPartialFrame (lane : DevLane) (f : RxFrame) (s : State) : Out := s.frameIn lane f [opPartial]
def execDoneFrame (lane : DevLane) (f : RxFrame) (s : State) : Out := s.frameIn lane f [opDone]
def execPeerFrameReplicate (lane : DevLane) (f : RxFrame) (s : State) : Out := s.frameIn lane f [opParm, opRslt, opStatus]
def execLoadFrame (lane : DevLane) (f : RxFrame) (s : State) : Out := s.frameIn lane f [opLoad]
def execGreqFrame (lane : DevLane) (f : RxFrame) (s : State) : Out := s.frameIn lane f [opGreq]
def execAckFrame (lane : DevLane) (f : RxFrame) (s : State) : Out := s.frameIn lane f [opAck]

/-- A re-delivery request; `parityFails` reads of the retained result fail parity (R137). -/
def execRdreqFrame (lane : DevLane) (f : RxFrame) (parityFails : Nat) (s : State) : Out :=
  .next (s.receive lane { f with work := { f.work with parity := parityFails } } [opRdreq] fun x s => s.handle x)

def execSreadFrame (lane : DevLane) (f : RxFrame) (s : State) : Out := s.frameIn lane f [opSread]
def execNoticeCopyFrame (lane : DevLane) (f : RxFrame) (s : State) : Out := s.frameIn lane f [opNotice, opRetract]
def execSyncFrame (lane : DevLane) (f : RxFrame) (s : State) : Out := s.frameIn lane f [opSync]
def execDescFrame (lane : DevLane) (f : RxFrame) (s : State) : Out := s.frameIn lane f [opDesc]
def execCkptFrame (lane : DevLane) (f : RxFrame) (s : State) : Out := s.frameIn lane f [opCkpt]
def execDigestFrame (lane : DevLane) (f : RxFrame) (s : State) : Out := s.frameIn lane f [opDigest]
def execNormFrame (lane : DevLane) (f : RxFrame) (s : State) : Out := s.frameIn lane f [opNorm]
def execJdigFrame (lane : DevLane) (f : RxFrame) (s : State) : Out := s.frameIn lane f [opJdig]

/-! ### Frames that wait behind the policer (R19, R20) -/

/-- The policer's entry goes on as the stages behind it have credits, and the next entry leaves the Parse queue; a stored frame whose parity
fails as it is read is discarded (R177, R236). -/
def State.resumeOne (s : State) (k : PlaneIx) : State :=
  if (s.plane k).frontStalled then s
  else match (s.plane k).parked with
    | [] => s
    | x :: rest =>
      let s := s.updPlane k fun p => { p with parked := rest, qParse := p.qParse.dropHead }
      if x.later != .none then s.loseStored k x.frame x.later 0
      else
        let r := s.police x.lane x.frame.hdr.job (x.frame.hdr.len + 36)
        if r.1 then (r.2.workFault k x.frame.hdr.job x.work).handle x else r.2

/-- As many of the waiting frames go on as the stages have credits for. -/
def State.resume (s : State) (k : PlaneIx) : State := s.each (s.plane k).parked fun s _ => s.resumeOne k

/-- A credit returns (R19): the stage before moves on, and with it the frames that waited behind the policer. -/
def execCreditReturn (k : PlaneIx) (queue : Fin 8) (lane : LaneIx) (parityBad : Bool) (s : State) : Out :=
  .next ((s.creditReturn k queue lane parityBad).resume k)

end Sys2Proof.Machine
end

