-- ==== Sys2Proof/Machine/Dispatch.lean ====
section
/-! DEFINITION. One arm per command or event: each is a direct call of its meaning. -/
namespace Sys2Proof.Machine

/-- The effect of a command or event on everything but the queue. -/
def exec (i : Instr) (s : State) : Host.Outcome State Fault Refusal :=
  match i with
  | .apertureWrite off data => Sys2Proof.Machine.execApertureWrite off data s
  | .packetTake => Sys2Proof.Machine.execPacketTake s
  | .replyWrite report => Sys2Proof.Machine.execReplyWrite report s
  | .raenEnable enables => Sys2Proof.Machine.execRaenEnable enables s
  | .raenDisable enables => Sys2Proof.Machine.execRaenDisable enables s
  | .interruptEnableWrite enables => Sys2Proof.Machine.execInterruptEnableWrite enables s
  | .rabaseWrite part value => Sys2Proof.Machine.execRabaseWrite part value s
  | .rasizeWrite value => Sys2Proof.Machine.execRasizeWrite value s
  | .ratailWrite value => Sys2Proof.Machine.execRatailWrite value s
  | .errsumClear value => Sys2Proof.Machine.execErrsumClear value s
  | .carestartClear value => Sys2Proof.Machine.execCarestartClear value s
  | .msixVectorUnmask v => Sys2Proof.Machine.execMsixVectorUnmask v s
  | .counterLowerRead c => Sys2Proof.Machine.execCounterLowerRead c s
  | .bar0Write off size value => Sys2Proof.Machine.execBar0Write off size value s
  | .bar0MalformedRead off size => Sys2Proof.Machine.execBar0MalformedRead off size s
  | .devInfo p => Sys2Proof.Machine.execDevInfo p s
  | .devStatus p => Sys2Proof.Machine.execDevStatus p s
  | .cntRead p => Sys2Proof.Machine.execCntRead p s
  | .astatRead p => Sys2Proof.Machine.execAstatRead p s
  | .barrier p => Sys2Proof.Machine.execBarrier p s
  | .jobDefine p => Sys2Proof.Machine.execJobDefine p s
  | .jobTable p => Sys2Proof.Machine.execJobTable p s
  | .jobOpen p => Sys2Proof.Machine.execJobOpen p s
  | .jobStart p => Sys2Proof.Machine.execJobStart p s
  | .jobClose p => Sys2Proof.Machine.execJobClose p s
  | .jobCloseReleased job => Sys2Proof.Machine.execJobCloseReleased job s
  | .jobQuery p => Sys2Proof.Machine.execJobQuery p s
  | .reclaim p => Sys2Proof.Machine.execReclaim p s
  | .ckptRead p => Sys2Proof.Machine.execCkptRead p s
  | .ckptReadDone job => Sys2Proof.Machine.execCkptReadDone job s
  | .replSet p => Sys2Proof.Machine.execReplSet p s
  | .logRead p => Sys2Proof.Machine.execLogRead p s
  | .restoreBegin p => Sys2Proof.Machine.execRestoreBegin p s
  | .restoreReplay p => Sys2Proof.Machine.execRestoreReplay p s
  | .jobList p => Sys2Proof.Machine.execJobList p s
  | .groupReform p => Sys2Proof.Machine.execGroupReform p s
  | .memberFence p => Sys2Proof.Machine.execMemberFence p s
  | .syncAdd p => Sys2Proof.Machine.execSyncAdd p s
  | .syncSet p => Sys2Proof.Machine.execSyncSet p s
  | .syncWait p => Sys2Proof.Machine.execSyncWait p s
  | .syncRead p => Sys2Proof.Machine.execSyncRead p s
  | .bucketQuery p => Sys2Proof.Machine.execBucketQuery p s
  | .expandSet p => Sys2Proof.Machine.execExpandSet p s
  | .histRead p => Sys2Proof.Machine.execHistRead p s
  | .optSet p => Sys2Proof.Machine.execOptSet p s
  | .optRead p => Sys2Proof.Machine.execOptRead p s
  | .precSet p => Sys2Proof.Machine.execPrecSet p s
  | .precRead p => Sys2Proof.Machine.execPrecRead p s
  | .stashQuery p => Sys2Proof.Machine.execStashQuery p s
  | .treeRead p => Sys2Proof.Machine.execTreeRead p s
  | .rateSet p => Sys2Proof.Machine.execRateSet p s
  | .rateRead p => Sys2Proof.Machine.execRateRead p s
  | .shapeSet p => Sys2Proof.Machine.execShapeSet p s
  | .shapeRead p => Sys2Proof.Machine.execShapeRead p s
  | .gatePhase p => Sys2Proof.Machine.execGatePhase p s
  | .gateRead p => Sys2Proof.Machine.execGateRead p s
  | .laneStatus p => Sys2Proof.Machine.execLaneStatus p s
  | .laneEq p => Sys2Proof.Machine.execLaneEq p s
  | .laneHold p => Sys2Proof.Machine.execLaneHold p s
  | .laneRelease p => Sys2Proof.Machine.execLaneRelease p s
  | .laneDormant p => Sys2Proof.Machine.execLaneDormant p s
  | .laneWake p => Sys2Proof.Machine.execLaneWake p s
  | .laneDisable p => Sys2Proof.Machine.execLaneDisable p s
  | .laneEnable p => Sys2Proof.Machine.execLaneEnable p s
  | .laneFwd p => Sys2Proof.Machine.execLaneFwd p s
  | .boardQuery p => Sys2Proof.Machine.execBoardQuery p s
  | .errlogRead p => Sys2Proof.Machine.execErrlogRead p s
  | .obsSet p => Sys2Proof.Machine.execObsSet p s
  | .obsRead p => Sys2Proof.Machine.execObsRead p s
  | .testRun p => Sys2Proof.Machine.execTestRun p s
  | .fwQuery p => Sys2Proof.Machine.execFwQuery p s
  | .fwLoad p => Sys2Proof.Machine.execFwLoad p s
  | .fwCommit p => Sys2Proof.Machine.execFwCommit p s
  | .fwCommitProgramDone => Sys2Proof.Machine.execFwCommitProgramDone s
  | .attest p => Sys2Proof.Machine.execAttest p s
  | .manifestRead p => Sys2Proof.Machine.execManifestRead p s
  | .calRead p => Sys2Proof.Machine.execCalRead p s
  | .calWrite p => Sys2Proof.Machine.execCalWrite p s
  | .calWriteDone => Sys2Proof.Machine.execCalWriteDone s
  | .gradFrame lane f => Sys2Proof.Machine.execGradFrame lane f s
  | .partialFrame lane f => Sys2Proof.Machine.execPartialFrame lane f s
  | .doneFrame lane f => Sys2Proof.Machine.execDoneFrame lane f s
  | .peerFrameReplicate lane f => Sys2Proof.Machine.execPeerFrameReplicate lane f s
  | .loadFrame lane f => Sys2Proof.Machine.execLoadFrame lane f s
  | .greqFrame lane f => Sys2Proof.Machine.execGreqFrame lane f s
  | .gatherWindowExpiry k job layer => Sys2Proof.Machine.execGatherWindowExpiry k job layer s
  | .ackFrame lane f => Sys2Proof.Machine.execAckFrame lane f s
  | .rdreqFrame lane f parityFails => Sys2Proof.Machine.execRdreqFrame lane f parityFails s
  | .noticeCopyFrame lane f => Sys2Proof.Machine.execNoticeCopyFrame lane f s
  | .noticeCopyTimeout k job srcDev => Sys2Proof.Machine.execNoticeCopyTimeout k job srcDev s
  | .syncFrame lane f => Sys2Proof.Machine.execSyncFrame lane f s
  | .descFrame lane f => Sys2Proof.Machine.execDescFrame lane f s
  | .ckptFrame lane f => Sys2Proof.Machine.execCkptFrame lane f s
  | .sreadFrame lane f => Sys2Proof.Machine.execSreadFrame lane f s
  | .digestFrame lane f => Sys2Proof.Machine.execDigestFrame lane f s
  | .digestCompareTimeout k job bucket => Sys2Proof.Machine.execDigestCompareTimeout k job bucket s
  | .memberDigestJudge k job => Sys2Proof.Machine.execMemberDigestJudge k job s
  | .normFrame lane f => Sys2Proof.Machine.execNormFrame lane f s
  | .jdigFrame lane f => Sys2Proof.Machine.execJdigFrame lane f s
  | .chunkSetDone k flt => Sys2Proof.Machine.execChunkSetDone k flt s
  | .bucketTimerExpiry k job bucket pass => Sys2Proof.Machine.execBucketTimerExpiry k job bucket pass s
  | .kernelRun k flt => Sys2Proof.Machine.execKernelRun k flt s
  | .earlyPublication k job bucket => Sys2Proof.Machine.execEarlyPublication k job bucket s
  | .rootRefreshDone k job flt => Sys2Proof.Machine.execRootRefreshDone k job flt s
  | .scalarPair k totalFault flagFault => Sys2Proof.Machine.execScalarPair k totalFault flagFault s
  | .combinedScalars k => Sys2Proof.Machine.execCombinedScalars k s
  | .commitDone k job => Sys2Proof.Machine.execCommitDone k job s
  | .rescaleDone k job flt => Sys2Proof.Machine.execRescaleDone k job flt s
  | .discardDone k job => Sys2Proof.Machine.execDiscardDone k job s
  | .drainComplete k job => Sys2Proof.Machine.execDrainComplete k job s
  | .scalarFenceOrder k => Sys2Proof.Machine.execScalarFenceOrder k s
  | .reclaimDeadline job => Sys2Proof.Machine.execReclaimDeadline job s
  | .ringFenceHoldExpiry job => Sys2Proof.Machine.execRingFenceHoldExpiry job s
  | .ckholdExpiry job => Sys2Proof.Machine.execCkholdExpiry job s
  | .commandApplyPoint k job => Sys2Proof.Machine.execCommandApplyPoint k job s
  | .memberFenceApply k job => Sys2Proof.Machine.execMemberFenceApply k job s
  | .resultRetentionAdmit k => Sys2Proof.Machine.execResultRetentionAdmit k s
  | .ackTimeout k job bucket member => Sys2Proof.Machine.execAckTimeout k job bucket member s
  | .syncWaitTimeout k wait => Sys2Proof.Machine.execSyncWaitTimeout k wait s
  | .creditReturn k queue lane parityBad => Sys2Proof.Machine.execCreditReturn k queue lane parityBad s
  | .egressSelect lane => Sys2Proof.Machine.execEgressSelect lane s
  | .refill k parityBadJob => Sys2Proof.Machine.execRefill k parityBadJob s
  | .gateWindowOpen k => Sys2Proof.Machine.execGateWindowOpen k s
  | .gateWindowClose k => Sys2Proof.Machine.execGateWindowClose k s
  | .gateCycleStart k => Sys2Proof.Machine.execGateCycleStart k s
  | .bufferAudit k cell finding => Sys2Proof.Machine.execBufferAudit k cell finding s
  | .testDue k block => Sys2Proof.Machine.execTestDue k block s
  | .testSegmentDone k block pass1 pass2 unit => Sys2Proof.Machine.execTestSegmentDone k block pass1 pass2 unit s
  | .testOverdue k block => Sys2Proof.Machine.execTestOverdue k block s
  | .watchdogExpiry k core => Sys2Proof.Machine.execWatchdogExpiry k core s
  | .planeRestartDone k => Sys2Proof.Machine.execPlaneRestartDone k s
  | .deviceWatchdogExpiry => Sys2Proof.Machine.execDeviceWatchdogExpiry s
  | .lossOfLight lane => Sys2Proof.Machine.execLossOfLight lane s
  | .receiveClockLoss lane => Sys2Proof.Machine.execReceiveClockLoss lane s
  | .fecLockLoss lane uncorrectable => Sys2Proof.Machine.execFecLockLoss lane uncorrectable s
  | .trainWhileUp lane t => Sys2Proof.Machine.execTrainWhileUp lane t s
  | .dormantReceived lane => Sys2Proof.Machine.execDormantReceived lane s
  | .transmitterFault lane => Sys2Proof.Machine.execTransmitterFault lane s
  | .engineControlFault engine => Sys2Proof.Machine.execEngineControlFault engine s
  | .highLaserBias lane => Sys2Proof.Machine.execHighLaserBias lane s
  | .invalidBlock lane => Sys2Proof.Machine.execInvalidBlock lane s
  | .patternLock lane t => Sys2Proof.Machine.execPatternLock lane t s
  | .patternLockLost lane erroredBlocks => Sys2Proof.Machine.execPatternLockLost lane erroredBlocks s
  | .readyTimerExpiry lane => Sys2Proof.Machine.execReadyTimerExpiry lane s
  | .laneUp lane t => Sys2Proof.Machine.execLaneUp lane t s
  | .downHoldoffExpiry lane => Sys2Proof.Machine.execDownHoldoffExpiry lane s
  | .noechoTimeout lane => Sys2Proof.Machine.execNoechoTimeout lane s
  | .polarityFlip engine => Sys2Proof.Machine.execPolarityFlip engine s
  | .polarityFlipDone engine lit => Sys2Proof.Machine.execPolarityFlipDone engine lit s
  | .engineReevaluate engine => Sys2Proof.Machine.execEngineReevaluate engine s
  | .dormantWakeLight lane => Sys2Proof.Machine.execDormantWakeLight lane s
  | .inputPowerUp millivolts => Sys2Proof.Machine.execInputPowerUp millivolts s
  | .planeRailTimeout k => Sys2Proof.Machine.execPlaneRailTimeout k s
  | .inputUndervoltage => Sys2Proof.Machine.execInputUndervoltage s
  | .inputOvervoltage millivolts => Sys2Proof.Machine.execInputOvervoltage millivolts s
  | .mateDetectOpen => Sys2Proof.Machine.execMateDetectOpen s
  | .inputFuseOpen => Sys2Proof.Machine.execInputFuseOpen s
  | .rstInAssert => Sys2Proof.Machine.execRstInAssert s
  | .perstAssert => Sys2Proof.Machine.execPerstAssert s
  | .resetRelease source strap refInGood => Sys2Proof.Machine.execResetRelease source strap refInGood s
  | .rstOutRelease => Sys2Proof.Machine.execRstOutRelease s
  | .bootEnd svnFuseFails => Sys2Proof.Machine.execBootEnd svnFuseFails s
  | .thermalTrip => Sys2Proof.Machine.execThermalTrip s
  | .throttleEvaluation k dieTemp hbmTemp vcore => Sys2Proof.Machine.execThrottleEvaluation k dieTemp hbmTemp vcore s
  | .powerCapEvaluation deciwatts => Sys2Proof.Machine.execPowerCapEvaluation deciwatts s
  | .railFault k => Sys2Proof.Machine.execRailFault k s
  | .referenceClockLoss => Sys2Proof.Machine.execReferenceClockLoss s
  | .alertInLow => Sys2Proof.Machine.execAlertInLow s
  | .smbusReadWord code => Sys2Proof.Machine.execSmbusReadWord code s
  | .smbusWrite code value => Sys2Proof.Machine.execSmbusWrite code value s
  | .smbusTimeout => Sys2Proof.Machine.execSmbusTimeout s
  | .planeCommandTake k => Sys2Proof.Machine.execPlaneCommandTake k s
  | .planesReleased => Sys2Proof.Machine.execPlanesReleased s
  | .lightReturn lane => Sys2Proof.Machine.execLightReturn lane s
  | .standbyDiodeRead diodes => Sys2Proof.Machine.execStandbyDiodeRead diodes s
  | .inputLowRange millivolts => Sys2Proof.Machine.execInputLowRange millivolts s
  | .alertInRelease => Sys2Proof.Machine.execAlertInRelease s
  | .alertOutStuck => Sys2Proof.Machine.execAlertOutStuck s

end Sys2Proof.Machine
end

