-- ==== Sys2Proof/Machine/Step.lean ====
section
/-! DEFINITION. One step of the block: the command at the front of the queue, or, on an empty queue, an idle tick (DESIGN CHOICE,
notes/assumptions 1). -/
namespace Sys2Proof.Machine

/-- A plane's local counter in an idle period: it runs while the plane is not held and its rails are on (R21, R345, R364); how far is a free
value. -/
def Plane.tick (p : Plane) (k : PlaneIx) (n : Nat) : Plane :=
  if p.ps = .held || !p.railsOn then p else { p with cnt := p.cnt + Config.clockAdvance k.val n }

/-- Time passes with nothing to do: the clocks advance, the host port block's while it is out of reset, and `CATAIL` settles (R282, R364). -/
def State.tick (s : State) : State :=
  let n := s.fresh
  { s with
    fresh := n + 1
    planes := Vector.ofFn fun k : Fin 8 => (s.planes[k]).tick k n
    host := { s.host.settleTail with hpcnt := s.host.hpcnt + (if s.hostUp then Config.clockAdvance 8 n else 0) } }

/-- One step: the front command with the queue's rest, or an idle tick. -/
def step (s : State) : Host.Outcome State Fault Refusal :=
  match s.pending with
  | [] => .next s.tick
  | c :: cs => exec c { s with pending := cs }

/-- The state with the command that a table word spells put at the front of the queue: the table gives no row bits, so no word spells one. -/
def State.withFetchWord (s : State) (_nbits _w : Nat) : State := s

end Sys2Proof.Machine
end

