-- ==== Sys2Proof/WellFormed.lean ====
section
/-! DEFINITION. Well-formed commands and events: every operand lies in the range of the field, register or signal that it stands for. -/
namespace Sys2Proof

/-- A job identifier that names a job (R7). -/
def jobOk (job : Nat) : Bool := 1 ≤ job && job ≤ 65535

/-- A packet that the dispatcher can hold (R284): `LEN` counts the header, the parameters and the CRC in 4-byte words. -/
def Packet.wf (p : Packet) : Bool := 5 ≤ p.len && p.len ≤ 65535 && p.job ≤ 65535 && p.params.length + 20 == 4 * p.len

/-- A control parity failure names a structure that exists: one of three duplicated ones, and one or two reads of a word (R236, R244). -/
def CtlFault.wf : CtlFault → Bool
  | .oneCopy n | .bothCopies n => n < 3
  | .shardWord bucket _ fails => bucket < 65536 && 1 ≤ fails && fails ≤ 2
  | _ => true

/-- Conditions of one item: a read is tried at most twice (R244). -/
def ItemFault.wf (f : ItemFault) : Bool := f.parity ≤ 2 && f.comma ≤ 2 && f.result ≤ 2 && f.ctl.wf

/-- A frame as the parser receives it: the end delimiter comes within 8,228 bytes (R178), and a codeword has 560 symbols (R215). -/
def RxFrame.wf (f : RxFrame) : Bool :=
  (f.bytes.length ≤ 8228 || !f.endSeen) && (f.line.all fun l => l.words.all fun w => w.length == 560) && f.work.wf

/-- A run of a segment that exercises the lane generators counts every one of the 512 lanes (R254). -/
def segRunOk : SegRun → Bool
  | .roundUps counts => counts.length == 512
  | _ => true

/-- A finding names a job (R182). -/
def AuditFinding.wf : AuditFinding → Bool
  | .unreferenced job => jobOk job
  | .clean | .freeAndHeld => true

/-- The blocks that have an in-field test (R254). -/
def testable (block : Nat) : Bool := [2, 4, 5, 6, 7, 8, 9].contains block

/-- A temperature field, signed, in 0.1 °C (R245). -/
def temp (t : Int) : Bool := -32768 ≤ t && t ≤ 32767

/-- A command or event whose operands are in range. -/
def Instr.wf (i : Instr) : Bool :=
  match i with
  | .apertureWrite off data => off.toNat + data.length ≤ 1048576 && !data.isEmpty
  | .packetTake => true
  | .replyWrite _ => true
  | .raenEnable _ => true
  | .raenDisable _ => true
  | .interruptEnableWrite _ => true
  | .rabaseWrite _ _ => true
  | .rasizeWrite _ => true
  | .ratailWrite _ => true
  | .errsumClear _ => true
  | .carestartClear _ => true
  | .msixVectorUnmask _ => true
  | .counterLowerRead _ => true
  | .bar0Write off size value => off < 65536 && 1 ≤ size && size ≤ 8 && value.toNat < 256 ^ size
  | .bar0MalformedRead off size => off < 65536 && 1 ≤ size
  | .devInfo p => p.wf
  | .devStatus p => p.wf
  | .cntRead p => p.wf
  | .astatRead p => p.wf
  | .barrier p => p.wf
  | .jobDefine p => p.wf
  | .jobTable p => p.wf
  | .jobOpen p => p.wf
  | .jobStart p => p.wf
  | .jobClose p => p.wf
  | .jobCloseReleased job => jobOk job
  | .jobQuery p => p.wf
  | .reclaim p => p.wf
  | .ckptRead p => p.wf
  | .ckptReadDone job => jobOk job
  | .replSet p => p.wf
  | .logRead p => p.wf
  | .restoreBegin p => p.wf
  | .restoreReplay p => p.wf
  | .jobList p => p.wf
  | .groupReform p => p.wf
  | .memberFence p => p.wf
  | .syncAdd p => p.wf
  | .syncSet p => p.wf
  | .syncWait p => p.wf
  | .syncRead p => p.wf
  | .bucketQuery p => p.wf
  | .expandSet p => p.wf
  | .histRead p => p.wf
  | .optSet p => p.wf
  | .optRead p => p.wf
  | .precSet p => p.wf
  | .precRead p => p.wf
  | .stashQuery p => p.wf
  | .treeRead p => p.wf
  | .rateSet p => p.wf
  | .rateRead p => p.wf
  | .shapeSet p => p.wf
  | .shapeRead p => p.wf
  | .gatePhase p => p.wf
  | .gateRead p => p.wf
  | .laneStatus p => p.wf
  | .laneEq p => p.wf
  | .laneHold p => p.wf
  | .laneRelease p => p.wf
  | .laneDormant p => p.wf
  | .laneWake p => p.wf
  | .laneDisable p => p.wf
  | .laneEnable p => p.wf
  | .laneFwd p => p.wf
  | .boardQuery p => p.wf
  | .errlogRead p => p.wf
  | .obsSet p => p.wf
  | .obsRead p => p.wf
  | .testRun p => p.wf
  | .fwQuery p => p.wf
  | .fwLoad p => p.wf
  | .fwCommit p => p.wf
  | .fwCommitProgramDone => true
  | .attest p => p.wf
  | .manifestRead p => p.wf
  | .calRead p => p.wf
  | .calWrite p => p.wf
  | .calWriteDone => true
  | .gradFrame _ f => f.wf
  | .partialFrame _ f => f.wf
  | .doneFrame _ f => f.wf
  | .peerFrameReplicate _ f => f.wf
  | .loadFrame _ f => f.wf
  | .greqFrame _ f => f.wf
  | .gatherWindowExpiry _ job layer => jobOk job && layer < 65536
  | .ackFrame _ f => f.wf
  | .rdreqFrame _ f parityFails => f.wf && parityFails ≤ 2
  | .noticeCopyFrame _ f => f.wf
  | .noticeCopyTimeout _ job srcDev => jobOk job && srcDev < 8
  | .syncFrame _ f => f.wf
  | .descFrame _ f => f.wf
  | .ckptFrame _ f => f.wf
  | .sreadFrame _ f => f.wf
  | .digestFrame _ f => f.wf
  | .digestCompareTimeout _ job bucket => jobOk job && bucket < 65536
  | .memberDigestJudge _ job => jobOk job
  | .normFrame _ f => f.wf
  | .jdigFrame _ f => f.wf
  | .chunkSetDone _ flt => flt.wf
  | .bucketTimerExpiry _ job bucket pass => jobOk job && bucket < 65536 && pass < 64
  | .kernelRun _ flt => flt.wf
  | .earlyPublication _ job bucket => jobOk job && bucket < 65536
  | .rootRefreshDone _ job flt => jobOk job && flt.wf
  | .scalarPair _ totalFault flagFault => totalFault < 2 ^ 96 && flagFault < 2 ^ 12
  | .combinedScalars _ => true
  | .commitDone _ job => jobOk job
  | .rescaleDone _ job flt => jobOk job && flt.wf
  | .discardDone _ job => jobOk job
  | .drainComplete _ job => jobOk job
  | .scalarFenceOrder _ => true
  | .reclaimDeadline job => jobOk job
  | .ringFenceHoldExpiry job => jobOk job
  | .ckholdExpiry job => jobOk job
  | .commandApplyPoint _ job => jobOk job
  | .memberFenceApply _ job => jobOk job
  | .resultRetentionAdmit _ => true
  | .ackTimeout _ job bucket member => jobOk job && bucket < 65536 && member < 128
  | .syncWaitTimeout _ _ => true
  | .creditReturn _ _ _ _ => true
  | .egressSelect _ => true
  | .refill _ parityBadJob => parityBadJob.all jobOk
  | .gateWindowOpen _ => true
  | .gateWindowClose _ => true
  | .gateCycleStart _ => true
  | .bufferAudit _ cell finding => cell < 65536 + 2 ^ 31 && finding.wf
  | .testDue _ block => testable block
  | .testSegmentDone _ block run1 run2 unit => testable block && segRunOk run1 && segRunOk run2 && unit < 2 ^ 32
  | .testOverdue _ block => testable block
  | .watchdogExpiry _ _ => true
  | .planeRestartDone _ => true
  | .deviceWatchdogExpiry => true
  | .lossOfLight _ => true
  | .receiveClockLoss _ => true
  | .fecLockLoss _ uncorrectable => uncorrectable < 2 ^ 32
  | .trainWhileUp _ _ => true
  | .dormantReceived _ => true
  | .transmitterFault _ => true
  | .engineControlFault _ => true
  | .highLaserBias _ => true
  | .invalidBlock _ => true
  | .patternLock _ _ => true
  | .patternLockLost _ erroredBlocks => erroredBlocks < 2 ^ 32
  | .readyTimerExpiry _ => true
  | .laneUp _ _ => true
  | .downHoldoffExpiry _ => true
  | .noechoTimeout _ => true
  | .polarityFlip _ => true
  | .polarityFlipDone _ _ => true
  | .engineReevaluate _ => true
  | .dormantWakeLight _ => true
  | .inputPowerUp _ => true
  | .planeRailTimeout _ => true
  | .inputUndervoltage => true
  | .inputOvervoltage _ => true
  | .mateDetectOpen => true
  | .inputFuseOpen => true
  | .rstInAssert => true
  | .perstAssert => true
  | .resetRelease _ _ _ => true
  | .rstOutRelease => true
  | .bootEnd _ => true
  | .thermalTrip => true
  | .throttleEvaluation _ dieTemp hbmTemp vcore => temp dieTemp && temp hbmTemp && vcore < 65536
  | .powerCapEvaluation _ => true
  | .railFault _ => true
  | .referenceClockLoss => true
  | .alertInLow => true
  | .smbusReadWord _ => true
  | .smbusWrite _ _ => true
  | .smbusTimeout => true
  | .planeCommandTake _ => true
  | .planesReleased => true
  | .lightReturn _ => true
  | .standbyDiodeRead diodes => diodes.length == 9 && diodes.all temp
  | .inputLowRange _ => true
  | .alertInRelease => true
  | .alertOutStuck => true

end Sys2Proof
end

