-- ==== Sys2Proof/Safety.lean ====
section
/-! DEFINITION. What the statements speak of: a command that completes, a command at the dispatcher's head, its reply, a command handed
to planes, and the invariant that every step keeps. -/
namespace Sys2Proof.Machine

/-- The command or event `i` completes: in state `s` it answers a next state, of which `P` holds. -/
def Runs (i : Instr) (s : State) (P : State → Prop) : Prop := ∃ t, exec i s = .next t ∧ P t

/-- Packet `p` of opcode `op` is the dispatcher's head command, held as `c`, and no other held command has its number (R287, R308). -/
def State.AtHead (s : State) (op : Nat) (p : Packet) (c : Held) : Prop :=
  s.host.head = some c ∧ c.pkt = p ∧ p.opcode.toNat = op ∧ ∀ o ∈ s.host.held, o.id = c.id → o = c

/-- The held command `c` has been answered in `t` with status `st` and `payload`: its reply waits for the ring with the fields of R289, or,
with `NOREPLY` and `OK`, nothing is written and the command is held no more (R284). -/
def State.Answered (t : State) (c : Held) (st : Status) (payload : List Byte) : Prop :=
  if c.pkt.flags.getLsbD 0 = true ∧ st = .ok then ∀ o ∈ t.host.held, o.id ≠ c.id
  else ∃ o ∈ t.host.held, o.id = c.id ∧ o.phase = .ready ∧ ∃ r, o.reply = some r ∧ r.tag = c.pkt.tag ∧
    r.opcode = c.pkt.opcode.toNat ∧ r.status = st.code ∧ r.report = false ∧ r.job = c.pkt.job ∧ r.payload = payload

/-- The Command in queue of a plane has a free entry of its 16 (R21). -/
def Plane.cmdRoom (p : Plane) : Bool := p.cmdIn.length < 16

/-- The held command `c` waits in `t` for the planes of `ps`, each of which has it last in its Command in queue; a plane whose queue was full
has still to let it in (R21, R291, R308).  Nothing else of a plane differs from `s`. -/
def State.HandedTo (s t : State) (c : Held) (ps : List PlaneIx) : Prop :=
  (∃ o ∈ t.host.held, o.id = c.id ∧ o.pkt = c.pkt ∧ o.phase = .waiting ∧ o.owes = ps.map (·.val) ∧
    o.left = (ps.filter fun k => !(s.plane k).cmdRoom).map (·.val)) ∧
  ∀ k, t.plane k = { s.plane k with
    cmdIn := (s.plane k).cmdIn ++ if k ∈ ps ∧ (s.plane k).cmdRoom = true then [{ held := c.id, pkt := c.pkt }] else [] }

/-- The held command `c` has been answered in `t` by the planes `ps` it names, each with `st` and the section `sec` where it is in service and
with `PLANEDOWN` and no section otherwise (R291): the 16-byte status block, the sections, and `RSTATUS` of the lowest of them. -/
def State.RefusedBy (s t : State) (c : Held) (ps : List PlaneIx) (st : Status) (sec : List Byte) : Prop :=
  ∃ r pl, t.Answered c r pl ∧
    (∀ k : PlaneIx, fieldAt pl (2 * k.val) 2 =
      if k ∈ ps then (if (s.plane k).ps = .inService then st.code else Status.planedown.code) else 0) ∧
    pl.drop 16 = (ps.filter fun k => (s.plane k).ps == .inService).flatMap (fun _ => sec) ∧
    ∀ k, ps.head? = some k → r = if (s.plane k).ps = .inService then st else .planedown

/-- Some plane is named, and every named plane is in service. -/
def State.Serving (s : State) (ps : List PlaneIx) : Prop := ps ≠ [] ∧ ∀ k ∈ ps, (s.plane k).ps = .inService

/-- A pair stands last in the Scalar up queue of 8 entries, or, where that has no room, waits for it (R21). -/
def Plane.PairUp (p p' : Plane) (x : Pair) : Prop :=
  if p.scalarUp.length < 8 ∧ p.upWait = [] then p'.scalarUp = p.scalarUp ++ [x] ∧ p'.upWait = []
  else p'.scalarUp = p.scalarUp ∧ p'.upWait = p.upWait ++ [x]

/-- A word stands last in the Scalar down queue of 8 entries, or, where that has no room, waits for it (R21). -/
def Plane.WordDown (p p' : Plane) (w : DownWord) : Prop :=
  if p.scalarDown.length < 8 ∧ p.downWait = [] then p'.scalarDown = p.scalarDown ++ [w] ∧ p'.downWait = []
  else p'.scalarDown = p.scalarDown ∧ p'.downWait = p.downWait ++ [w]

/-- What enters a plane's Command in queue as an entry of it falls free with `xs` left: an accepted command that planes take after its reply,
or else the oldest held command that waits for room there (R21). -/
def State.cmdEntering (s : State) (k : PlaneIx) (xs : List PlaneCmd) : List PlaneCmd :=
  if 16 ≤ xs.length then []
  else match s.host.cmdWait.find? (·.1 == k.val) with
    | some x => [x.2]
    | none => ((s.host.held.find? fun c => c.left.contains k.val).map fun c => { held := c.id, pkt := c.pkt }).toList

/-- Plane `k` is in service with the command `x` at the front of its Command in queue, `rest` is what stands there once `x` is taken, and the
command's record `o` waits for this plane alone. -/
def State.TakesNext (s : State) (k : PlaneIx) (x : PlaneCmd) (rest : List PlaneCmd) (o : Held) : Prop :=
  (s.plane k).ps = .inService ∧ (∃ xs, (s.plane k).cmdIn = x :: xs ∧ rest = xs ++ s.cmdEntering k xs) ∧ o ∈ s.host.held ∧ o.id = x.held ∧ o.pkt = x.pkt ∧
  o.owes = [k.val] ∧ o.answers = [] ∧ ∀ y ∈ s.host.held, y.id = o.id → y = o

/-- The 16-byte plane status block with status `st` for plane `k` alone (R291). -/
def statusBlock (k : PlaneIx) (st : Status) : List Byte :=
  (List.range 8).flatMap fun i => leBytes 2 (if i = k.val then st.code else 0)

/-- The share of a bucket that a job has on a plane. -/
def State.share (s : State) (k : PlaneIx) (id b : Nat) : Option Share := (s.pjob k id).bind (·.findShare b)

/-- What is on its way out of a lane: its Egress queue, the descriptors that wait for it, and the replicator's own (R19). -/
def State.outgoing (s : State) (k : PlaneIx) (l : LaneIx) : List Desc :=
  (s.lane (devLane k l)).egress ++ (s.lane (devLane k l)).egWait ++
  ((s.plane k).qPublish.entries ++ (s.plane k).qPublish.waiting ++ (s.plane k).qPublish.taken).filterMap fun e =>
    e.leg.bind fun x => if x.1 = l.val then some x.2 else none

/-- A lane that faces a member here and is `UP`: what the replicator gives it is not dropped (R193, R226). -/
def State.MemberUp (s : State) (k : PlaneIx) (l : LaneIx) : Prop := (s.lane (devLane k l)).st = .up ∧ s.isPeer (devLane k l) = false

/-- A status frame with status `st` that answers the frame `fr` is on its way out of the lane it came from (R174). -/
def State.StatusSent (t : State) (lane : DevLane) (fr : Frame) (st : Status) : Prop :=
  ∃ y ∈ t.outgoing (planeOf lane) (laneIn lane), y.frame.hdr.op = opStatus ∧ y.frame.hdr.bucket = fr.hdr.bucket ∧
    fieldAt y.frame.payload 2 2 = st.code ∧ fieldAt y.frame.payload 4 1 = fr.hdr.op % 256

/-- The receiver of a lane takes the bytes `f`, whole and undisturbed, as the frame `fr` of one of the types `ops`: the lane is `UP`, its plane in
service, the frame passes the parser, the frame buffer has room, no frame waits behind the policer, and the policer lets it through (R19,
R178, R181, R199, R218). -/
def State.Receives (s : State) (lane : DevLane) (f : RxFrame) (ops : List Nat) (fr : Frame) : Prop :=
  (s.lane lane).st = .up ∧ (s.plane (planeOf lane)).ps = .inService ∧
  parseFrame (s.isPeer lane) (s.farDev lane) (settled f) = .ok fr ∧ fr.hdr.op ∈ ops ∧
  ((s.fecCount lane (settled f).fec).room (planeOf lane) fr).isSome = true ∧
  (s.plane (planeOf lane)).frontStalled = false ∧ (s.plane (planeOf lane)).parked = [] ∧ f.later = .none ∧ f.work = {} ∧
  ((s.fecCount lane (settled f).fec).police lane fr.hdr.job (fr.hdr.len + 36)).1 = true

/-- The state in which a received frame takes effect: the lane layer has counted it and the policer has charged it. -/
def State.landed (s : State) (lane : DevLane) (f : RxFrame) (fr : Frame) : State :=
  ((s.fecCount lane (settled f).fec).police lane fr.hdr.job (fr.hdr.len + 36)).2

/-- Byte `i` of the reply area (R288): its ring of `RASIZE` entries of 64 bytes from `RABASE`. -/
def State.replyByte (s : State) (i : Nat) : Byte :=
  memRead s.out.hostMem ((s.host.rabase.toNat + i % (64 * s.host.rasize)) % 2 ^ 64)

/-- The little-endian field of `n` bytes at offset `off` of the reply that begins at entry `e`. -/
def State.replyField (s : State) (e off n : Nat) : Nat := leNat ((List.range n).map fun i => s.replyByte (64 * e + (off + i)))

/-- The canonical form of the three byte memories, and the room that the manual gives three records: 256 waiting reports (R292), 256
records of the host port block's error log and 1,024 of a plane's (R248). -/
def State.Inv (s : State) : Prop :=
  Memory.wf s.host.aperture = true ∧ Memory.wf s.host.staging = true ∧ Memory.wf s.out.hostMem = true ∧
  s.host.reports.length ≤ 256 ∧ s.host.herrLog.length ≤ 256 ∧ ∀ k, (s.plane k).errLog.length ≤ 1024

end Sys2Proof.Machine
end

