-- ==== Sys2Proof/Certificates/Slice0/Obligations.lean ====
section
/-! DEFINITION. The statements for the provers, in the order of OBLIGATIONS.json. -/

open Sys2Proof Sys2Proof.Machine

/-! ### The queue, reset and the host port -/

/-- A step runs the command at the front of the queue, with the queue's rest. -/
def Obligations.StepRunsFrontCommand : Prop :=
  ∀ (c : Instr) (cs : List Instr) (s : State), s.pending = c :: cs → step s = exec c { s with pending := cs }

/-- On an empty queue the block idles: only its clocks and the aperture tail move, and the counter of a plane held in reset does not
(R364; the idle tick is the model's choice, notes/assumptions 1). -/
def Obligations.IdleStepOnlyMovesClocks : Prop :=
  ∀ s : State, s.pending = [] → ∃ t, step s = .next t ∧
    t = { s with fresh := t.fresh, planes := t.planes, host := t.host } ∧
    (∀ k, t.plane k = { s.plane k with cnt := (t.plane k).cnt } ∧ (s.plane k).cnt ≤ (t.plane k).cnt ∧
      ((s.plane k).ps = .held → t.plane k = s.plane k)) ∧
    t.host = { s.host with hpcnt := t.host.hpcnt, catail := t.host.catail, lastLen := 0 } ∧ s.host.hpcnt ≤ t.host.hpcnt ∧
    (t.host.catail = s.host.catail ∨ t.host.catail = (s.host.catail + s.host.lastLen) % 1048576)

/-- A write into the aperture while the reply area is enabled and no drain runs lands byte by byte and touches no other byte (R281), is
discarded and counted where it hits a packet taken and not yet passed (R282), and is discarded while the area is disabled or drains
(R283, R360). -/
def Obligations.ApertureWriteLandsOrIsDiscarded : Prop :=
  ∀ (off : BitVec 20) (data : List Byte) (s : State), s.hostUp = true → off.toNat + data.length ≤ apertureSize → data ≠ [] →
    Memory.wf s.host.aperture = true →
    (s.host.raen = true → s.host.radrain = false → s.host.overruns off.toNat data.length = false →
      Runs (.apertureWrite off data) s fun t =>
        t = { s with host := t.host } ∧
        t.host = { s.host with aperture := t.host.aperture, written := t.host.written, cahdr := t.host.cahdr } ∧
        (∀ (i : Nat) (h : i < data.length), memRead t.host.aperture (off.toNat + i) = data[i]) ∧
        ∀ a, (∀ i < data.length, a ≠ off.toNat + i) → memRead t.host.aperture a = memRead s.host.aperture a) ∧
    (s.host.raen = true → s.host.radrain = false → s.host.overruns off.toNat data.length = true →
      Runs (.apertureWrite off data) s fun t => t = { s with host := { s.host with caovrun := satAdd 32 s.host.caovrun 1 } }) ∧
    (s.host.raen = false ∨ s.host.radrain = true → Runs (.apertureWrite off data) s fun t => t = s)

/-- While `CATAKE` is 1 a packet whose last word is written is taken (R282): one that passes its checks is held with its fields (R284), one
whose CRC fails is answered `CRCERR` and the dispatcher moves on, and the fourth failure in a row restarts the aperture (R286). -/
def Obligations.PacketTakeHoldsOrAnswers : Prop :=
  ∀ (s : State) (len : Nat), s.catake = true → s.host.cahdr = len + 1 → 5 ≤ len →
    s.host.allWritten (s.host.caexp + 4 * len - 4) 4 = true → (∀ o ∈ s.host.held, o.id ≠ s.host.nextHeld) →
    let bs := s.host.packetBytes (4 * len)
    ∃ p : Packet, p.len = len ∧ p.opcode.toNat = fieldAt bs 0 2 ∧ p.flags.toNat = fieldAt bs 2 2 ∧ p.job = fieldAt bs 6 2 ∧
      p.pmask.toNat = fieldAt bs 8 1 ∧ p.tag.toNat = fieldAt bs 12 4 ∧ p.params = (bs.drop 16).take (4 * len - 20) ∧
      let c : Held := { id := s.host.nextHeld, pkt := p }
      (bs.drop (4 * len - 4) = crcBytes (bs.take (4 * len - 4)) →
        (packetCheck p s.boot.recmode (headerZero bs) = none →
          Runs .packetTake s fun t => t = { s with host := t.host } ∧ t.host.held = s.host.held ++ [c] ∧ t.host.cacrc = 0 ∧
            t.host.nextHeld = s.host.nextHeld + 1 ∧ t.host.caexp = nextOffset (s.host.caexp + 4 * len)) ∧
        ∀ st, packetCheck p s.boot.recmode (headerZero bs) = some st →
          Runs .packetTake s fun t => t = { s with host := t.host } ∧ t.Answered c st [] ∧ t.host.cacrc = 0 ∧
            t.host.caexp = nextOffset (s.host.caexp + 4 * len)) ∧
      (bs.drop (4 * len - 4) ≠ crcBytes (bs.take (4 * len - 4)) →
        Runs .packetTake s fun t => t = { s with host := t.host } ∧ t.Answered c .crcerr [] ∧
          (s.host.cacrc < 3 → t.host.cacrc = s.host.cacrc + 1 ∧ t.host.caexp = nextOffset (s.host.caexp + 4 * len)) ∧
          (3 ≤ s.host.cacrc → t.host.cacrc = 0 ∧ t.host.caexp = 0 ∧ t.host.catail = 0 ∧ t.host.aperture = [] ∧
            t.host.carestart = true))

/-- A complete reply is written when R361 leaves room for it: its header fields stand at `RAHEAD` (R289), the head and the sequence number
move on (R288, R290), and no byte outside its entries changes. -/
def Obligations.ReplyWriteFillsEntries : Prop :=
  ∀ (s : State) (c : Held) (r : Reply), s.host.raen = true → s.host.nextReply = some c → c.reply = some r →
    (s.host.rahead + s.host.rasize - s.host.ratail) % s.host.rasize + r.entries ≤ s.host.rasize - 1 → s.host.ralog ≤ 16 →
    r.report = false → r.opcode < 65536 → r.status < 65536 → r.job < 65536 → r.payload.length ≤ 16352 →
    Memory.wf s.out.hostMem = true →
    Runs (.replyWrite false) s fun t =>
      t = { s with host := t.host, out := t.out, fresh := t.fresh } ∧
      t.out = { s.out with hostMem := t.out.hostMem, msix := t.out.msix } ∧
      t.host.rahead = (s.host.rahead + r.entries) % s.host.rasize ∧ t.host.rseqnext = nextSeq s.host.rseqnext ∧
      (∀ o, o ∈ t.host.held → o.id ≠ c.id) ∧
      t.replyField s.host.rahead 0 4 = s.host.rseqnext.toNat ∧ t.replyField s.host.rahead 4 4 = r.tag.toNat ∧
      t.replyField s.host.rahead 8 2 = r.opcode ∧ t.replyField s.host.rahead 10 2 = r.status ∧
      t.replyField s.host.rahead 12 2 = r.entries ∧ t.replyField s.host.rahead 14 2 = 0 ∧
      t.replyField s.host.rahead 16 2 = r.job ∧ t.replyField s.host.rahead 18 1 = r.pmask.toNat ∧
      t.replyField s.host.rahead 20 4 = r.payload.length ∧
      (∀ (i : Nat) (h : i < r.payload.length), t.replyByte (64 * s.host.rahead + (32 + i)) = r.payload[i]) ∧
      ∀ a, (∀ i < 64 * r.entries, a ≠ (s.host.rabase.toNat + (64 * s.host.rahead + i) % (64 * s.host.rasize)) % 2 ^ 64) →
        memRead t.out.hostMem a = memRead s.out.hostMem a

/-- The control registers of the reply area: enabling clears its indices and counters (R359), disabling starts a drain (R360), the base, the
size and the tail take a value within their range (R354, R358, R361), and the interrupt enables always do (R359). -/
def Obligations.ReplyAreaRegistersWrite : Prop :=
  ∀ s : State, s.hostUp = true →
    (∀ e, s.host.raen = false → s.host.radrain = false → Runs (.raenEnable e) s fun t => t = { s with host := { s.host with
      raen := true, rahead := 0, ratail := 0, catail := 0, caexp := 0, rseqnext := 1, caovrun := 0, rptlost := 0,
      rirqen := e.getLsbD 0, rptirqen := e.getLsbD 1, errirqen := e.getLsbD 2,
      aperture := [], written := [], cahdr := 0, lastLen := 0 } }) ∧
    (∀ e, s.host.raen = true → s.host.radrain = false → s.host.held ≠ [] → Runs (.raenDisable e) s fun t =>
      t = { s with host := t.host } ∧ t.host.radrain = true ∧ t.host.raen = true ∧ t.host.held = s.host.held ∧
      t.host.reports = s.host.reports ∧ t.catake = false) ∧
    (∀ e, s.host.raen = true → s.host.radrain = false → s.host.held = [] → Runs (.raenDisable e) s fun t =>
      t = { s with host := t.host } ∧ t.host.radrain = false ∧ t.host.raen = false ∧ t.host.catail = 0 ∧ t.host.caexp = 0 ∧
      t.host.reports = s.host.reports) ∧
    (∀ e, Runs (.interruptEnableWrite e) s fun t => t = { s with host := { s.host with
      rirqen := e.getLsbD 0, rptirqen := e.getLsbD 1, errirqen := e.getLsbD 2 } }) ∧
    (∀ v, s.host.raen = false → s.host.radrain = false → Runs (.rabaseWrite .whole v) s fun t =>
      t = { s with host := { s.host with rabase := t.host.rabase } } ∧
      ∀ i < 64, t.host.rabase.getLsbD i = (decide (12 ≤ i) && v.getLsbD i)) ∧
    (∀ v, s.host.raen = false → s.host.radrain = false → Runs (.rabaseWrite .lower v) s fun t =>
      t = { s with host := { s.host with rabase := t.host.rabase } } ∧
      ∀ i < 64, t.host.rabase.getLsbD i = if i < 32 then decide (12 ≤ i) && v.getLsbD i else s.host.rabase.getLsbD i) ∧
    (∀ v, s.host.raen = false → s.host.radrain = false → Runs (.rabaseWrite .upper v) s fun t =>
      t = { s with host := { s.host with rabase := t.host.rabase } } ∧
      ∀ i < 64, t.host.rabase.getLsbD i = if i < 32 then s.host.rabase.getLsbD i else v.getLsbD (i - 32)) ∧
    (∀ v : W32, s.host.raen = false → s.host.radrain = false → 9 ≤ v.toNat % 32 → v.toNat % 32 ≤ 16 → Runs (.rasizeWrite v) s fun t =>
      t = { s with host := { s.host with ralog := v.toNat % 32 } }) ∧
    (∀ v : W32, v.toNat % 65536 < s.host.rasize → Runs (.ratailWrite v) s fun t =>
      t = { s with host := { s.host with ratail := v.toNat % 65536 } })

/-- Writes that R351, R352 and R359 to R361 discard set `BADACC` and change no other register: the base or the size while the area is
enabled or drains, a size or a tail out of range, an unlisted or read-only target, a malformed size or alignment.
A malformed read returns zero in every byte, sets `BADACC` and has no other effect (R351). -/
def Obligations.BadHostAccessSetsBadacc : Prop :=
  (∀ (i : Instr) (s : State), s.hostUp = true → s.host.errirqen = false →
    ((∃ p v, i = .rabaseWrite p v ∧ (s.host.raen = true ∨ s.host.radrain = true)) ∨
     (∃ v : W32, i = .rasizeWrite v ∧ (s.host.raen = true ∨ s.host.radrain = true ∨ v.toNat % 32 < 9 ∨ 16 < v.toNat % 32)) ∨
     (∃ v : W32, i = .ratailWrite v ∧ s.host.rasize ≤ v.toNat % 65536) ∨
     (∃ off size v, i = .bar0Write off size v ∧ ((size ≠ 4 ∧ size ≠ 8) ∨ off % size ≠ 0)) ∨
     (∃ off v, i = .bar0Write off 8 v ∧ off % 8 = 0 ∧ off ∉ [0x0108, 0x0110, 0x0118, 0x0120, 0x0140] ∧ (off < 0x8000 ∨ 0x8030 ≤ off)) ∨
     (∃ off v, i = .bar0Write off 4 v ∧ off ∉ [0x0108, 0x0110, 0x0114, 0x0118, 0x011C, 0x0124, 0x0140] ∧
       (off < 0x8000 ∨ 0x8030 ≤ off))) →
    Runs i s fun t => t = { s with host := { s.host with errsum := s.host.errsum ||| 0x10000 } }) ∧
  (∀ (off size : Nat) (s : State), s.hostUp = true → s.host.errirqen = false →
    (size ∉ [1, 2, 4, 8] ∨ off % size ≠ 0) →
    Runs (.bar0MalformedRead off size) s fun t =>
      t = { s with out := { s.out with read := 0 }, host := { s.host with errsum := s.host.errsum ||| 0x10000 } })

/-- The write-one-to-clear registers, MSI-X masking and the counter latch: `ERRSUM` loses the bits written as 1, `UPALERT` excepted while
its pin is low (R362); `CARESTART` goes (R356); an unmasked vector sends its pending message (R367); a lower-word read of a counter returns
its low half and latches the high one (R364); a 4-byte write of a register does what its own row does (R351). -/
def Obligations.HostStatusRegistersWrite : Prop :=
  ∀ s : State, s.hostUp = true →
    (∀ v : W32, (s.mod.alertIn && s.host.errsum.getLsbD 14 && v.getLsbD 14) = false → Runs (.errsumClear v) s fun t =>
      t = { s with host := { s.host with errsum := s.host.errsum &&& ~~~v } }) ∧
    (∀ v : W32, s.mod.alertIn = true → s.host.errsum.getLsbD 14 = true → v.getLsbD 14 = true → Runs (.errsumClear v) s fun t =>
      t.host.errsum = (s.host.errsum &&& ~~~v) ||| 0x4000) ∧
    (∀ v : W32, Runs (.carestartClear v) s fun t =>
      t = { s with host := { s.host with carestart := s.host.carestart && !v.getLsbD 16 } }) ∧
    (∀ v : Fin 3, s.host.msixPend.getLsbD v.val = false → Runs (.msixVectorUnmask v) s fun t =>
      t = { s with host := { s.host with msix := s.host.msix.set v { s.host.msix[v] with ctrl := 0 } } }) ∧
    (∀ v : Fin 3, s.host.msixPend.getLsbD v.val = true → Runs (.msixVectorUnmask v) s fun t =>
      t.out = { s.out with msix := s.out.msix ++ [(s.host.msix[v].addr, s.host.msix[v].data)] } ∧
      t.host.msixPend.getLsbD v.val = false) ∧
    Runs (.counterLowerRead .host) s (fun t =>
      t.out = { s.out with read := BitVec.ofNat 64 (s.host.hpcnt % 2 ^ 32) } ∧
      t.host = { s.host with latch := BitVec.ofNat 32 (s.host.hpcnt / 2 ^ 32) }) ∧
    (∀ k, (s.plane k).ps ≠ .held → Runs (.counterLowerRead (.plane k)) s fun t =>
      t.out = { s.out with read := BitVec.ofNat 64 ((s.plane k).cnt % 2 ^ 32) } ∧
      t.plane k = { s.plane k with latch := BitVec.ofNat 32 ((s.plane k).cnt / 2 ^ 32) } ∧ t.host = s.host) ∧
    (∀ (i : Fin 3) (v : W64), Runs (.bar0Write (0x8008 + 16 * i.val) 4 v) s fun t => t = { s with host := { s.host with
      msix := s.host.msix.set i { s.host.msix[i] with data := BitVec.ofNat 32 v.toNat } } }) ∧
    (∀ v : W64, exec (.bar0Write 0x0124 4 v) s = exec (.ratailWrite (BitVec.ofNat 32 v.toNat)) s ∧
      exec (.bar0Write 0x0118 4 v) s = exec (.rasizeWrite (BitVec.ofNat 32 v.toNat)) s ∧
      exec (.bar0Write 0x0140 4 v) s = exec (.errsumClear (BitVec.ofNat 32 v.toNat)) s)

/-! ### Device, information, checking, firmware and calibration commands -/

/-- The device-scope queries of R296, R298 and R303 to R306 are answered `OK` at once with the fields of their tables, the report of R323 signed
over its SHA3-512 hash (R312), and nothing outside the host port block changes. -/
def Obligations.DeviceQueriesAnswer : Prop :=
  ∀ (p : Packet) (c : Held) (s : State),
    (s.AtHead 0x0101 p c → Runs (.devInfo p) s fun t => t = { s with host := t.host } ∧
      ∃ pl, t.Answered c .ok pl ∧ pl.length = 64 ∧ pl.take 12 = ordernum ∧ fieldAt pl 12 1 = 0x41 ∧ fieldAt pl 13 1 = s.bidx % 256 ∧
        fieldAt pl 14 1 = s.part.bsize % 256 ∧ fieldAt pl 15 1 = (if s.boot.recmode = true then 0 else s.inServiceMask % 256) ∧
        fieldAt pl 16 1 = s.retiredMask % 256 ∧ slice pl 17 3 = zeros 3 ∧ fieldAt pl 20 4 = s.boot.fwver.toNat ∧
        fieldAt pl 24 2 = s.jobsOpen % 65536 ∧ fieldAt pl 26 2 = 1024 - s.groups.length ∧ pl.drop 28 = zeros 36) ∧
    (s.AtHead 0x080A p c → Runs (.boardQuery p) s fun t => t = { s with host := t.host } ∧
      ∃ pl, t.Answered c .ok pl ∧ pl.length = 132 ∧ fieldAt pl 0 1 = s.bidx % 256 ∧ fieldAt pl 1 1 = s.part.bsize % 256 ∧
        slice pl 2 2 = zeros 2 ∧ ∀ l < 128, fieldAt pl (4 + l) 1 = s.part.far.getD l 0xFF % 256) ∧
    (s.AtHead 0x0903 p c → Runs (.obsRead p) s fun t => t = { s with host := t.host } ∧
      ∃ pl, t.Answered c .ok pl ∧ pl.length = 140 ∧ fieldAt pl 0 1 = s.host.obsretire % 256 ∧
        fieldAt pl 1 1 = s.host.obsclear % 256 ∧ slice pl 2 2 = zeros 2 ∧ fieldAt pl 4 4 = s.host.testint % 2 ^ 32 ∧
        fieldAt pl 8 4 = s.host.testgrace % 2 ^ 32 ∧ ∀ k : PlaneIx,
          fieldAt pl (12 + 16 * k.val) 2 = ((s.plane k).obsMask ||| if s.comb.obs = [] then 0 else 4096) % 65536 ∧
          slice pl (14 + 16 * k.val) 2 = zeros 2 ∧ ∀ b < 12, fieldAt pl (16 + 16 * k.val + b) 1 = s.obsErr k (b + 1) % 256) ∧
    (s.AtHead 0x0A01 p c → Runs (.fwQuery p) s fun t => t = { s with host := t.host } ∧
      ∃ pl, t.Answered c .ok pl ∧ pl.length = 76 ∧ fieldAt pl 0 4 = s.boot.fwver.toNat ∧
        fieldAt pl 4 4 = s.boot.fwlen % 2 ^ 32 ∧ slice pl 8 64 = fixLen 64 s.boot.mfw ∧ fieldAt pl 72 1 = s.boot.recmode.toNat ∧
        pl.drop 73 = zeros 3) ∧
    (s.AtHead 0x020D p c → Runs (.jobList p) s fun t => t = { s with host := t.host } ∧
      ∃ js : List Job, js.Perm s.jobs ∧ js.Pairwise (fun a b => a.id ≤ b.id) ∧ t.Answered c .ok (leBytes 2 js.length ++ zeros 2 ++
        js.flatMap fun j => leBytes 2 j.id ++ leBytes 1 j.st.code ++ leBytes 1 j.hdr.jclass)) ∧
    (s.AtHead 0x0A04 p c → Runs (.attest p) s fun t => t = { s with host := t.host } ∧ t.host.acount = s.host.acount + 1 ∧
      let body := s.attestBody p.params (s.host.acount + 1)
      t.Answered c .ok (body ++ fixLen 4627 (Config.identitySign (sha3_512 body))) ∧ fieldAt body 3 1 = s.boot.recmode.toNat ∧
        slice body 24 32 = fixLen 32 p.params ∧ fieldAt body 320 8 = (s.host.acount + 1) % 2 ^ 64)

/-- Reads of a range of the manifest or the calibration set return its bytes, or `LENGTH` where the range ends beyond it (R306); a read of an
error log returns up to `COUNT` records from `ESEQ` on and the number that follows the last, or `PARAM` for a target that keeps none and `PLANEDOWN` for a plane out of service
(R305).
`BARRIER` is answered once every command taken earlier has been answered, and waits until then (R296). -/
def Obligations.ReadsAndBarrierAnswer : Prop :=
  (∀ (p : Packet) (c : Held) (s : State),
    (s.AtHead 0x0A05 p c → Runs (.manifestRead p) s fun t => t = { s with host := t.host } ∧
      if fieldAt p.params 0 4 + fieldAt p.params 4 4 ≤ 9619 then
        t.Answered c .ok (slice s.boot.manifest (fieldAt p.params 0 4) (fieldAt p.params 4 4))
      else t.Answered c .length []) ∧
    (s.AtHead 0x0B01 p c → Runs (.calRead p) s fun t => t = { s with host := t.host } ∧
      if fieldAt p.params 0 4 + fieldAt p.params 4 4 ≤ 480 then
        t.Answered c .ok (slice s.nv.cal (fieldAt p.params 0 4) (fieldAt p.params 4 4))
      else t.Answered c .length []) ∧
    (s.AtHead 0x0901 p c → fieldAt p.params 0 1 = 255 → Runs (.errlogRead p) s fun t =>
      t = { s with host := t.host, fresh := s.fresh + 1 } ∧
      ∃ rs pl, rs = (s.host.herrLog.filter fun r => fieldAt p.params 4 4 ≤ r.eseq).take (fieldAt p.params 1 1) ∧
        t.Answered c .ok pl ∧ fieldAt pl 0 1 = rs.length % 256 ∧ pl.drop 8 = rs.flatMap errBytes ∧
        ∀ r, rs.getLast? = some r → fieldAt pl 4 4 = (r.eseq + 1) % 2 ^ 32) ∧
    (∀ k : PlaneIx, s.AtHead 0x0901 p c → fieldAt p.params 0 1 = k.val → (s.plane k).ps = .inService → Runs (.errlogRead p) s fun t =>
      t = { s with host := t.host, fresh := s.fresh + 1 } ∧
      ∃ rs pl, rs = ((s.plane k).errLog.filter fun r => fieldAt p.params 4 4 ≤ r.eseq).take (fieldAt p.params 1 1) ∧
        t.Answered c .ok pl ∧ fieldAt pl 0 1 = rs.length % 256 ∧ pl.drop 8 = rs.flatMap errBytes ∧
        ∀ r, rs.getLast? = some r → fieldAt pl 4 4 = (r.eseq + 1) % 2 ^ 32) ∧
    (∀ k : PlaneIx, s.AtHead 0x0901 p c → fieldAt p.params 0 1 = k.val → (s.plane k).ps ≠ .inService → Runs (.errlogRead p) s fun t =>
      t = { s with host := t.host } ∧ t.Answered c .planedown []) ∧
    (s.AtHead 0x0901 p c → 8 ≤ fieldAt p.params 0 1 → fieldAt p.params 0 1 ≠ 255 → Runs (.errlogRead p) s fun t =>
      t = { s with host := t.host } ∧ t.Answered c .param [])) ∧
  (∀ (p : Packet) (c : Held) (s : State), s.AtHead 0x0105 p c →
    ((∀ o ∈ s.host.held, c.id ≤ o.id) → Runs (.barrier p) s fun t => t = { s with host := t.host } ∧ t.Answered c .ok []) ∧
    ((∃ o ∈ s.host.held, o.id < c.id ∧ o.pkt.opcode ≠ 0x0105) → Runs (.barrier p) s fun t => t = { s with host := t.host } ∧
      ∃ o ∈ t.host.held, o.id = c.id ∧ o.phase = .waiting))

/-- The device-scope commands that write: `OBS_SET` takes values within their ranges and otherwise changes nothing (R249); `FW_LOAD` fills the
staging buffer and touches no other byte of it, and a segment that ends beyond it is `LENGTH` (R317, R306). `FW_COMMIT` starts programming only
a package that verifies: any other is `AUTH`, with the slot as it was and the buffer zero, and while a job is open the command is `BUSY`
(R317, R306). `CAL_WRITE` starts its write only for a set that passes its checks: any other is `PARAM`, and a good one is `BUSY` while a
job is open or the slot is programmed (R327). The end of each write puts the bytes into the non-volatile store and answers. -/
def Obligations.DeviceWritesTakeEffect : Prop :=
  ∀ (p : Packet) (c : Held) (s : State),
    (s.AtHead 0x0902 p c → Runs (.obsSet p) s fun t => t = { s with host := t.host } ∧
      if 1 ≤ fieldAt p.params 0 1 ∧ 1 ≤ fieldAt p.params 1 1 ∧ 10 ≤ fieldAt p.params 4 4 ∧ fieldAt p.params 4 4 ≤ 86400 ∧
         1 ≤ fieldAt p.params 8 4 ∧ fieldAt p.params 8 4 ≤ 3600 then
        t.Answered c .ok [] ∧ t.host.obsretire = fieldAt p.params 0 1 ∧ t.host.obsclear = fieldAt p.params 1 1 ∧
        t.host.testint = fieldAt p.params 4 4 ∧ t.host.testgrace = fieldAt p.params 8 4
      else t.Answered c .param [] ∧ t.host.obsretire = s.host.obsretire ∧ t.host.obsclear = s.host.obsclear ∧
        t.host.testint = s.host.testint ∧ t.host.testgrace = s.host.testgrace) ∧
    (s.AtHead 0x0A02 p c → Memory.wf s.host.staging = true → fieldAt p.params 0 4 + fieldAt p.params 4 4 ≤ stagingSize →
      Runs (.fwLoad p) s fun t => t = { s with host := t.host } ∧ t.Answered c .ok [] ∧
        (∀ i < fieldAt p.params 4 4, memRead t.host.staging (fieldAt p.params 0 4 + i) = (p.params.drop 8).getD i 0) ∧
        ∀ a, (∀ i < fieldAt p.params 4 4, a ≠ fieldAt p.params 0 4 + i) → memRead t.host.staging a = memRead s.host.staging a) ∧
    (s.AtHead 0x0A02 p c → stagingSize < fieldAt p.params 0 4 + fieldAt p.params 4 4 →
      Runs (.fwLoad p) s fun t => t = { s with host := t.host } ∧ t.Answered c .length [] ∧ t.host.staging = s.host.staging) ∧
    (s.AtHead 0x0A03 p c → s.jobsOpen = 0 → s.host.programming = none →
      let pkg := memReadN s.host.staging 0 (min (fieldAt p.params 0 4) stagingSize)
      let good := fieldAt p.params 0 4 ≤ stagingSize ∧ (pkgHdr pkg).pklen = fieldAt p.params 0 4 ∧ verifyPackage s.nv s.bidx pkg = none
      (good → Runs (.fwCommit p) s fun t => t = { s with host := t.host } ∧ t.host.programming = some (c.id, pkg) ∧
        ∃ o ∈ t.host.held, o.id = c.id ∧ o.phase = .waiting) ∧
      (¬good → Runs (.fwCommit p) s fun t => t = { s with host := t.host } ∧ t.nv.slot = s.nv.slot ∧ t.Answered c .auth [] ∧
        t.host.programming = none ∧ t.host.staging = [])) ∧
    (s.AtHead 0x0A03 p c → s.jobsOpen ≠ 0 → Runs (.fwCommit p) s fun t => t = { s with host := t.host } ∧ t.Answered c .busy [] ∧
      t.host.programming = s.host.programming ∧ t.host.staging = s.host.staging) ∧
    (∀ pkg, c ∈ s.host.held → (∀ o ∈ s.host.held, o.id = c.id → o = c) → s.host.programming = some (c.id, pkg) →
      Runs .fwCommitProgramDone s fun t => t = { s with host := t.host, nv := { s.nv with slot := pkg }, boot := t.boot } ∧
        t.Answered c .ok [] ∧ t.host.programming = none ∧ t.host.staging = [] ∧ t.boot.fwlen = (pkgHdr pkg).pklen ∧
        t.boot = { s.boot with fwver := t.boot.fwver, fwlen := t.boot.fwlen } ∧ t.boot.fwver.toNat = (pkgHdr pkg).fver % 2 ^ 32) ∧
    (s.AtHead 0x0B02 p c →
      let good := calOk (slice p.params 4 480) s.nv.serial = true ∧ fieldAt (slice p.params 4 480) 0x18 1 = 1
      (good → s.jobsOpen = 0 → s.host.programming = none → s.host.calWriting = none → Runs (.calWrite p) s fun t =>
        t = { s with host := t.host } ∧ t.host.calWriting = some (c.id, slice p.params 4 480) ∧
        ∃ o ∈ t.host.held, o.id = c.id ∧ o.phase = .waiting) ∧
      (good → s.jobsOpen ≠ 0 ∨ s.host.programming ≠ none → Runs (.calWrite p) s fun t =>
        t = { s with host := t.host } ∧ t.Answered c .busy [] ∧ t.host.calWriting = s.host.calWriting) ∧
      (¬good → Runs (.calWrite p) s fun t =>
        t = { s with host := t.host } ∧ t.Answered c .param [] ∧ t.host.calWriting = s.host.calWriting)) ∧
    (∀ b, c ∈ s.host.held → (∀ o ∈ s.host.held, o.id = c.id → o = c) → s.host.calWriting = some (c.id, b) →
      Runs .calWriteDone s fun t => t = { s with host := t.host, nv := { s.nv with cal := b } } ∧ t.Answered c .ok [] ∧
        t.host.calWriting = none)

/-- The plane-scope commands go to every plane that `PMASK` names, while those planes are in service (R21, R291, R308). The commands that name
values take them in their ranges (R192, R205, R209, R227, R257); out of its range a value is refused with `PARAM` by every plane named that is
in service, a command by lane mask with the lowest lane it names.
The job-and-planes commands go to every plane that `PMASK` names, or to every plane of the job where it is zero, for a job open on the
device (R285, R291); for a job that is not, each named plane in service answers `NOJOB`, but `EXPAND_SET` `FORMAT`, or `PARAM` for parameters
of R33 that no state would take (R32, R300; which of the two is the model's choice, notes/assumptions 90), and no plane sees the command.
A plane that is not in service answers `PLANEDOWN` to a plane-scope command that names it alone, and does not see it (R291). -/
def Obligations.CommandsAreHandedToPlanes : Prop :=
  (∀ (op : Nat) (i : Instr) (p : Packet) (c : Held) (s : State), s.AtHead op p c →
    let ps := planesOf p.pmask.toNat
    let shape := 1000 ≤ fieldAt p.params 4 4 ∧ fieldAt p.params 4 4 ≤ 50000 ∧ 8292 ≤ fieldAt p.params 8 4 ∧
      fieldAt p.params 8 4 ≤ 1048576 ∧ fieldAt p.params 12 1 ≤ 64
    let fwd := fieldAt p.params 4 1 ∈ [0x80, 0x81, 0x82, 0x83, 0x00] ∧ fieldAt p.params 5 1 ≤ 1
    let blocks := ∀ b < 16, (fieldAt p.params 0 2).testBit b = true → b ∈ [2, 4, 5, 6, 7, 8, 9]
    (s.Serving ps →
      ((op, i) ∈ [(0x0102, .devStatus p), (0x0104, .astatRead p), (0x0704, .shapeRead p), (0x0706, .gateRead p), (0x0801, .laneStatus p),
         (0x0803, .laneHold p), (0x0804, .laneRelease p), (0x0805, .laneDormant p), (0x0806, .laneWake p), (0x0807, .laneDisable p),
         (0x0808, .laneEnable p)] ∨
       (op = 0x0103 ∧ i = .cntRead p ∧ 8 ≤ fieldAt p.params 0 1) ∨ (op = 0x0703 ∧ i = .shapeSet p ∧ shape) ∨
       (op = 0x0705 ∧ i = .gatePhase p ∧ fieldAt p.params 0 4 < s.part.gcycle) ∨
       (op = 0x0802 ∧ i = .laneEq p ∧ fieldAt p.params 4 1 ≤ 15) ∨ (op = 0x0809 ∧ i = .laneFwd p ∧ fwd) ∨
       (op = 0x0904 ∧ i = .testRun p ∧ blocks)) →
      Runs i s fun t => t = { s with host := t.host, planes := t.planes } ∧ s.HandedTo t c ps) ∧
    ((op = 0x0705 ∧ i = .gatePhase p ∧ ¬fieldAt p.params 0 4 < s.part.gcycle) ∨ (op = 0x0904 ∧ i = .testRun p ∧ ¬blocks) →
      Runs i s fun t => t = { s with host := t.host } ∧ s.RefusedBy t c ps .param []) ∧
    ((op = 0x0703 ∧ i = .shapeSet p ∧ ¬shape) ∨ (op = 0x0802 ∧ i = .laneEq p ∧ ¬fieldAt p.params 4 1 ≤ 15) ∨
       (op = 0x0809 ∧ i = .laneFwd p ∧ ¬fwd) →
      Runs i s fun t => t = { s with host := t.host } ∧
        ∃ sec, s.RefusedBy t c ps .param sec ∧ ∀ l, (lanesOf (fieldAt p.params 0 2)).head? = some l → sec = leBytes 1 l.val)) ∧
  (∀ (op : Nat) (i : Instr) (p : Packet) (c : Held) (s : State), s.AtHead op p c →
    let cmds := [(0x0702, Instr.rateRead p), (0x0401, .bucketQuery p), (0x0403, .histRead p), (0x0502, .optRead p),
      (0x0601, .stashQuery p), (0x0602, .treeRead p), (0x0303, .syncAdd p), (0x0304, .syncSet p), (0x0305, .syncWait p),
      (0x0306, .syncRead p)]
    let named (j : Job) := if p.pmask = 0 then planesOf j.hdr.planes.toNat else planesOf p.pmask.toNat
    let cnt := op = 0x0103 ∧ i = .cntRead p ∧ fieldAt p.params 0 1 < 8 ∧
      (fieldAt p.params 0 1 = 2 → ∀ j, s.findJob p.job = some j → j.hdr.opt.kernel = 4)
    let weights := op = 0x0402 ∧ i = .expandSet p
    let wrong := if fmtFloat (fieldAt p.params 1 1) = false ∧ expandOk p.params = false then Status.param else Status.format
    ((op, i) ∈ cmds ∨ cnt ∨ weights → ∀ j, s.findJob p.job = some j → j.st.isOpen = true → s.Serving (named j) →
      Runs i s fun t => t = { s with host := t.host, planes := t.planes } ∧ s.HandedTo t c (named j)) ∧
    ((op, i) ∈ cmds ∨ cnt →
      (s.findJob p.job = none → Runs i s fun t => t = { s with host := t.host } ∧ s.RefusedBy t c (planesOf p.pmask.toNat) .nojob []) ∧
      (∀ j, s.findJob p.job = some j → j.st.isOpen = false →
        Runs i s fun t => t = { s with host := t.host } ∧ s.RefusedBy t c (named j) .nojob [])) ∧
    (weights →
      (s.findJob p.job = none → Runs i s fun t => t = { s with host := t.host, planes := t.planes } ∧
        (∀ k, t.plane k = { s.plane k with astat := (t.plane k).astat }) ∧ s.RefusedBy t c (planesOf p.pmask.toNat) wrong []) ∧
      (∀ j, s.findJob p.job = some j → j.st.isOpen = false → Runs i s fun t => t = { s with host := t.host, planes := t.planes } ∧
        (∀ k, t.plane k = { s.plane k with astat := (t.plane k).astat }) ∧ s.RefusedBy t c (named j) wrong []))) ∧
  (∀ (op : Nat) (i : Instr) (k : PlaneIx) (p : Packet) (c : Held) (s : State), s.AtHead op p c → planesOf p.pmask.toNat = [k] →
    (s.plane k).ps ≠ .inService →
    (op, i) ∈ [(0x0102, .devStatus p), (0x0104, .astatRead p), (0x0704, .shapeRead p), (0x0706, .gateRead p), (0x0801, .laneStatus p),
      (0x0803, .laneHold p), (0x0804, .laneRelease p), (0x0805, .laneDormant p), (0x0806, .laneWake p), (0x0807, .laneDisable p),
      (0x0808, .laneEnable p), (0x0703, .shapeSet p), (0x0705, .gatePhase p), (0x0802, .laneEq p), (0x0809, .laneFwd p),
      (0x0904, .testRun p)] ∨ (op = 0x0103 ∧ i = .cntRead p ∧ 8 ≤ fieldAt p.params 0 1) →
    Runs i s fun t => t = { s with host := t.host } ∧ t.Answered c .planedown (statusBlock k .planedown))

/-! ### Job, group and optimizer commands -/

/-- The description of a job (R142, R144, R262): `JOB_DEFINE` of a free identifier makes a job in `DEFINING` with the header it carries and
the defaults of `REPL_SET`, is `BUSY` where four jobs are `DEFINING`, replaces what a job in `DEFINING` holds, and is `PARAM` for any other
job and while the reply that closes the job has not been sent (R149); `JOB_TABLE` writes its bytes into the table it names and no others, is
`PARAM` beyond that table's declared length and `NOJOB` for a job that is not `DEFINING`; `REPL_SET` sets the digest interval and the log
length within their ranges of a job in `DEFINING`, and is `PARAM` otherwise. -/
def Obligations.JobDefinitionIsStored : Prop :=
  ∀ (p : Packet) (c : Held) (s : State),
    (s.AtHead 0x0201 p c → s.host.programming = none →
      let unsent := ∃ x ∈ s.host.closeReplies, x.2 = p.job ∧ ∃ o ∈ s.host.held, o.id = x.1
      let made (j : Job) := j.id = p.job ∧ j.st = .defining ∧ j.hdr = parseHdr p.params ∧
        j.members = parseMembers (p.params.drop 192) (parseHdr p.params).nmemb ∧ j.tabBucket = [] ∧ j.tabPlace = [] ∧ j.tabKimg = []
      (s.findJob p.job = none → ¬unsent → s.defining < 4 → Runs (.jobDefine p) s fun t =>
        t = { s with host := t.host, jobs := t.jobs } ∧ t.Answered c .ok [] ∧
        ∃ j, t.jobs = s.jobs ++ [j] ∧ made j ∧ j.digk = 50 ∧ j.logl = 8) ∧
      (s.findJob p.job = none → unsent → Runs (.jobDefine p) s fun t => t = { s with host := t.host } ∧ t.Answered c .param []) ∧
      (s.findJob p.job = none → ¬unsent → 4 ≤ s.defining → Runs (.jobDefine p) s fun t =>
        t = { s with host := t.host } ∧ t.Answered c .busy []) ∧
      (∀ j, s.findJob p.job = some j → j.st = .defining → Runs (.jobDefine p) s fun t =>
        t = { s with host := t.host, jobs := t.jobs } ∧ t.Answered c .ok [] ∧ ∃ j', t.findJob p.job = some j' ∧ made j') ∧
      (∀ j, s.findJob p.job = some j → j.st ≠ .defining → Runs (.jobDefine p) s fun t =>
        t = { s with host := t.host } ∧ t.Answered c .param [])) ∧
    (∀ T ∈ [1, 2, 3], s.AtHead 0x0202 p c → fieldAt p.params 0 1 = T →
      let off := fieldAt p.params 4 4
      let n := fieldAt p.params 8 4
      let tab (x : Job) := if T = 1 then x.tabBucket else if T = 2 then x.tabPlace else x.tabKimg
      (∀ j, s.findJob p.job = some j → j.st = .defining →
        let len := if T = 1 then 32 * j.hdr.nbucket else if T = 2 then 16 * j.hdr.nplace else j.hdr.kimglen
        (off + n ≤ len → Runs (.jobTable p) s fun t =>
          t = { s with host := t.host, jobs := t.jobs } ∧ t.Answered c .ok [] ∧
          ∃ j', t.findJob p.job = some j' ∧ j' = { j with tabBucket := j'.tabBucket, tabPlace := j'.tabPlace, tabKimg := j'.tabKimg } ∧
            (T ≠ 1 → j'.tabBucket = j.tabBucket) ∧ (T ≠ 2 → j'.tabPlace = j.tabPlace) ∧ (T ≠ 3 → j'.tabKimg = j.tabKimg) ∧
            (∀ i < n, (tab j').lookup (off + i) = some ((p.params.drop 12).getD i 0)) ∧
            ∀ a, (a < off ∨ off + n ≤ a) → (tab j').lookup a = (tab j).lookup a) ∧
        (len < off + n → Runs (.jobTable p) s fun t => t = { s with host := t.host } ∧ t.Answered c .param [])) ∧
      ((∀ j, s.findJob p.job = some j → j.st ≠ .defining) → Runs (.jobTable p) s fun t =>
        t = { s with host := t.host } ∧ t.Answered c .nojob [])) ∧
    (s.AtHead 0x0209 p c →
      let ok := fieldAt p.params 0 2 ≤ 10000 ∧ 1 ≤ fieldAt p.params 2 1 ∧ fieldAt p.params 2 1 ≤ 64
      (∀ j, s.findJob p.job = some j → j.st = .defining → ok → Runs (.replSet p) s fun t =>
        t = { s with host := t.host, jobs := t.jobs } ∧ t.Answered c .ok [] ∧
        t.findJob p.job = some { j with digk := fieldAt p.params 0 2, logl := fieldAt p.params 2 1 }) ∧
      (¬ok ∨ (∀ j, s.findJob p.job = some j → j.st ≠ .defining) → Runs (.replSet p) s fun t =>
        t = { s with host := t.host } ∧ t.Answered c .param []))

/-- A job whose description passes the checks of R147 opens: it becomes `LOADING` with the lowest free group record (R152) and all its members
in the group, and every plane of it takes the command; one that fails stays `DEFINING` and is answered with the status of its row. -/
def Obligations.JobOpenLoadsOrRefuses : Prop :=
  ∀ (j : Job) (p : Packet) (c : Held) (s : State), s.AtHead 0x0203 p c → s.host.programming = none → s.findJob p.job = some j →
    (j.st = .defining → s.openStatus j.parsed (s.peerLists j.parsed) = .ok → s.Serving (planesOf j.hdr.planes.toNat) →
      Runs (.jobOpen p) s fun t =>
        t = { s with host := t.host, jobs := t.jobs, groups := t.groups, planes := t.planes } ∧
        s.HandedTo t c (planesOf j.hdr.planes.toNat) ∧
        ∃ j' g, t.findJob p.job = some j' ∧ j'.st = .loading ∧ j'.groupRec = g ∧ t.groups = g :: s.groups ∧ g < 1024 ∧ g ∉ s.groups ∧
          (∀ g' < g, g' ∈ s.groups) ∧ j'.group = List.range j.members.length ∧ j'.fencedM = [] ∧ j'.hdr = j.hdr) ∧
    (j.st = .defining → s.openStatus j.parsed (s.peerLists j.parsed) ≠ .ok → Runs (.jobOpen p) s fun t =>
      t = { s with host := t.host } ∧ t.findJob p.job = some j ∧ t.Answered c (s.openStatus j.parsed (s.peerLists j.parsed)) []) ∧
    (j.st ≠ .defining → Runs (.jobOpen p) s fun t => t = { s with host := t.host } ∧ t.Answered c .nojob [])

/-- `JOB_START` makes a `LOADING` job `RUNNING` (R148); `RESTORE_BEGIN` goes to its planes while it is `LOADING` (R273), and `RESTORE_REPLAY`
while it is under restore there (R274); in any other state, and for a job that the device does not hold, each is `PARAM`, a replay with
`APPLIED` 0 and the job's `STEP` and `GEN` (R298; zero where no plane holds the job: the model's choice, notes/assumptions 30).
The other job commands that planes execute: `JOB_QUERY` of an open job goes to its planes, with the head of its reply, and is `NOJOB` for
a free identifier (R298); `RATE_SET` goes to them within the partition's ceilings, is `PARAM` beyond them and `NOJOB` for a job that is not
`LOADING`, `RUNNING` or `RECLAIMING` (R197, R198, R303); `CKPT_READ` and `LOG_READ` go to the planes named where the destination's lanes are
up, are `PARAM` where they are not, and `NOJOB` for a job in another state (R163, R271). -/
def Obligations.JobCommandsAreHandedOut : Prop :=
  (∀ (p : Packet) (c : Held) (s : State),
    (∀ j, s.findJob p.job = some j →
      (s.AtHead 0x0204 p c → j.st = .loading → s.Serving (planesOf j.hdr.planes.toNat) → Runs (.jobStart p) s fun t =>
        t = { s with host := t.host, jobs := t.jobs, planes := t.planes } ∧ s.HandedTo t c (planesOf j.hdr.planes.toNat) ∧
        ∃ j', t.findJob p.job = some j' ∧ j' = { j with st := .running, restore := false, lastComb := j'.lastComb }) ∧
      (s.AtHead 0x0204 p c → j.st ≠ .loading → Runs (.jobStart p) s fun t => t = { s with host := t.host } ∧ t.Answered c .param []) ∧
      (s.AtHead 0x020B p c → j.st = .loading → s.Serving (planesOf j.hdr.planes.toNat) → Runs (.restoreBegin p) s fun t =>
        t = { s with host := t.host, jobs := t.jobs, planes := t.planes } ∧ s.HandedTo t c (planesOf j.hdr.planes.toNat) ∧
        t.findJob p.job = some { j with restore := true }) ∧
      (s.AtHead 0x020B p c → j.st ≠ .loading → Runs (.restoreBegin p) s fun t =>
        t = { s with host := t.host } ∧ t.Answered c .param []) ∧
      (s.AtHead 0x020C p c → j.st = .loading → j.restore = true → s.Serving (planesOf j.hdr.planes.toNat) →
        Runs (.restoreReplay p) s fun t =>
          t = { s with host := t.host, planes := t.planes } ∧ s.HandedTo t c (planesOf j.hdr.planes.toNat)) ∧
      (s.AtHead 0x020C p c → j.st ≠ .loading ∨ j.restore = false → Runs (.restoreReplay p) s fun t =>
        t = { s with host := t.host } ∧ ∃ pl, t.Answered c .param pl ∧ pl.length = 20 ∧ fieldAt pl 0 4 = 0 ∧
          ∀ k pj, (s.heldPlanes j).head? = some k → s.pjob k j.id = some pj →
            slice pl 4 8 = leBytes 8 pj.orec.step ∧ slice pl 12 4 = leBytes 4 pj.orec.gen)) ∧
    (s.findJob p.job = none → ∀ op i, (op, i) ∈ [(0x0204, Instr.jobStart p), (0x020B, .restoreBegin p)] → s.AtHead op p c →
      Runs i s fun t => t = { s with host := t.host } ∧ t.Answered c .param []) ∧
    (s.findJob p.job = none → s.AtHead 0x020C p c → Runs (.restoreReplay p) s fun t =>
      t = { s with host := t.host } ∧ t.Answered c .param (zeros 20))) ∧
  (∀ (p : Packet) (c : Held) (s : State),
    let reads := [(0x0208, Instr.ckptRead p), (0x020A, Instr.logRead p)]
    (∀ j, s.findJob p.job = some j →
      let ceil := if j.hdr.serving then s.part.serve.jobceil else s.part.lend.jobceil
      let rateOk := rateRangeOk (parseRate p.params) j.hdr.serving ceil = true ∧ (parseRate p.params).unmetered = j.hdr.rate.unmetered
      let readable := j.st.isOpen = true ∧ j.st ≠ .loading ∧ j.closing = none
      let dest := s.destOk j (fieldAt p.params 0 1) (namedPlanes p j.hdr.planes) = true
      (s.AtHead 0x0206 p c → j.st ≠ .defining → s.Serving (planesOf j.hdr.planes.toNat) → Runs (.jobQuery p) s fun t =>
        t = { s with host := t.host, planes := t.planes, fresh := s.fresh + 2 } ∧ s.HandedTo t c (planesOf j.hdr.planes.toNat) ∧
        ∃ o ∈ t.host.held, o.id = c.id ∧ fieldAt o.extra 0 1 = j.st.code ∧ slice o.extra 8 16 = leBytes 16 (listMask j.fencedM) ∧
          (j.st.isActive = true → fieldAt o.extra 2 2 = j.groupRec % 65536 ∧ fieldAt o.extra 4 2 = j.group.length % 65536)) ∧
      (s.AtHead 0x0701 p c → j.st.isActive = true → rateOk → s.Serving (planesOf j.hdr.planes.toNat) → Runs (.rateSet p) s fun t =>
        t = { s with host := t.host, planes := t.planes } ∧ s.HandedTo t c (planesOf j.hdr.planes.toNat)) ∧
      (s.AtHead 0x0701 p c → j.st.isActive = true → ¬rateOk → Runs (.rateSet p) s fun t =>
        t = { s with host := t.host } ∧ t.Answered c .param []) ∧
      (s.AtHead 0x0701 p c → j.st.isActive = false → Runs (.rateSet p) s fun t =>
        t = { s with host := t.host } ∧ t.Answered c .nojob []) ∧
      (∀ op i, (op, i) ∈ reads → s.AtHead op p c → readable → dest →
        (op = 0x0208 → if j.st.isRunning then j.lastComb + 2 ≤ (fieldAt p.params 16 8 : Int) else fieldAt p.params 16 8 = 0) →
        s.Serving (namedPlanes p j.hdr.planes) → Runs i s fun t =>
          t = { s with host := t.host, planes := t.planes } ∧ s.HandedTo t c (namedPlanes p j.hdr.planes)) ∧
      (∀ op i, (op, i) ∈ reads → s.AtHead op p c → readable → ¬dest → Runs i s fun t =>
        t = { s with host := t.host } ∧ s.RefusedBy t c (namedPlanes p j.hdr.planes) .param []) ∧
      (∀ op i, (op, i) ∈ reads → s.AtHead op p c → ¬readable → Runs i s fun t =>
        t = { s with host := t.host } ∧ s.RefusedBy t c (namedPlanes p j.hdr.planes) .nojob [])) ∧
    (s.findJob p.job = none →
      (∀ op i, (op, i) ∈ [(0x0206, Instr.jobQuery p), (0x0701, .rateSet p)] → s.AtHead op p c → Runs i s fun t =>
        t = { s with host := t.host } ∧ t.Answered c .nojob []) ∧
      (∀ op i, (op, i) ∈ reads → s.AtHead op p c → Runs i s fun t =>
        t = { s with host := t.host } ∧ s.RefusedBy t c (planesOf p.pmask.toNat) .nojob [])))

/-- `JOB_CLOSE` of a `DEFINING` job frees its identifier at once; of a `RUNNING` or `RECLAIMING` one it fences the job with cause 2, of a
`RECLAIMED` or `FENCED` one it leaves the state, and the job is closing with the command (R148, R150); once every plane has released the closing job its identifier is free and the command is answered (R149).
`RECLAIM` of a running lendable job is answered at once; the job becomes `RECLAIMING` with its deadline, and each of its planes that
holds it takes the command, into the Command in queue where that has room (R21, R159); the earlier of two deadlines stands; a deadline above
60,000 is `PARAM`, a serving job `PARTITION`, a job that is not open or that closes `NOJOB` (R159, R310), and a job that has ended `OK` with
no change. -/
def Obligations.JobsCloseAndReclaim : Prop :=
  (∀ (j : Job) (p : Packet) (c : Held) (s : State), s.findJob p.job = some j → j.id = p.job →
    (s.AtHead 0x0205 p c → j.st = .defining → j.closing = none → Runs (.jobClose p) s fun t =>
      t = { s with host := t.host, jobs := t.jobs } ∧ t.findJob p.job = none ∧
      (∀ x, x ∈ t.jobs ↔ x ∈ s.jobs ∧ x.id ≠ p.job) ∧ t.Answered c .ok (s.perPlane j)) ∧
    (s.AtHead 0x0205 p c → j.st.isRunning = true → j.closing = none → Runs (.jobClose p) s fun t =>
      ∃ j', t.findJob p.job = some j' ∧ j'.st = .fenced ∧ j'.closing = some c.id ∧ j'.fcause = 2) ∧
    (s.AtHead 0x0205 p c → j.st = .reclaimed ∨ j.st = .fenced → j.closing = none → Runs (.jobClose p) s fun t =>
      ∃ j', t.findJob p.job = some j' ∧ j' = { j with closing := some c.id }) ∧
    (s.AtHead 0x0205 p c → j.closing ≠ none → Runs (.jobClose p) s fun t => t = { s with host := t.host } ∧ t.Answered c .param []) ∧
    (c ∈ s.host.held → (∀ o ∈ s.host.held, o.id = c.id → o = c) → j.closing = some c.id → j.ended = true →
      (∀ k pj, s.pjob k p.job = some pj → pj.fs = .fenced ∨ pj.fs = .reclaimed) →
      (∀ k, ∀ x ∈ (s.plane k).cmdIn, x.pkt.job ≠ p.job) → Runs (.jobCloseReleased p.job) s fun t =>
        t.findJob p.job = none ∧ (∀ x, x ∈ t.jobs ↔ x ∈ s.jobs ∧ x.id ≠ p.job) ∧ t.Answered c .ok (s.perPlane j))) ∧
  (∀ (p : Packet) (c : Held) (s : State), s.AtHead 0x0207 p c →
    (∀ j, s.findJob p.job = some j → j.st = .running → j.closing = none → j.hdr.serving = false → fieldAt p.params 0 4 ≤ 60000 →
      Runs (.reclaim p) s fun t =>
        t = { s with host := t.host, jobs := t.jobs, planes := t.planes } ∧ t.Answered c .ok [] ∧
        (∃ j' r, t.findJob p.job = some j' ∧ j' = { j with st := .reclaiming, reclaim := some r, reclaimTaken := [] } ∧
          r.deadlineMs = (if fieldAt p.params 0 4 = 0 then 45000 else fieldAt p.params 0 4)) ∧
        ∀ k, t.plane k = { s.plane k with
          cmdIn := (s.plane k).cmdIn ++
            if k ∈ s.heldPlanes j ∧ (s.plane k).cmdRoom = true then [{ held := c.id, pkt := c.pkt }] else [] }) ∧
    (∀ j r, s.findJob p.job = some j → j.st = .reclaiming → j.closing = none → j.hdr.serving = false → fieldAt p.params 0 4 ≤ 60000 →
      j.reclaim = some r → Runs (.reclaim p) s fun t =>
        t = { s with host := t.host, jobs := t.jobs } ∧ t.Answered c .ok [] ∧
        ∃ r', t.findJob p.job = some { j with reclaim := some r' } ∧ r'.at' ≤ r.at' ∧
          (r' ≠ r → r'.deadlineMs = (if fieldAt p.params 0 4 = 0 then 45000 else fieldAt p.params 0 4))) ∧
    (60000 < fieldAt p.params 0 4 → Runs (.reclaim p) s fun t => t = { s with host := t.host } ∧ t.Answered c .param []) ∧
    (fieldAt p.params 0 4 ≤ 60000 → s.findJob p.job = none → Runs (.reclaim p) s fun t =>
      t = { s with host := t.host } ∧ t.Answered c .nojob []) ∧
    (∀ j, fieldAt p.params 0 4 ≤ 60000 → s.findJob p.job = some j → j.st = .defining ∨ j.closing ≠ none → Runs (.reclaim p) s fun t =>
      t = { s with host := t.host } ∧ t.Answered c .nojob []) ∧
    (∀ j, fieldAt p.params 0 4 ≤ 60000 → s.findJob p.job = some j → j.st = .reclaimed ∨ j.st = .fenced → j.closing = none →
      j.hdr.serving = false → Runs (.reclaim p) s fun t => t = { s with host := t.host } ∧ t.Answered c .ok []) ∧
    (∀ j, fieldAt p.params 0 4 ≤ 60000 → s.findJob p.job = some j → j.st ≠ .defining → j.closing = none → j.hdr.serving = true →
      Runs (.reclaim p) s fun t => t = { s with host := t.host } ∧ t.Answered c .partition []))

/-- The group commands (R153, R155): `GROUP_REFORM` of fenced members that leave the group not empty takes a second group record for the
members that remain and is answered at once, and is `PARAM` for a member that is not fenced; `MEMBER_FENCE` of members of the job records
them as fenced and goes to the job's planes, is `PARAM` for a number that names none, and `NOJOB` for a job that has ended or is not open. -/
def Obligations.GroupCommandsRecord : Prop :=
  ∀ (j : Job) (p : Packet) (c : Held) (s : State), s.findJob p.job = some j → j.id = p.job →
    let ms := (List.range 128).filter fun m => (fieldAt p.params 0 16).testBit m
    (s.AtHead 0x0301 p c → j.st.isRunning = true → j.reform = none →
      (∀ m ∈ ms, m < j.members.length ∧ m ∈ j.group ∧ m ∈ j.fencedM) → (∃ m ∈ j.group, m ∉ ms) → (∃ g < 1024, g ∉ s.groups) →
      Runs (.groupReform p) s fun t => t = { s with host := t.host, jobs := t.jobs, groups := t.groups, planes := t.planes } ∧
        t.Answered c .ok [] ∧ ∃ g, t.groups = g :: s.groups ∧ g ∉ s.groups ∧ g < 1024 ∧
          t.findJob p.job = some { j with reform := some (g, j.group.filter fun m => !ms.contains m) }) ∧
    (s.AtHead 0x0301 p c → j.st.isRunning = true → (∃ m ∈ ms, m ∉ j.fencedM) → Runs (.groupReform p) s fun t =>
      t = { s with host := t.host } ∧ t.Answered c .param []) ∧
    (s.AtHead 0x0302 p c → j.st.isActive = true → (∀ m ∈ ms, m < j.members.length) → s.Serving (planesOf j.hdr.planes.toNat) →
      Runs (.memberFence p) s fun t => t = { s with host := t.host, jobs := t.jobs, planes := t.planes } ∧
        s.HandedTo t c (planesOf j.hdr.planes.toNat) ∧
        ∃ j', t.findJob p.job = some j' ∧ j' = { j with fencedM := j'.fencedM } ∧ ∀ m, m ∈ j'.fencedM ↔ m ∈ ms ∨ m ∈ j.fencedM) ∧
    (s.AtHead 0x0302 p c → j.st.isActive = true → (∃ m ∈ ms, j.members.length ≤ m) → Runs (.memberFence p) s fun t =>
      t = { s with host := t.host } ∧ t.Answered c .param []) ∧
    (s.AtHead 0x0302 p c → j.st.isActive = false → Runs (.memberFence p) s fun t =>
      t = { s with host := t.host } ∧ t.Answered c .nojob [])

/-- `OPT_SET` and `PREC_SET` (R72, R108, R301): in `LOADING`, with `FROM` 0, they go to the job's planes; while the job runs, with `FROM` at
least L + 2, the block waits for that step on every plane that holds the job.  A block that changes what the opening fixed, or lies
out of range, a smaller `FROM` while the job runs, a nonzero one in `LOADING`, a job in another state, and a `PREC_SET` of a job without the
KRONECKER kernel are `PARAM`.  `PREC_READ` returns the block in force, and is `PARAM` for a job without that kernel. -/
def Obligations.BlocksWaitForTheirStep : Prop :=
  ∀ (j : Job) (p : Packet) (c : Held) (s : State), s.findJob p.job = some j → j.id = p.job →
    let o := parseOpt (slice p.params 8 64)
    let b := parsePrec (slice p.params 8 32)
    let from' := fieldAt p.params 0 8
    let optOk := optRangeOk o = true ∧ o.fixedPart = j.hdr.opt.fixedPart
    let precOk := j.hdr.opt.kernel = 4 ∧ precRangeOk b = true ∧ b.block = j.hdr.prec.block
    let fromBad := (j.st = .loading ∧ from' ≠ 0) ∨ (j.st.isRunning = true ∧ (from' : Int) < j.lastComb + 2)
    (∀ op i, (op = 0x0501 ∧ i = .optSet p ∧ optOk) ∨ (op = 0x0503 ∧ i = .precSet p ∧ precOk) → s.AtHead op p c → j.st = .loading → from' = 0 →
      s.Serving (planesOf j.hdr.planes.toNat) → Runs i s fun t =>
        t = { s with host := t.host, planes := t.planes } ∧ s.HandedTo t c (planesOf j.hdr.planes.toNat)) ∧
    (∀ k pj, s.AtHead 0x0501 p c → j.st.isRunning = true → j.lastComb + 2 ≤ (from' : Int) → optOk →
      k ∈ planesOf j.hdr.planes.toNat → s.pjob k p.job = some pj → Runs (.optSet p) s fun t =>
        t = { s with host := t.host, planes := t.planes } ∧ t.Answered c .ok [] ∧
        t.pjob k p.job = some { pj with pendOpt := pj.pendOpt ++ [(from', o)] }) ∧
    (∀ k pj, s.AtHead 0x0503 p c → j.st.isRunning = true → j.lastComb + 2 ≤ (from' : Int) → precOk →
      k ∈ planesOf j.hdr.planes.toNat → s.pjob k p.job = some pj → Runs (.precSet p) s fun t =>
        t = { s with host := t.host, planes := t.planes } ∧ t.Answered c .ok [] ∧
        t.pjob k p.job = some { pj with pendPrec := pj.pendPrec ++ [(from', b)] }) ∧
    (s.AtHead 0x0501 p c → (j.st.isActive = false ∨ ¬optOk ∨ fromBad) → Runs (.optSet p) s fun t =>
      t = { s with host := t.host } ∧ t.Answered c .param []) ∧
    (s.AtHead 0x0503 p c → (j.st.isActive = false ∨ ¬precOk ∨ fromBad) → Runs (.precSet p) s fun t =>
      t = { s with host := t.host } ∧ t.Answered c .param []) ∧
    (s.AtHead 0x0504 p c → j.st.isOpen = true → j.hdr.opt.kernel = 4 → Runs (.precRead p) s fun t =>
      t = { s with host := t.host } ∧ t.Answered c .ok (precBytes (s.precNow j))) ∧
    (s.AtHead 0x0504 p c → j.hdr.opt.kernel ≠ 4 → Runs (.precRead p) s fun t =>
      t = { s with host := t.host } ∧ t.Answered c .param [])

/-! ### Synchronisation, reduction and result delivery -/

/-- Synchronisation objects (R156 to R158, R308): a frame's `ADD` and the commands `SYNC_ADD` and `SYNC_SET` at their apply point give the object
the saturating sum or the new value; a frame's wait whose operand is not met is held, with its member; a held wait is held no more once its
limit passes.
A plane that applies the loss of a member (R131, R155) takes the entry from its list, counts the member as fenced, and drops its waits. -/
def Obligations.ApplyPointEffects : Prop :=
  ((∀ (lane : DevLane) (f : RxFrame) (fr : Frame) (j : Job) (pj : PJob) (m : Nat) (s : State), s.Receives lane f [opSync] fr →
    let k := planeOf lane
    let u := s.landed lane f fr
    let obj := fieldAt fr.payload 2 2
    u.admitSender lane fr true = .ok (j, pj, m) → syncOk fr.payload j.hdr.syncn = true → obj < pj.syncs.length →
    (fieldAt fr.payload 4 1 = 1 → Runs (.syncFrame lane f) s fun t =>
      (t.syncValue k j.id obj).toNat = min ((u.syncValue k j.id obj).toNat + fieldAt fr.payload 8 8) (2 ^ 64 - 1)) ∧
    (fieldAt fr.payload 4 1 = 2 → (u.syncValue k j.id obj).toNat < fieldAt fr.payload 8 8 → (u.plane k).waitRoom j.id = true →
      Runs (.syncFrame lane f) s fun t => t = { u with planes := t.planes } ∧
        ∃ w, (t.plane k).waits = (u.plane k).waits ++ [w] ∧ w.job = j.id ∧ w.obj = obj ∧ w.operand.toNat = fieldAt fr.payload 8 8 ∧
          w.member = some m ∧ w.cmd = none)) ∧
  (∀ (k : PlaneIx) (job : Nat) (c : PlaneCmd) (pj : PJob) (s : State),
    (s.plane k).applyQ.find? (fun x => x.pkt.job == job && x.pkt.opcode != 0x0302) = some c → s.pjob k job = some pj →
    fieldAt c.pkt.params 0 2 < pj.syncs.length →
    (c.pkt.opcode = 0x0303 → Runs (.commandApplyPoint k job) s fun t =>
      (t.syncValue k job (fieldAt c.pkt.params 0 2)).toNat =
        min ((s.syncValue k job (fieldAt c.pkt.params 0 2)).toNat + fieldAt c.pkt.params 8 8) (2 ^ 64 - 1) ∧
      (t.plane k).applyQ = (s.plane k).applyQ.filter (·.held != c.held)) ∧
    (c.pkt.opcode = 0x0304 → Runs (.commandApplyPoint k job) s fun t =>
      (t.syncValue k job (fieldAt c.pkt.params 0 2)).toNat = fieldAt c.pkt.params 8 8 ∧
      (t.plane k).applyQ = (s.plane k).applyQ.filter (·.held != c.held))) ∧
  (∀ (k : PlaneIx) (id : Nat) (w : Wait) (s : State), (s.plane k).waits.find? (·.id == id) = some w →
    Runs (.syncWaitTimeout k id) s fun t => (t.plane k).waits = (s.plane k).waits.filter (·.id != id))) ∧
  (∀ (k : PlaneIx) (job m : Nat) (j : Job) (pj : PJob) (s : State), s.findJob job = some j → s.pjob k job = some pj → m ∉ pj.fenced →
    (∀ c ∈ (s.plane k).applyQ, c.pkt.job = job → c.pkt.opcode ≠ 0x0302) → (s.plane k).fenceQ.find? (·.1 == job) = some (job, m) →
    Runs (.memberFenceApply k job) s fun t => (job, m) ∉ (t.plane k).fenceQ ∧
      (∃ pj', t.pjob k job = some pj' ∧ pj'.fenced = m :: pj.fenced) ∧
      ∀ w ∈ (t.plane k).waits, ¬ (w.job = job ∧ w.member = some m))

/-- The adder tree finishes a chunk set that is not the last of its share (R53, R166): its sums stand in the slot in the elements' order, and
its contributions are gone.
The running sums of a chunk set do not depend on the order in which its contributions came (R53: fixed-order reduction). -/
def Obligations.ChunkSetsAreAddedInOrder : Prop :=
  (∀ (k : PlaneIx) (cs : ChunkSet) (j : Job) (pj : PJob) (d : BucketDesc) (h : Share) (c' p' : Nat) (s : State),
    (s.plane k).adder = some cs → s.findJob cs.job = some j → s.pjob k cs.job = some pj → j.bucketDesc cs.bucket = some d →
    d.bucket = cs.bucket → pj.findShare cs.bucket = some h → h.ready (s.localGroup j pj) cs.chunk cs.pass = true →
    (∀ x ∈ h.contribs, x.chunk = cs.chunk → x.pass = cs.pass → x.later = .none) →
    c' ∈ j.planeChunks k d → p' < j.hdr.passes → (c', p') ≠ (cs.chunk, cs.pass) → (c', p') ∉ h.added →
    let r := d.chunkRange cs.chunk
    Runs (.chunkSetDone k {}) s fun t => ∃ h', t.share k cs.job cs.bucket = some h' ∧ (cs.chunk, cs.pass) ∈ h'.added ∧
      (∀ (i : Nat) (_ : i < r.2), h'.sums.lookup (r.1 + i) =
        ((frWords (addChunk h (s.localGroup j pj) r.1 r.2 cs.chunk cs.pass))[i]?)) ∧
      (∀ x ∈ h'.contribs, ¬ (x.chunk = cs.chunk ∧ x.pass = cs.pass)) ∧ h'.poisoned = h.poisoned) ∧
  (∀ (h h' : Share) (ms : List Nat) (off n c p : Nat), h'.sums = h.sums → h'.contribs.Perm h.contribs →
    h.contribs.Pairwise (fun x y => ¬ (x.chunk = y.chunk ∧ x.pass = y.pass ∧ x.member = y.member)) →
    addChunk h' ms off n c p = addChunk h ms off n c p)

/-- A contribution of the step in progress that passes the rows of R52 is kept with its values until its chunk set is complete, where its
bucket is open; one already present, or whose bucket has completed, is counted in `DUPCHUNK` and discarded, and the share stays as it was (row
10 of R52); one of the next step is held (R17), and one of any other step counted as stale and discarded (R51). -/
def Obligations.GradientFrameIsAdmitted : Prop :=
  ∀ (lane : DevLane) (f : RxFrame) (fr : Frame) (j : Job) (pj : PJob) (m : Nat) (d : BucketDesc) (s : State),
    s.Receives lane f [opGrad] fr →
    let k := planeOf lane
    let u := s.landed lane f fr
    let p := fr.hdr.comma % 64
    u.admitSender lane fr true = .ok (j, pj, m) → u.pjob k j.id = some pj → j.bucketDesc fr.hdr.bucket = some d →
    d.bucket = fr.hdr.bucket → j.chunkOk k d fr = true → fmtFloat fr.hdr.fmt = true →
    (∀ h, stepOf pj fr.hdr.comma = .current → p < j.hdr.passes → pj.findShare d.bucket = some h → h.commaDone = false →
      h.present fr.hdr.chunk p m = false → h.isOpen = true → Runs (.gradFrame lane f) s fun t =>
        ∃ h', t.share k j.id d.bucket = some h' ∧
          h'.contribs.map (fun x => (x.chunk, x.pass, x.member, x.vals)) =
            h.contribs.map (fun x => (x.chunk, x.pass, x.member, x.vals)) ++
              [(fr.hdr.chunk, p, m, decodeVals fr.hdr.fmt (d.chunkRange fr.hdr.chunk).2 fr.payload)] ∧
          h'.sums = h.sums ∧ h'.added = h.added) ∧
    (∀ h, stepOf pj fr.hdr.comma = .current → p < j.hdr.passes → pj.findShare d.bucket = some h →
      h.commaDone = true ∨ h.present fr.hdr.chunk p m = true → Runs (.gradFrame lane f) s fun t => t = { u with planes := t.planes } ∧
        t.share k j.id d.bucket = some h ∧
        ctrGet (t.plane k).ctrs .frmDrop = satAdd 32 (ctrGet (u.plane k).ctrs .frmDrop) 1 ∧
        ∃ pj', t.pjob k j.id = some pj' ∧ pj' = { pj with ctrs := pj'.ctrs } ∧
          ctrGet pj'.ctrs .dupChunk = satAdd 32 (ctrGet pj.ctrs .dupChunk) 1) ∧
    (stepOf pj fr.hdr.comma = .next → Runs (.gradFrame lane f) s fun t => t = { u with planes := t.planes } ∧
      ∃ x, (t.plane k).held = (u.plane k).held ++ [x] ∧ x.frame = fr ∧ x.lane = lane ∧ x.serve = false) ∧
    (stepOf pj fr.hdr.comma = .stale → Runs (.gradFrame lane f) s fun t => t = { u with planes := t.planes } ∧
      ctrGet (t.plane k).ctrs .frmDrop = satAdd 32 (ctrGet (u.plane k).ctrs .frmDrop) 1 ∧
      ∃ pj', t.pjob k j.id = some pj' ∧ pj' = { pj with ctrs := pj'.ctrs } ∧
        ctrGet pj'.ctrs .frmStale = satAdd 32 (ctrGet pj.ctrs .frmStale) 1)

/-- Frames between devices (R55, R61, R164, R185): a device partial of the step in progress is kept with its values; a `FINAL` completion frame
releases what a plane without a copy of the bucket held; a multicast on a peer lane goes out on the lane of every live member here, in its
delivery form, but a result for a member without a descriptor waits for it (in the frame buffer: the model's choice, notes/assumptions 41); a
unicast frame goes out to the member it names. -/
def Obligations.PeerFramesTakeEffect : Prop :=
  ∀ (lane : DevLane) (f : RxFrame) (fr : Frame) (j : Job) (pj : PJob) (s : State),
    let k := planeOf lane
    let u := s.landed lane f fr
    u.openOn k fr.hdr.job = some (j, pj) → j.id = fr.hdr.job → jobEnded j pj = false →
    (∀ d h, s.Receives lane f [opPartial] fr → j.bucketDesc fr.hdr.bucket = some d → d.bucket = fr.hdr.bucket →
      pj.findShare fr.hdr.bucket = some h → h.role ≠ .remote → s.farDev lane ∈ j.ringDevs pj → j.partialOk k d fr = true →
      fr.hdr.fmt = 0 → stepOf pj fr.hdr.comma = .current → h.commaDone = false → h.isOpen = true → h.bst ≠ .awaiting →
      (∀ p ∈ h.partials, ¬ (p.dev = s.farDev lane ∧ p.off = fr.hdr.elemoff)) → Runs (.partialFrame lane f) s fun t =>
        ∃ h' x, t.share k j.id fr.hdr.bucket = some h' ∧ h'.partials = h.partials ++ [x] ∧ x.dev = s.farDev lane ∧
          x.off = fr.hdr.elemoff ∧ x.chunk = fr.hdr.chunk ∧
          let c := d.chunkRange fr.hdr.chunk
          x.vals = decodeVals 0 (min 2048 (c.2 - (fr.hdr.elemoff - c.1))) fr.payload) ∧
    (∀ h, s.Receives lane f [opDone] fr → fr.hdr.final = true → fr.hdr.uni = false → pj.findShare fr.hdr.bucket = some h → h.role = .remote →
      h.commaDone = false → stepOf pj fr.hdr.comma = .current → (∀ c ∈ (u.plane k).applyQ, c.pkt.job ≠ j.id) →
      (∀ x ∈ (u.plane k).fenceQ, x.1 ≠ j.id) → Runs (.doneFrame lane f) s fun t =>
        ∃ h', t.share k j.id fr.hdr.bucket = some h' ∧ h'.commaDone = true ∧ h'.slots = [] ∧ h'.bst = .closed ∧ h'.contribs = []) ∧
    (s.Receives lane f [opParm, opRslt] fr → fr.hdr.fmt ≤ 1 → fr.hdr.uni = false →
      let can (m : Nat) := fr.hdr.op ≠ opRslt ∨ PJob.canTake j pj fr.hdr.bucket m = true
      (∀ l m, ((pj.liveMembers.filter fun m => j.memberDev m == s.bidx && (fr.hdr.op != opRslt || PJob.canTake j pj fr.hdr.bucket m)).find?
          fun m => j.memberLane k m == l) = some m → u.MemberUp k l → Runs (.peerFrameReplicate lane f) s fun t =>
        ∃ x ∈ t.outgoing k l, x.frame = deliver j pj m fr ∧ x.job = j.id) ∧
      (∀ m, m ∈ u.localLive j pj → ¬can m → Runs (.peerFrameReplicate lane f) s fun t =>
        ∃ x ∈ (t.plane k).held, x.from' = some m ∧ x.frame.payload = fr.payload ∧ x.frame.hdr.op = opRslt)) ∧
    (∀ m, s.Receives lane f [opParm, opRslt, opStatus] fr → (fr.hdr.op ≠ opStatus → fr.hdr.fmt ≤ 1) → fr.hdr.uni = true →
      pj.group[fr.hdr.memb]? = some m → j.memberDev m = s.bidx → m ∉ pj.fenced →
      (fr.hdr.op = opRslt → PJob.canTake j pj fr.hdr.bucket m = true) → u.MemberUp k (j.memberLane k m) →
      Runs (.peerFrameReplicate lane f) s fun t =>
        ∃ x ∈ t.outgoing k (j.memberLane k m), x.frame = deliver j pj m fr ∧ x.job = j.id)

/-- A pass's bucket timer that expires counts in `REDTMO` and counts its consecutive expiries (R62).
Gathers (R124, R125, R127): a request for the current generation of a layer kept here waits for the coalescing window of its multicast, and
is counted; at the end of the window the multicast starts: the frames of the layer's shares go out to the members that asked, and nothing
waits any more.
Early publication (R99): a share whose kernel has run, on a plane without overflow or poison in the step, is published once: its frames go
out tentative, under the subjunctive number, to every live member here. -/
def Obligations.TimersGathersAndPublication : Prop :=
  (∀ (k : PlaneIx) (id b pass : Nat) (j : Job) (pj : PJob) (d : BucketDesc) (h : Share) (x : PassTimer) (s : State),
    s.openOn k id = some (j, pj) → j.bucketDesc b = some d → jobEnded j pj = false → pj.findShare b = some h → h.isOpen = true →
    h.timers.find? (·.pass == pass) = some x → Runs (.bucketTimerExpiry k id b pass) s fun t =>
      ∃ pj' h' x', t.pjob k id = some pj' ∧ ctrGet pj'.ctrs .redTmo = satAdd 32 (ctrGet pj.ctrs .redTmo) 1 ∧
        pj'.findShare b = some h' ∧ h'.timers.find? (·.pass == pass) = some x' ∧ x'.expiries = x.expiries + 1 ∧ h'.bst = h.bst ∧
        (x.expiries = 3 → ∃ r ∈ t.host.reports, r.opcode = 0xF001 ∧ r.job = id)) ∧
  ((∀ (lane : DevLane) (f : RxFrame) (fr : Frame) (j : Job) (pj : PJob) (m : Nat) (s : State), s.Receives lane f [opGreq] fr →
    let k := planeOf lane
    let u := s.landed lane f fr
    let q := parseGreq fr.payload
    u.admitSender lane fr true = .ok (j, pj, m) → u.pjob k j.id = some pj → pj.opt.kernel ≠ 0 → pj.fs = .run → q.rsvdOk = true →
    q.notice = false → q.part = false → q.reg = false → j.greqBuckets k q ≠ [] →
    (∀ d ∈ j.greqBuckets k q, s.homeDev j d.bucket = s.bidx) →
    (∀ x ∈ j.layerShares pj q.layer none, x.2.lost = false ∧ x.2.halted = false ∧ s.bidx ∉ x.2.expelled) →
    q.gen = pj.orec.gen → q.gen ≤ pj.orec.nextgen → q.gen ≠ 0xFFFFFFFF → q.gen ≠ pj.subgen →
    (∀ g ∈ (u.plane k).gathers, ¬ (g.job = j.id ∧ g.layer = q.layer ∧ g.gen = q.gen)) →
    Runs (.greqFrame lane f) s fun t => t = { u with planes := t.planes } ∧
      (t.plane k).gathers = (u.plane k).gathers ++
        [{ job := j.id, layer := q.layer, gen := q.gen, members := [m], reqs := [(m, lane, fr)] }] ∧
      ∃ pj', t.pjob k j.id = some pj' ∧ ctrGet pj'.ctrs .gathers = satAdd 32 (ctrGet pj.ctrs .gathers) 1) ∧
  (∀ (k : PlaneIx) (job layer : Nat) (g : Gather) (s : State), (s.plane k).qPublish.stalled 64 = false →
    ((s.plane k).gathers.find? fun g => g.job == job && g.layer == layer) = some g →
    Runs (.gatherWindowExpiry k job layer) s fun t => (t.plane k).gathers = (s.plane k).gathers.erase g ∧
      ∀ j pj d h l m x, s.openOn k job = some (j, pj) → (d, h) ∈ j.layerShares pj layer none →
        x ∈ shareFrames j k d { op := opParm, job := job, gen := g.gen } (shareBits pj d h g.gen g.retained).1 (fun _ => true) →
        ((g.members.filter fun m => j.memberDev m == s.bidx).find? fun m => j.memberLane k m == l) = some m → s.MemberUp k l →
        ∃ y ∈ t.outgoing k l, y.frame = deliver j pj m x)) ∧
  (∀ (k : PlaneIx) (id b : Nat) (j : Job) (pj : PJob) (h : Share) (d : BucketDesc) (s : State),
    s.openOn k id = some (j, pj) → pj.findShare b = some h → j.bucketDesc b = some d →
    (pj.opt.earlypub = true → jobEnded j pj = false → h.role = .home → h.kernelRan = true → h.published = false → h.poisoned = false →
      pj.stepFlags.overflow = false → pj.stepFlags.poisoned = false → (pj.fs = .run ∨ pj.fs = .await) →
      (s.plane k).qPublish.stalled 64 = false →
      Runs (.earlyPublication k id b) s fun t => (∃ h', t.share k id b = some h' ∧ h' = { h with published := true }) ∧
        ∀ l m x, x ∈ shareFrames j k d { op := opParm, job := id, tent := true, gen := pj.subgen }
            (publish d.outFmt pj.opt.stochrnd (h.sub.getD 0 []) h.subImg).1 (fun _ => true) →
          ((pj.liveMembers.filter fun m => j.memberDev m == s.bidx).find? fun m => j.memberLane k m == l) = some m → s.MemberUp k l →
          ∃ y ∈ t.outgoing k l, y.frame = deliver j pj m x) ∧
    (pj.opt.earlypub = false ∨ h.published = true ∨ h.poisoned = true ∨ h.kernelRan = false ∨ pj.stepFlags.overflow = true ∨
      pj.stepFlags.poisoned = true →
      Runs (.earlyPublication k id b) s fun t => t = s))

/-- Result retention (R135 to R138): the first waiting result that fits in the retention buffer, or else in its job's area in HBM, is admitted,
its bucket's slots are released and it goes out to the members here that can take it; one that fits nowhere waits; an acknowledgement
takes its member from those that owe one; an expiry of the acknowledgement timer counts and sends the result again to the member, and the
fourth in a row is reported. -/
def Obligations.ResultsAreRetainedUntilAcknowledged : Prop :=
  (∀ (k : PlaneIx) (j : Job) (pj : PJob) (r : Retained) (h : Share) (d : BucketDesc) (s : State),
    ((s.plane k).retained.find? fun r => !r.admitted) = some r → s.openOn k r.job = some (j, pj) → j.id = r.job →
    j.bucketDesc r.bucket = some d → pj.findShare r.bucket = some h →
    let buffer := (s.plane k).retBufUsed + r.bytes + 256 * (s.plane k).unitsOut 32768 32768 ≤ 8388608
    let area := (s.plane k).retAreaUsed j.id + r.bytes ≤ j.hdr.retq * 65536
    (∀ hbm, (hbm = false ∧ buffer) ∨ (hbm = true ∧ ¬buffer ∧ area) → Runs (.resultRetentionAdmit k) s fun t =>
      (∃ x ∈ (t.plane k).retained, x.job = r.job ∧ x.bucket = r.bucket ∧ x.admitted = true ∧ x.inHbm = hbm ∧
        x.owes = pj.liveMembers.map fun m => (m, 0)) ∧
      (∃ h', t.share k r.job r.bucket = some h' ∧ h'.bst = .closed ∧ h'.slots = [] ∧ h'.spilled = 0) ∧
      ∀ l m x, x ∈ r.frames j k d (fun _ => true) →
        ((pj.liveMembers.filter fun m => j.memberDev m == s.bidx && PJob.canTake j pj r.bucket m).find? fun m => j.memberLane k m == l) = some m →
        s.MemberUp k l → ∃ y ∈ t.outgoing k l, y.frame = deliver j pj m x) ∧
    (¬buffer → ¬area → Runs (.resultRetentionAdmit k) s fun t => t = s)) ∧
  (∀ (lane : DevLane) (f : RxFrame) (fr : Frame) (j : Job) (pj : PJob) (m : Nat) (r : Retained) (s : State), s.Receives lane f [opAck] fr →
    let k := planeOf lane
    let u := s.landed lane f fr
    u.admitSender lane fr true = .ok (j, pj, m) → s.homeDev j fr.hdr.bucket = s.bidx → u.resultFor k pj fr true = some r →
    (∃ n, (m, n) ∈ r.owes) →
    let r' := { r with owes := r.owes.filter (·.1 != m), needDesc := r.needDesc.filter (· != m), reported := r.reported.filter (· != m) }
    Runs (.ackFrame lane f) s fun t =>
      (r'.owes ≠ [] → r' ∈ (t.plane k).retained) ∧ (r'.owes = [] → r'.needDesc = [] → r' ∉ (t.plane k).retained)) ∧
  (∀ (k : PlaneIx) (id b m n : Nat) (j : Job) (pj : PJob) (r : Retained) (d : BucketDesc) (s : State), s.openOn k id = some (j, pj) →
    ((s.plane k).retained.find? fun r => r.job == id && r.bucket == b && r.admitted) = some r → j.bucketDesc b = some d →
    r.owes.lookup m = some n → m ∉ r.needDesc → Runs (.ackTimeout k id b m) s fun t =>
      (∃ x ∈ (t.plane k).retained, x.job = r.job ∧ x.bucket = r.bucket ∧ x.owes.lookup m = some (n + 1)) ∧
      (∃ pj', t.pjob k id = some pj' ∧ ctrGet pj'.ctrs .retSend = satAdd 32 (ctrGet pj.ctrs .retSend) 1) ∧
      (j.memberDev m = s.bidx → s.MemberUp k (j.memberLane k m) → ∀ x ∈ r.frames j k d (fun _ => true),
        ∃ y ∈ t.outgoing k (j.memberLane k m), y.frame = deliver j pj m x) ∧
      (pj.ackRuns.lookup m = some 3 → ∃ x ∈ t.host.reports, x.opcode = 0xF001 ∧ x.job = id))

/-- A re-delivery request for a chunk of a retained result of the current step is answered to its member and counted (R137), a staging read
answered and not counted (R165); either is refused with `POISONED` where the bucket is poisoned and with `TIMEOUT` where no result is
retained; a descriptor frame registers its address and key for its member and bucket (R175). -/
def Obligations.RequestsForResultsAnswer : Prop :=
  ∀ (lane : DevLane) (f : RxFrame) (fr : Frame) (j : Job) (pj : PJob) (m : Nat) (s : State),
    let k := planeOf lane
    let u := s.landed lane f fr
    u.admitSender lane fr true = .ok (j, pj, m) → u.pjob k j.id = some pj → u.findJob fr.hdr.job = some j →
    let poisoned := ((pj.findShare fr.hdr.bucket).map (·.poisoned)).getD false
    let answered (i : Instr) (stepped : Bool) (P : PJob → Prop) := ∀ r d x, poisoned = false → u.resultFor k pj fr stepped = some r →
      j.bucketDesc fr.hdr.bucket = some d → x ∈ r.frames j k d (fun c => c == fr.hdr.chunk) → j.memberDev m = s.bidx →
      u.MemberUp k (j.memberLane k m) → Runs i s fun t =>
        (∃ y ∈ t.outgoing k (j.memberLane k m), y.frame = deliver j pj m x) ∧
        ∃ pj', t.pjob k j.id = some pj' ∧ P pj'
    let refused (i : Instr) (st : Status) := s.isPeer lane = false → Runs i s fun t => t = { u with planes := t.planes } ∧
      t.pjob k j.id = some pj ∧ t.StatusSent lane fr st ∧
      ctrGet (t.plane k).ctrs .frmDrop = satAdd 32 (ctrGet (u.plane k).ctrs .frmDrop) 1
    (s.Receives lane f [opRdreq] fr → s.homeDev j fr.hdr.bucket = s.bidx → j.chunkElsewhere k fr = false →
      fr.hdr.comma / 64 = pj.orec.step % 1024 →
      answered (.rdreqFrame lane f 0) true (fun pj' => ctrGet pj'.ctrs .resend = satAdd 32 (ctrGet pj.ctrs .resend) 1) ∧
      (poisoned = true → refused (.rdreqFrame lane f 0) .poisoned) ∧
      (poisoned = false → u.resultFor k pj fr true = none → refused (.rdreqFrame lane f 0) .timeout)) ∧
    (s.Receives lane f [opSread] fr → j.hdr.staging = true → j.chunkElsewhere k fr = false →
      answered (.sreadFrame lane f) false (fun pj' => pj'.ctrs = pj.ctrs) ∧
      (poisoned = true → refused (.sreadFrame lane f) .poisoned) ∧
      (poisoned = false → u.resultFor k pj fr false = none → refused (.sreadFrame lane f) .timeout)) ∧
    (s.Receives lane f [opDesc] fr → (j.bucketDesc (fieldAt fr.payload 2 2)).isSome = true → fieldAt fr.payload 8 8 % 64 = 0 →
      zeroAt fr.payload 4 4 = true → zeroAt fr.payload 0x14 44 = true → j.hdr.staging = false → Runs (.descFrame lane f) s fun t =>
        ∃ pj', t.pjob k j.id = some pj' ∧
          (pj'.descs.find? fun d => d.member == m && d.bucket == fieldAt fr.payload 2 2) =
            some { member := m, bucket := fieldAt fr.payload 2 2, addr := fieldAt fr.payload 8 8, key := fieldAt fr.payload 0x10 4 })

/-! ### Checkpoint reads, loads, digests and the copies of a board -/

/-- A checkpoint read whose frames have all left (R163, R278): its plane answers `OK` with `GEN` and `BYTES`, or `CHECK` where it keeps its
copy of a share as expelled, and the read is over.
A `LOAD` frame of R76 that passes every row, in a job that is not under restore: its values stand as master words from their place in the
share, and in the image of the copy in E8M7 (R75); no other array of the copy changes, and a member of this device gets `OK`. -/
def Obligations.CheckpointsReadAndLoad : Prop :=
  (∀ (k : PlaneIx) (x : CkptJob) (o : Held) (j : Job) (pj : PJob) (s : State), (s.plane k).ckpts = [x] → x.started = true →
    s.readSent k x = true → s.findJob x.job = some j → s.pjob k x.job = some pj →
    (∀ q, q ≠ k → ∀ y ∈ (s.plane q).ckpts, y.job ≠ x.job) → o ∈ s.host.held → o.id = x.held → o.owes = [k.val] → o.answers = [] →
    (∀ y ∈ s.host.held, y.id = o.id → y = o) → o.pkt.opcode = 0x0208 →
    let sec := leBytes 4 x.gen ++ zeros 4 ++ leBytes 8 x.bytes
    (x.isLog = true ∨ (∀ h ∈ pj.shares, h.kept = true → s.bidx ∉ h.expelled) → Runs (.ckptReadDone x.job) s fun t =>
      t.Answered o .ok (statusBlock k .ok ++ sec) ∧ (t.plane k).ckpts = []) ∧
    (x.isLog = false → (∃ h ∈ pj.shares, h.kept = true ∧ s.bidx ∈ h.expelled) → Runs (.ckptReadDone x.job) s fun t =>
      t.Answered o .check (statusBlock k .check ++ sec) ∧ (t.plane k).ckpts = [])) ∧
  (∀ (lane : DevLane) (f : RxFrame) (fr : Frame) (j : Job) (pj : PJob) (m : Nat) (d : BucketDesc) (h : Share) (ws : List W32)
    (as : List (List W32)) (s : State), s.Receives lane f [opLoad] fr →
    let k := planeOf lane
    let u := s.landed lane f fr
    u.admitSender lane fr false = .ok (j, pj, m) → s.homeDev j fr.hdr.bucket = s.bidx → j.id = fr.hdr.job → j.st = .loading →
    pj.fs = .loading → pj.restore = false → pj.opt.kernel ≠ 0 → fr.hdr.comma = 0 → j.bucketDesc fr.hdr.bucket = some d →
    d.bucket = fr.hdr.bucket → pj.findShare d.bucket = some h → h.role = .home → j.chunkOk k d fr = true →
    fmtFloat fr.hdr.fmt = true → h.ind = ws :: as →
    let r := d.chunkRange fr.hdr.chunk
    Runs (.loadFrame lane f) s fun t => ∃ h', t.share k j.id d.bucket = some h' ∧
      h'.ind = writeWords ws (h.posOf r.1) (decodeVals fr.hdr.fmt r.2 fr.payload) :: as ∧ h'.sub = h.sub ∧ h'.kblocks = h.kblocks ∧
      h'.indImg = (writeImage h.indImg (h.posOf r.1) (decodeVals fr.hdr.fmt r.2 fr.payload)).1 ∧
      (s.isPeer lane = false → t.StatusSent lane fr .ok))

/-- `CKPT` frames at a mirror in the format of what they carry (R30, R261, R268): a matrix frame is kept with its block; a first array of a copy
begins a rebuild of it here, with the sending device as its source, and the copy counts as expelled until the rebuild is complete.  One in
another format, an integer one among them, is answered `FORMAT` and nothing of it is kept (R30, R32).
Copies of a `NOTICE` or `RETRACT` (R187): while one is missing on a lane of the list that is up, what has come is held in the frame
buffer; one operation timeout after the first, the frame goes to every member here and the wait is counted in `PEERWAIT`. -/
def Obligations.CopiesOfABoardAreKept : Prop :=
  (∀ (lane : DevLane) (f : RxFrame) (fr : Frame) (j : Job) (pj : PJob) (h : Share) (s : State), s.Receives lane f [opCkpt] fr →
    let k := planeOf lane
    let u := s.landed lane f fr
    let edge := blockEdge pj.prec
    u.openOn k fr.hdr.job = some (j, pj) → j.id = fr.hdr.job → jobEnded j pj = false → pj.findShare fr.hdr.bucket = some h →
    h.role = .mirror → s.farDev lane ∈ s.keepers j fr.hdr.bucket → h.rebuilds = [] → fr.hdr.uni = false →
    (pj.ckptFmtOk fr = false → Runs (.ckptFrame lane f) s fun t => t.share k j.id fr.hdr.bucket = some h ∧
      (t.plane k).astat = (u.plane k).astat ||| fFmtRej) ∧
    (∀ q, pj.ckptFmtOk fr = true → matrixCode fr.hdr.comma = true → h.kblocks[fr.hdr.chunk]? = some q → fr.hdr.elemoff < edge * edge →
      Runs (.ckptFrame lane f) s fun t => ∃ h', t.share k j.id fr.hdr.bucket = some h' ∧
        h'.kblocks[fr.hdr.chunk]? = some { q with recv := q.recv ++ [ckptArr fr (edge * edge)] } ∧ h'.rebuilds = []) ∧
    (pj.ckptFmtOk fr = true → arrayCode fr.hdr.comma = true → fr.hdr.chunk = 0 → fr.hdr.elemoff < h.elems.length → 2 ≤ wordsOf pj.opt →
      Runs (.ckptFrame lane f) s fun t => ∃ h' r, t.share k j.id fr.hdr.bucket = some h' ∧ h'.rebuilds = [r] ∧
        r.srcDev = s.farDev lane ∧ r.target = s.bidx ∧ r.started = true ∧ r.inStep = false ∧ r.gen = fr.hdr.gen ∧ r.recv = [ckptArr fr h.elems.length] ∧
        s.bidx ∈ h'.expelled ∧ h'.copyA = h.copyA ∧ h'.copyB = h.copyB)) ∧
  ((∀ (lane : DevLane) (f : RxFrame) (fr : Frame) (j : Job) (pj : PJob) (l : Nat) (s : State), s.Receives lane f [opNotice, opRetract] fr →
    let k := planeOf lane
    let u := s.landed lane f fr
    u.openOn k fr.hdr.job = some (j, pj) → j.id = fr.hdr.job → fr.hdr.uni = false →
    (∀ n ∈ (u.plane k).notices, ¬ (n.job = j.id ∧ n.src = s.farDev lane ∧ n.op = fr.hdr.op ∧ n.frame.payload = fr.payload)) →
    l ∈ j.peerLanes k (s.farDev lane) → l ≠ (laneIn lane).val → u.deadPeer k j.id (Fin.ofNat 16 l) = false →
    (u.lane (devLane k (Fin.ofNat 16 l))).st = .up → Runs (.noticeCopyFrame lane f) s fun t => t = { u with planes := t.planes } ∧
      ∃ c, (t.plane k).notices = (u.plane k).notices ++ [c] ∧ c.job = j.id ∧ c.src = s.farDev lane ∧ c.op = fr.hdr.op ∧ c.frame = fr ∧
        c.lanes = [(laneIn lane).val] ∧ c.done = false ∧ c.cells = cellsOf fr) ∧
  (∀ (k : PlaneIx) (job src : Nat) (c : NoticeCopy) (j : Job) (pj : PJob) (s : State),
    (s.plane k).notices.find? (fun n => n.job == job && n.src == src && !n.done) = some c → s.findJob c.job = some j →
    s.pjob k c.job = some pj → Runs (.noticeCopyTimeout k job src) s fun t =>
      ctrGet (t.plane k).ctrs .peerWait = satAdd 32 (ctrGet (s.plane k).ctrs .peerWait) 1 ∧
      ∀ l m, (pj.liveMembers.filter fun m => j.memberDev m == s.bidx).find? (fun m => j.memberLane k m == l) = some m →
        s.MemberUp k l → ∃ x ∈ t.outgoing k l, x.frame = deliver j pj m c.frame ∧ x.job = j.id))

/-- Digests of a share with two copies taking part (R265): equal ones have no effect but the counter; different ones halt the share, with a
shard report.  One that has not arrived by the operation timeout is counted in `DIGMISS`.
The judge's report (R269): where more than half of the group sent one digest, it names every other member; none otherwise, where every
digest is different. -/
def Obligations.DigestsAreCompared : Prop :=
  ((∀ (lane : DevLane) (f : RxFrame) (fr : Frame) (j : Job) (pj : PJob) (h : Share) (d : List Byte) (s : State), s.Receives lane f [opDigest] fr →
    s.isPeer lane = true →
    let k := planeOf lane
    let u := s.landed lane f fr
    let b := fieldAt fr.payload 4 2
    let dev := s.farDev lane
    u.openOn k fr.hdr.job = some (j, pj) → j.id = fr.hdr.job → jobEnded j pj = false → fieldAt fr.payload 2 1 = 1 →
    digestZeros fr.payload = true → pj.findShare b = some h → h.role = .home → h.halted = false → h.rebuilds = [] →
    h.voteGen = some pj.orec.gen → (s.goodCopies j b h = [s.bidx, dev] ∨ s.goodCopies j b h = [dev, s.bidx]) → dev ≠ s.bidx →
    fieldAt fr.payload 0x10 4 = pj.orec.gen → h.digests = [(s.bidx, pj.orec.gen, d)] →
    Runs (.digestFrame lane f) s fun t => ∃ pj' h', t.pjob k j.id = some pj' ∧ pj'.findShare b = some h' ∧
      ctrGet pj'.ctrs .digCmp = satAdd 32 (ctrGet pj.ctrs .digCmp) 1 ∧
      (slice fr.payload 0x18 16 = d → h'.halted = false ∧ t.host.reports = u.host.reports) ∧
      (slice fr.payload 0x18 16 ≠ d → h'.halted = true ∧ ∃ r ∈ t.host.reports, r.opcode = 0xF009 ∧ r.job = j.id)) ∧
  (∀ (k : PlaneIx) (id b : Nat) (j : Job) (pj : PJob) (h : Share) (d : List Byte) (s : State), s.openOn k id = some (j, pj) →
    jobEnded j pj = false → pj.findShare b = some h → h.role = .home → h.halted = false → h.rebuilds = [] →
    h.voteGen = some pj.orec.gen → h.digests = [(s.bidx, pj.orec.gen, d)] → Runs (.digestCompareTimeout k id b) s fun t => ∃ pj', t.pjob k id = some pj' ∧
      ctrGet pj'.ctrs .digMiss =
        satAdd 32 (ctrGet pj.ctrs .digMiss) ((s.goodCopies j b h).filter (· != s.bidx)).length ∧
      ctrGet pj'.ctrs .digCmp = satAdd 32 (ctrGet pj.ctrs .digCmp) 1)) ∧
  (∀ (k : PlaneIx) (id : Nat) (j : Job) (pj : PJob) (d : List Byte) (s : State), s.openOn k id = some (j, pj) → jobEnded j pj = false →
    pj.opt.kernel = 0 → 0 < j.digk → 0 < pj.orec.step → (pj.orec.step - 1) % j.digk = 0 → j.judge = s.bidx →
    (planesOf j.hdr.planes.toNat).head? = some k → pj.group.Nodup → (pj.memDigs.map (·.1)).Nodup →
    (∀ x ∈ pj.memDigs, x.1 ∈ pj.group ∧ fieldAt x.2 0 8 = pj.orec.step - 1) →
    let agree (m : Nat) : Bool := (pj.memDigs.lookup m).any fun x => x.drop 8 == d
    let pay (maj : Nat) (out : List Nat) : List Byte :=
      leBytes 2 id ++ leBytes 1 maj ++ zeros 5 ++ leBytes 8 (pj.orec.step - 1) ++ leBytes 16 (listMask out)
    (pj.group.length < 2 * (pj.group.filter agree).length → Runs (.memberDigestJudge k id) s fun t =>
      ∃ r ∈ t.host.reports, r.opcode = 0xF00A ∧ r.job = id ∧ r.payload = pay 1 (pj.group.filter (!agree ·))) ∧
    (2 ≤ pj.group.length → (pj.memDigs.map fun x => x.2.drop 8).Nodup → Runs (.memberDigestJudge k id) s fun t =>
      ∃ r ∈ t.host.reports, r.opcode = 0xF00A ∧ r.job = id ∧ r.payload = pay 0 []))

/-- The norm exchange of two devices (R13, R188; the payload's layout is the model's choice, notes/assumptions 40): a peer's pair waits for this device's own; the two are added in ascending board index,
their flags joined, and the result is the plane's pair for the combiner.
The digests of job descriptions (R167, R150; the payload's layout is the model's choice, notes/assumptions 40): one that equals this device's own is recorded and nothing else; a different one fences the
job with cause 6. -/
def Obligations.BoardExchanges : Prop :=
  (∀ (lane : DevLane) (f : RxFrame) (fr : Frame) (j : Job) (pj : PJob) (s : State), s.Receives lane f [opNorm] fr →
    let k := planeOf lane
    let u := s.landed lane f fr
    let dev := s.farDev lane
    let step := fieldAt fr.payload 8 8
    let n : NormPair := { job := j.id, step := step, dev := dev, norm := wordAt fr.payload 16, flags := Flags.ofBits (fieldAt fr.payload 2 2) }
    u.openOn k fr.hdr.job = some (j, pj) → j.id = fr.hdr.job → jobEnded j pj = false →
    ((∀ x ∈ (u.plane k).norms, ¬ (x.job = j.id ∧ x.step = step)) → dev ≠ s.bidx → Runs (.normFrame lane f) s fun t =>
      t = { u with planes := t.planes } ∧ (t.plane k).norms = (u.plane k).norms ++ [n] ∧ (t.plane k).scalarUp = (u.plane k).scalarUp) ∧
    (∀ own, (u.plane k).norms = [own] → own.job = j.id → own.step = step → own.dev = s.bidx → dev ≠ s.bidx →
      u.unreachable k j dev = false →
      (s.jobDevs j = [s.bidx, dev] → Runs (.normFrame lane f) s fun t => (t.plane k).norms = [] ∧ (u.plane k).PairUp (t.plane k)
        { job := j.id, step := step, norm := (fadd own.norm n.norm).1, flags := ((({} : Flags).or own.flags).or n.flags) }) ∧
      (s.jobDevs j = [dev, s.bidx] → Runs (.normFrame lane f) s fun t => (t.plane k).norms = [] ∧ (u.plane k).PairUp (t.plane k)
        { job := j.id, step := step, norm := (fadd n.norm own.norm).1, flags := ((({} : Flags).or n.flags).or own.flags) }))) ∧
  (∀ (lane : DevLane) (f : RxFrame) (fr : Frame) (j : Job) (pj : PJob) (s : State), s.Receives lane f [opJdig] fr →
    let k := planeOf lane
    let u := s.landed lane f fr
    let x := (k.val * 8 + s.farDev lane, slice fr.payload 8 8)
    u.openOn k fr.hdr.job = some (j, pj) → j.id = fr.hdr.job → j.st.isActive = true → (∀ y ∈ j.jdigs, y.2 = j.descDigest) →
    (x.2 = j.descDigest → Runs (.jdigFrame lane f) s fun t => t = { u with jobs := t.jobs } ∧
      t.findJob j.id = some { j with jdigs := x :: j.jdigs }) ∧
    (x.2 ≠ j.descDigest → Runs (.jdigFrame lane f) s fun t => ∃ j', t.findJob j.id = some j' ∧ j'.st = .fenced ∧ j'.fcause = 6))

/-! ### Kernels and the full stop -/

/-- A kernel run (R85, R86): the vector kernels write the subjunctive copy from the reduced values, with the step's constants and no clip
factor, and leave the indicative copy; on a home plane whose step has overflowed or is poisoned the kernel is not run.  Either way the
slots are released.  While the Result queue has no credit, nothing moves (R19).
A refresh that ends undisturbed in its turn on the engine (R115, R116, R120): the root computed from the side's statistics is staged, and the roots in use stay. -/
def Obligations.KernelsAndRefreshes : Prop :=
  (∀ (k : PlaneIx) (e : QEntry) (j : Job) (pj : PJob) (h : Share) (s : State),
    ((s.plane k).qComplete.taken ++ (s.plane k).qComplete.entries).find? (s.kernelReady k) = some e → s.findJob e.job = some j →
    s.pjob k e.job = some pj → pj.findShare e.bucket = some h →
    ((s.plane k).qResult.stalled 256 = true → Runs (.kernelRun k {}) s fun t => t = s) ∧ ((s.plane k).qResult.stalled 256 = false →
    (pj.skipKernel s.bidx h = true → Runs (.kernelRun k {}) s fun t => t.share k e.job e.bucket = some h.release) ∧
    (pj.skipKernel s.bidx h = false → pj.opt.kernel ∈ [1, 2, 3] → h.kblocks = [] →
      let kc := (stepConsts pj.opt pj.orec.pow1 pj.orec.pow2 pj.u fone).1
      let out := kVector j.kimg kc h.reduced h.ind
      out.arrays.length = wordsOf pj.opt → (∀ a ∈ out.arrays, a.length = h.reduced.length) → Runs (.kernelRun k {}) s fun t =>
        ∃ h', t.share k e.job e.bucket = some h' ∧ h'.sub = out.arrays ∧ h'.ind = h.ind ∧ h'.indImg = h.indImg ∧ h'.sel = h.sel ∧
          h'.kernelRan = true ∧ h'.bst = .closed ∧ h'.slots = []))) ∧
  (∀ (k : PlaneIx) (id i side b qi : Nat) (xs : List (Nat × Nat)) (j : Job) (pj : PJob) (h : Share) (q : KBlock) (s : State),
    s.findJob id = some j → s.pjob k id = some pj → pj.refreshQ = (i, side) :: xs → s.refreshTurn k id = true → pj.blockList[i]? = some (b, qi) →
    pj.findShare b = some h → h.kblocks[qi]? = some q →
    let r := rootRefresh pj.prec (pj.statOf q side)
    Runs (.rootRefreshDone k id {}) s fun t => ∃ pj' h', t.pjob k id = some pj' ∧ pj'.refreshQ = xs ∧ pj'.findShare b = some h' ∧
      h'.kblocks[qi]? = some (q.stage side (frWords (rootScale r.1 r.2.1.1))))

/-- The combiner (R12, R90): the pair of the second of two planes completes the step, and both planes get the total, added in ascending plane
order, with the flags joined; a pair of a plane outside the job is dropped and counted in `PAIRDROP`, with the bit of `ERRSUM`. -/
def Obligations.CombinerAddsInPlaneOrder : Prop :=
  (∀ (k a b : PlaneIx) (x y z : Pair) (xs : List Pair) (j : Job) (s : State), (s.plane k).scalarUp = x :: xs → s.findJob x.job = some j →
    j.st.isActive = true → (x.job, x.step) ∉ s.comb.dropped → j.lastComb < (x.step : Int) → j.ringHold = false → a < b →
    j.planes = [a, b] → s.heldPlanes j = [a, b] → y.step = x.step → z.step = x.step →
    (k = a ∧ x = y ∧ s.comb.pairsOf x.job x.step = [(b.val, z.norm, z.flags)] ∨
      k = b ∧ x = z ∧ s.comb.pairsOf x.job x.step = [(a.val, y.norm, y.flags)]) →
    Runs (.scalarPair k 0 0) s fun t => (t.plane k).scalarUp = xs ++ (s.plane k).upWait.take 1 ∧ ∀ q,
      if q = a ∨ q = b then (s.plane q).WordDown (t.plane q)
          (.combined x.job x.step (fadd y.norm z.norm).1 ((({} : Flags).or y.flags).or z.flags))
      else (t.plane q).scalarDown = (s.plane q).scalarDown ∧ (t.plane q).downWait = (s.plane q).downWait) ∧
  (∀ (k : PlaneIx) (tf ff : Nat) (x : Pair) (xs : List Pair) (j : Job) (s : State), (s.plane k).scalarUp = x :: xs →
    s.findJob x.job = some j → j.st.isActive = true → (x.job, x.step) ∉ s.comb.dropped → j.hdr.planes.getLsbD k.val = false →
    Runs (.scalarPair k tf ff) s fun t => (t.plane k).scalarUp = xs ++ (s.plane k).upWait.take 1 ∧ t.comb = s.comb ∧
      t.host.pairdrop = satAdd 32 s.host.pairdrop 1 ∧ t.host.errsum = s.host.errsum ||| BitVec.ofNat 32 (2 ^ esPairDrp))

/-- The combined word chooses the path (R89, R91): `ABANDON` is outcome 5, then poison 4, then overflow or a total that is not finite 3, all
through `DISCARD`; a norm within the limit commits with the clip factor 1, and one above it takes the rescaling pass with the limit over the
norm.  Where the generation numbers would run out, the job is fenced with cause 5 instead (R124; before the path, the model's choice,
notes/assumptions 92). -/
def Obligations.CombinedWordChoosesPath : Prop :=
  ∀ (k : PlaneIx) (id step : Nat) (total : W32) (fl : Flags) (rest : List DownWord) (pj : PJob) (s : State),
    (s.plane k).scalarDown = .combined id step total fl :: rest → s.pjob k id = some pj → (∀ q ∈ (s.plane k).jobs, q.waitWord = none) →
    let left := rest ++ (s.plane k).downWait.take 1
    let gn := frMul (frSqrt (frOf total)) (frOf pj.u)
    (pj.fs = .await → pj.orec.step = step → pj.opt.kernel ≠ 4 → pj.genLimit (pathOf pj.opt pj.u total fl).1 = false →
      Runs (.combinedScalars k) s fun t => (t.plane k).scalarDown = left ∧
      ∃ pj', t.pjob k id = some pj' ∧ pj'.total = total ∧ pj'.wordFlags = fl ∧ pj'.orec = pj.orec ∧ pj'.shares = pj.shares ∧
        (fl.abandon = true → pj'.outcome = 5 ∧ pj'.fs = .discard) ∧
        (fl.abandon = false → fl.poisoned = true → pj'.outcome = 4 ∧ pj'.fs = .discard) ∧
        (fl.abandon = false → fl.poisoned = false → (fl.overflow = true ∨ fge 0x7F7FFFFF total = false) →
          pj'.outcome = 3 ∧ pj'.fs = .discard) ∧
        (fl.abandon = false → fl.poisoned = false → fl.overflow = false → fge 0x7F7FFFFF total = true →
          (fgt gn.1 pj.opt.clipnorm = false → pj'.outcome = 1 ∧ pj'.fs = .commit ∧ pj'.clipc = fone) ∧
          (fgt gn.1 pj.opt.clipnorm = true → fgt fone (frDiv (frOf pj.opt.clipnorm) gn).1 = true →
            pj'.outcome = 2 ∧ pj'.fs = .rescale ∧ pj'.clipc = (frDiv (frOf pj.opt.clipnorm) gn).1))) ∧
    (∀ j, pj.fs = .await → pj.orec.step = step → pj.genLimit (pathOf pj.opt pj.u total fl).1 = true → s.findJob id = some j →
      j.st.isActive = true → Runs (.combinedScalars k) s fun t => ∃ j', t.findJob id = some j' ∧ j'.st = .fenced ∧ j'.fcause = 5) ∧
    (pj.orec.step ≠ step → Runs (.combinedScalars k) s fun t => (t.plane k).scalarDown = left ∧ t.pjob k id = some pj)

/-- The three paths end (R92, R94, R95, R96): a commit makes the subjunctive copies the indicative ones and counts an update under the
subjunctive number; a clip takes the next number; a discard leaves copies and number, counts a skipped step, and halves the loss scale
for an overflow.  Every path counts the step and drains. -/
def Obligations.PathsRecordTheirStep : Prop :=
  ∀ (k : PlaneIx) (id : Nat) (j : Job) (pj : PJob) (s : State), s.findJob id = some j → s.pjob k id = some pj →
    (pj.fs = .commit → pj.outcome = 1 → pj.opt.kernel ≠ 0 → pj.allRan s.bidx = true → s.readHolds k id = false →
      Runs (.commitDone k id) s fun t => ∃ pj', t.pjob k id = some pj' ∧ pj'.fs = .drain ∧ pj'.orec.lastout = 1 ∧
        pj'.orec.step = pj.orec.step + 1 ∧ pj'.orec.updates = pj.orec.updates + 1 ∧ pj'.orec.gen = pj.subgen ∧
        pj'.orec.nextgen = pj.subgen + 1 ∧ pj'.orec.skipped = pj.orec.skipped ∧
        ∀ b h, pj.findShare b = some h → h.kept = true → h.stale s.bidx = false →
          ∃ h', pj'.findShare b = some h' ∧ h'.ind = h.sub ∧ h'.sub = h.ind) ∧
    (pj.fs = .rescale → pj.outcome = 2 → pj.opt.kernel ≠ 0 → s.readHolds k id = false → (pj.shares.map (·.bucket)).Nodup →
      let kc := (stepConsts pj.opt pj.orec.pow1 pj.orec.pow2 pj.u pj.clipc).1
      (∀ h ∈ pj.shares, h.kept = true → h.stale s.bidx = false → (kVector j.kimg kc (h.logVals j.logl pj.orec.step) h.ind).fault = none) →
      (pj.opt.kernel = 4 → s.rescaleFirst k = some id) →
      Runs (.rescaleDone k id {}) s fun t => ∃ pj', t.pjob k id = some pj' ∧ pj'.fs = .drain ∧ pj'.orec.lastout = 2 ∧
        pj'.orec.step = pj.orec.step + 1 ∧ pj'.orec.updates = pj.orec.updates + 1 ∧ pj'.orec.gen = pj.subgen + 1 ∧
        pj'.orec.nextgen = pj.subgen + 2 ∧ pj'.orec.clipf = pj.clipc) ∧
    (pj.fs = .discard → pj.outcome ∈ [3, 4, 5] → pj.opt.kernel ≠ 0 → Runs (.discardDone k id) s fun t =>
      ∃ pj', t.pjob k id = some pj' ∧ pj'.fs = .drain ∧ pj'.orec.lastout = pj.outcome ∧ pj'.orec.step = pj.orec.step + 1 ∧
        pj'.orec.updates = pj.orec.updates ∧ pj'.orec.gen = pj.orec.gen ∧ pj'.orec.nextgen = pj.subgen + 1 ∧
        pj'.orec.skipped = pj.orec.skipped + 1 ∧
        (pj.outcome = 3 → pj.opt.fixedscale = false → pj.orec.lscale ≠ fone →
          pj'.orec.lscale = (fmul pj.orec.lscale 0x3F000000).1) ∧
        (pj.outcome = 5 → pj.opt.fixedscale = false → pj'.orec.lscale = pj.orec.lscale) ∧
        ∀ b h, pj.findShare b = some h → ∃ h', pj'.findShare b = some h' ∧ h'.ind = h.ind ∧ h'.sub = h.sub)

/-- The drain (R17, R91, R101, R117, R160): while frames of the job other than those of a read wait to leave, nothing moves (for the Publish and
Egress queues the model's choice, notes/assumptions 93), and while a refresh is outstanding the delay is counted once in `REFLATE`; with
nothing to wait for, the job's slots and contributions on the plane are released and the next step begins under the next number.  The drain of
a step that carried `DRAIN` reclaims the plane, and one with a fence pending fences it. -/
def Obligations.DrainEndsTheStep : Prop :=
  ∀ (k : PlaneIx) (id : Nat) (j : Job) (pj : PJob) (s : State), s.findJob id = some j → s.pjob k id = some pj → pj.fs = .drain →
    (∀ d ∈ (s.plane k).unsent, d.job = id → d.frame.hdr.op ≠ opCkpt → Runs (.drainComplete k id) s fun t => t = s) ∧
    ((∀ d ∈ (s.plane k).unsent, d.job ≠ id) →
      (pj.refreshQ ≠ [] → pj.refLateSeen = false → Runs (.drainComplete k id) s fun t => t.pjob k id =
        some { pj with ctrs := ctrAdd pj.ctrs .refLate 1, refLateSeen := true }) ∧
      (pj.refreshQ ≠ [] → pj.refLateSeen = true → Runs (.drainComplete k id) s fun t => t = s) ∧
      (pj.refreshQ = [] → (s.plane k).tests = [] →
        (pj.fencePend = 0 → pj.wordFlags.drain = false → (∀ x ∈ (s.plane k).held, x.frame.hdr.job ≠ id) →
          Runs (.drainComplete k id) s fun t => ∃ pj', t.pjob k id = some pj' ∧ (pj'.fs = .run ∨ pj'.fs = .await) ∧
            pj'.subgen = pj.orec.nextgen ∧ pj'.orec = pj.orec ∧ pj'.slotMax = 0 ∧
            ∀ b h', pj'.findShare b = some h' → h'.bst = .closed ∧ h'.slots = [] ∧ h'.contribs = [] ∧ h'.sums = [] ∧ h'.poisoned = false) ∧
        (pj.fencePend = 0 → pj.wordFlags.drain = true → Runs (.drainComplete k id) s fun t =>
          ∃ pj', t.pjob k id = some pj' ∧ pj'.fs = .reclaimed ∧ pj'.orec = pj.orec) ∧
        (pj.fencePend ≠ 0 → Runs (.drainComplete k id) s fun t => ∃ pj', t.pjob k id = some pj' ∧ pj'.fs = .fenced ∧ pj'.orec = pj.orec)))

/-- Fences and the timers of a job (R101, R148, R161, R162): a fence order takes the plane to `FENCED`, or waits for the path begun; the
deadline of a reclaim, and the end of a held fence, fence the job with cause 1; after `CKHOLD` an ended job is gone. -/
def Obligations.FencesAndTimersEndJobs : Prop :=
  (∀ (k : PlaneIx) (id c : Nat) (rest : List DownWord) (j : Job) (pj : PJob) (s : State), (s.plane k).scalarDown = .fence id c :: rest →
    s.findJob id = some j → s.pjob k id = some pj →
    (pj.fs = .run ∨ pj.fs = .await ∨ pj.fs = .loading → Runs (.scalarFenceOrder k) s fun t =>
      (t.plane k).scalarDown = rest ++ (s.plane k).downWait.take 1 ∧ ∃ pj', t.pjob k id = some pj' ∧ pj'.fs = .fenced ∧ pj'.syncs = [] ∧ pj'.orec = pj.orec) ∧
    (pj.fs = .commit ∨ pj.fs = .rescale ∨ pj.fs = .discard ∨ pj.fs = .drain → Runs (.scalarFenceOrder k) s fun t =>
      t = { s with planes := t.planes } ∧ (t.plane k).scalarDown = rest ++ (s.plane k).downWait.take 1 ∧ t.pjob k id = some { pj with fencePend := c })) ∧
  (∀ (id : Nat) (j : Job) (s : State), s.findJob id = some j → j.id = id →
    (j.st = .reclaiming → s.ringWaits j = false → Runs (.reclaimDeadline id) s fun t =>
      ∃ j', t.findJob id = some j' ∧ j'.st = .fenced ∧ j'.fcause = 1) ∧
    (j.st = .reclaiming → s.ringWaits j = true → Runs (.reclaimDeadline id) s fun t => t = { s with jobs := t.jobs } ∧
      t.findJob id = some { j with ringHold := true }) ∧
    (j.ringHold = true → j.st.isActive = true → Runs (.ringFenceHoldExpiry id) s fun t =>
      ∃ j', t.findJob id = some j' ∧ j'.st = .fenced ∧ j'.fcause = 1) ∧
    (j.st = .reclaimed ∨ j.st = .fenced → j.ended = true → j.closing = none → Runs (.ckholdExpiry id) s fun t =>
      t.findJob id = none ∧ (∀ k, t.pjob k id = none) ∧ ∃ r ∈ t.host.reports, r.opcode = 0xF003 ∧ r.job = id ∧ r.status = 0))

/-! ### Queues, traffic control, buffers, tests and restarts -/

/-- A stage takes the head of its queue and the credit lets the first waiting entry in (R19); the heads of the Parse, Spill, Result and
Publish queues have left by themselves (the model's choice, notes/assumptions 53).  A descriptor that leaves an Egress queue does the same for
its lane; an entry or a descriptor whose parity fails is dropped, counted and recorded (R236).  A frame that arrives while the stages behind
the policer have no credit waits, its meter untouched, and goes on with a credit (R19, R20).
The refill (R200, R201, R205, R207, R236): every job's buckets gain their rates up to their sizes under a contract that waited, or are
filled where their parity had failed; the lanes' shapers do the same, and the partitions' buckets gain theirs.
The gates of a plane (R208, R209): a window opens and closes; at the start of a cycle a waiting phase takes effect.  Without windows in the
manifest no window opens. -/
def Obligations.QueuesRefillsAndGates : Prop :=
  ((∀ (k : PlaneIx) (q : Fin 8) (l : LaneIx) (e : QEntry) (es : List QEntry) (s : State), q.val < 7 → (s.plane k).parked = [] →
    let x := (s.plane k).queue q.val
    x.entries = e :: es →
    (q.val ∈ [1, 2, 4] → Runs (.creditReturn k q l false) s fun t => t = { s with planes := t.planes } ∧
      (t.plane k).queue q.val = { entries := es ++ x.waiting.take 1, waiting := x.waiting.drop 1, taken := x.taken ++ [e] }) ∧
    (q.val ∈ [0, 3, 5, 6] → Runs (.creditReturn k q l false) s fun t => t = s) ∧
    ((∀ o ∈ (s.plane k).obs, o.block = 3 → o.errs + 1 < s.host.obsretire) → Runs (.creditReturn k q l true) s fun t =>
      t.host.errsum.getLsbD k.val = true ∧ (t.plane k).errSeq = (s.plane k).errSeq + 1 ∧
      ctrGet (t.plane k).ctrs .frmDrop = satAdd 32 (ctrGet (s.plane k).ctrs .frmDrop) 1 ∧
      (t.plane k).queue q.val = { entries := es ++ x.waiting.take 1, waiting := x.waiting.drop 1, taken := x.taken })) ∧
  (∀ (k : PlaneIx) (l : LaneIx) (x : Desc) (xs : List Desc) (s : State), (s.plane k).parked = [] →
    ((s.lane (devLane k l)).egWait = x :: xs → (s.lane (devLane k l)).egress.length < 128 → Runs (.creditReturn k 7 l false) s fun t =>
      (t.lane (devLane k l)).egress = (s.lane (devLane k l)).egress ++ [x] ∧ (t.lane (devLane k l)).egWait = xs) ∧
    ((s.lane (devLane k l)).egress = x :: xs → (∀ o ∈ (s.plane k).obs, o.block = 3 → o.errs + 1 < s.host.obsretire) →
      Runs (.creditReturn k 7 l true) s fun t => (t.plane k).errSeq = (s.plane k).errSeq + 1 ∧ (t.lane (devLane k l)).egress = xs ∧
      ctrGet (t.plane k).ctrs .frmDrop = satAdd 32 (ctrGet (s.plane k).ctrs .frmDrop) 1)) ∧
  (∀ (lane : DevLane) (f : RxFrame) (fr : Frame) (s : State), (s.lane lane).st = .up → (s.plane (planeOf lane)).ps = .inService →
    parseFrame (s.isPeer lane) (s.farDev lane) (settled f) = .ok fr → fr.hdr.op = opGrad →
    ((s.fecCount lane (settled f).fec).room (planeOf lane) fr).isSome = true →
    ((s.plane (planeOf lane)).frontStalled = true ∨ (s.plane (planeOf lane)).parked ≠ []) → Runs (.gradFrame lane f) s fun t =>
      (∃ x, (t.plane (planeOf lane)).parked = (s.plane (planeOf lane)).parked ++ [x] ∧ x.lane = lane ∧ x.frame = fr) ∧
      t.pjob (planeOf lane) fr.hdr.job = s.pjob (planeOf lane) fr.hdr.job) ∧
  (∀ (k : PlaneIx) (l : LaneIx) (x : Parked) (s : State), (s.plane k).parked = [x] → (s.plane k).frontStalled = false →
    (s.plane k).qAdmit.entries = [] → x.later = .none → x.work = {} →
    let u := s.setPlane k { s.plane k with parked := [], qParse := (s.plane k).qParse.dropHead }
    let v := u.police x.lane x.frame.hdr.job (x.frame.hdr.len + 36)
    Runs (.creditReturn k 1 l false) s fun t => t = if v.1 = true then v.2.handle x else v.2)) ∧
  (∀ (k : PlaneIx) (s : State),
    (Runs (.refill k none) s fun t => t = { s with planes := t.planes } ∧
      (t.plane k).tokLend = min ((s.plane k).tokLend + s.part.lend.partceil) s.part.lend.partburst ∧
      (t.plane k).tokServe = min ((s.plane k).tokServe + s.part.serve.partceil) s.part.serve.partburst ∧
      (∀ id pj, s.pjob k id = some pj → ∃ pj', t.pjob k id = some pj' ∧ pj'.rate = pj.pendRate.getD pj.rate ∧ pj'.pendRate = none ∧
        (pj.meterBad = false → pj'.tc = min (pj.tc + pj'.rate.cir) pj'.rate.cbs ∧ pj'.tp = min (pj.tp + pj'.rate.pir) pj'.rate.pbs) ∧
        (pj.meterBad = true → pj'.tc = pj'.rate.cbs ∧ pj'.tp = pj'.rate.pbs ∧ pj'.meterBad = false)) ∧
      ∀ l, let x := s.lane (devLane k l)
        let y := t.lane (devLane k l)
        (y.shrate, y.shburst, y.shovh) = x.pendShape.getD (x.shrate, x.shburst, x.shovh) ∧ y.pendShape = none ∧
        y.ts = (if x.shapeBad then y.shburst else min (x.ts + y.shrate) y.shburst) ∧ y.shapeBad = false ∧ y.egress = x.egress) ∧
    ∀ id pj, s.pjob k id = some pj → Runs (.refill k (some id)) s fun t => (t.plane k).errSeq = (s.plane k).errSeq + 1 ∧
      t.host.errsum.getLsbD k.val = true ∧ ∀ q, q ≠ k → (t.plane q).errSeq = (s.plane q).errSeq) ∧
  (∀ (k : PlaneIx) (s : State),
    (s.part.gnwin ≠ 0 → Runs (.gateWindowOpen k) s fun t => t = s.setPlane k { s.plane k with window := true }) ∧
    (s.part.gnwin = 0 → Runs (.gateWindowOpen k) s fun t => t = s) ∧
    (Runs (.gateWindowClose k) s fun t => t = s.setPlane k { s.plane k with window := false }) ∧
    (Runs (.gateCycleStart k) s fun t => t = { s with planes := t.planes } ∧ (t.plane k).pendPhase = none ∧
      (t.plane k).gphase = (s.plane k).pendPhase.getD (s.plane k).gphase ∧ ∀ q, q ≠ k → t.plane q = s.plane q))

/-- The egress shaper (R203 to R205, R208, R210, R211): on an `UP` lane whose shaper holds its bytes, a waiting serving frame of the highest
class starts; with none waiting, a lent frame whose job's turn has the deficit for it, where the gate lets it; while a serving window is open
on a shared lane, no lent frame does.  A chosen frame for which the shaper has too little waits, counted once in `SHAPEWAIT`, and no other
passes it; a lent frame that the gate holds is counted once in `GATEHOLD`. -/
def Obligations.EgressSendsServingFirst : Prop :=
  ∀ (d : DevLane) (s : State), (s.lane d).st = .up →
    let bytes (x : Desc) : Nat := x.frame.bytes + (s.lane d).shovh
    let starts (x : Desc) (t : State) : Prop := t.out.fibre = s.out.fibre ++ [(d.val, frameBytes (s.isPeer d) x.frame)] ∧
      (t.lane d).ts = (s.lane d).ts - bytes x ∧
      ((s.plane (planeOf d)).qPublish = {} → (t.lane d).egress = (s.lane d).egress.erase x ++ (s.lane d).egWait.take 1)
    (∀ x, s.chosen d = some x → x.later = .none →
      (bytes x ≤ (s.lane d).ts → Runs (.egressSelect d) s (starts x)) ∧
      ((s.lane d).ts < bytes x → Runs (.egressSelect d) s fun t => t = s)) ∧
    (s.chosen d = none →
      (∀ x, servingPick (s.lane d).egress = some x → x.later = .none →
        (bytes x ≤ (s.lane d).ts → Runs (.egressSelect d) s (starts x)) ∧
        ((s.lane d).ts < bytes x → x.waited = false → Runs (.egressSelect d) s fun t => t.out = s.out ∧
          (t.lane d).egress = (s.lane d).egress.replace x { x with waited := true } ∧
          ctrGet (t.lane d).ctrs .shapeWait = satAdd 32 (ctrGet (s.lane d).ctrs .shapeWait) 1)) ∧
      (servingPick (s.lane d).egress = none → s.laneOwner d = 2 → (s.plane (planeOf d)).window = true →
        Runs (.egressSelect d) s fun t => t = s) ∧
      (∀ (e : DrrEntry) (es : List DrrEntry) (x : Desc), servingPick (s.lane d).egress = none →
        (s.laneOwner d = 2 → (s.plane (planeOf d)).window = false) → (s.lane d).drr = e :: es → e.started = true →
        (s.lane d).egress.find? (fun y => y.job == e.job && y.cls < 0x80) = some x → x.frame.bytes ≤ e.deficit → x.later = .none →
        (s.gateAllows d x.frame.len = true → bytes x ≤ (s.lane d).ts → Runs (.egressSelect d) s (starts x)) ∧
        (s.gateAllows d x.frame.len = false → x.held = false → Runs (.egressSelect d) s fun t => t.out = s.out ∧
          (t.lane d).egress = (s.lane d).egress.replace x { x with held := true } ∧
          ctrGet (t.lane d).ctrs .gateHold = satAdd 32 (ctrGet (s.lane d).ctrs .gateHold) 1)))

/-- The leaked-buffer detector (R182): a first finding marks the cell, a second records it as leaked for its job's drain, and a clean one
clears the mark; a cell that is both free and held is counted in `BUFDUP`.
In-field tests (R254 to R256): a test that falls due is queued with its segments; a segment runs only where R255 allows one; one that
passes moves the test on; one that passes at the second attempt makes a record; one that fails twice makes two and ends the run; an overdue
test puts every arithmetic block of the plane under observation. -/
def Obligations.DetectorAndTests : Prop :=
  (∀ (k : PlaneIx) (cell job : Nat) (s : State), (s.plane k).ps = .inService → (∀ x ∈ (s.plane k).leaked, x.1 ≠ cell) →
    (Runs (.bufferAudit k cell .clean) s fun t => t = { s with planes := t.planes } ∧ cell ∉ (t.plane k).suspects) ∧
    (cell ∉ (s.plane k).suspects → Runs (.bufferAudit k cell (.unreferenced job)) s fun t => t = { s with planes := t.planes } ∧
      (t.plane k).suspects = cell :: (s.plane k).suspects ∧ (t.plane k).leaked = (s.plane k).leaked) ∧
    (∀ j pj, cell ∈ (s.plane k).suspects → s.findJob job = some j → s.pjob k job = some pj → jobEnded j pj = false →
      Runs (.bufferAudit k cell (.unreferenced job)) s fun t => (t.plane k).leaked = (s.plane k).leaked ++ [(cell, job)] ∧
        cell ∉ (t.plane k).suspects ∧ (t.plane k).errSeq = (s.plane k).errSeq + 1) ∧
    (Runs (.bufferAudit k cell .freeAndHeld) s fun t =>
      ctrGet (t.plane k).ctrs .bufDup = satAdd 32 (ctrGet (s.plane k).ctrs .bufDup) 1 ∧ (t.plane k).errSeq = (s.plane k).errSeq + 1)) ∧
  ((∀ (k : PlaneIx) (b : Nat) (s : State), (s.plane k).ps = .inService → testSegments b ≠ 0 →
    (∀ x ∈ (s.plane k).tests, ¬ (x.block = b ∧ x.cmd = none)) → Runs (.testDue k b) s fun t => t = { s with planes := t.planes } ∧
      (t.plane k).tests = (s.plane k).tests ++ [{ block := b, segsLeft := testSegments b }]) ∧
  (∀ (k : PlaneIx) (b unit : Nat) (r1 r2 : SegRun) (x : TestRun) (s : State), (s.plane k).testOf b = some x →
    let seg := testSegments b - x.segsLeft
    (s.segmentAllowed k b = false → Runs (.testSegmentDone k b r1 r2 unit) s fun t => t = s) ∧
    (s.segmentAllowed k b = true →
      (segPasses b seg r1 = true → 1 < x.segsLeft → Runs (.testSegmentDone k b r1 r2 unit) s fun t => t = { s with planes := t.planes } ∧
        (t.plane k).testOf b = some { x with segsLeft := x.segsLeft - 1 } ∧ (t.plane k).errSeq = (s.plane k).errSeq) ∧
      (segUnit b seg unit = true → (s.plane k).testFree b unit = true → segPasses b seg r1 = false →
        (segPasses b seg r2 = true → Runs (.testSegmentDone k b r1 r2 unit) s fun t => (t.plane k).errSeq = (s.plane k).errSeq + 1) ∧
        (segPasses b seg r2 = false → x.repeats = 1 → x.cmd = none → Runs (.testSegmentDone k b r1 r2 unit) s fun t =>
          (t.plane k).errSeq = (s.plane k).errSeq + 2 ∧
          ((t.plane k).tests = (s.plane k).tests.erase x ∨ (t.plane k).ps = .retired))))) ∧
  (∀ (k : PlaneIx) (b : Nat) (x : TestRun) (s : State), (s.plane k).tests.find? (fun t => t.block == b && t.cmd.isNone && !t.overdue) = some x →
    Runs (.testOverdue k b) s fun t => (t.plane k).errSeq = (s.plane k).errSeq + 1 ∧ { x with overdue := true } ∈ (t.plane k).tests ∧
      ∀ c ∈ arithBlocks, (t.plane k).observed c = true))

/-- The watchdogs (R11, R150, R276, R336): a plane's takes it out of service, with a record, without jobs, and with every job that named it
fenced by cause 3, or 4 where the record retires the plane; at the end of the restart it serves again; the device's holds the whole device
in reset. -/
def Obligations.WatchdogsRestart : Prop :=
  (∀ (k : PlaneIx) (core : Fin 4) (s : State), (s.plane k).ps = .inService → Runs (.watchdogExpiry k core) s fun t =>
    ((t.plane k).ps = .restarting ∨ (t.plane k).ps = .retired) ∧ (t.plane k).jobs = [] ∧ (t.plane k).cmdIn = [] ∧
    (t.plane k).errSeq = (s.plane k).errSeq + 1 ∧
    ∀ id j, s.findJob id = some j → j.st.isActive = true → j.hdr.planes.getLsbD k.val = true → ∃ j', t.findJob id = some j' ∧
      j'.st = .fenced ∧ j'.fcause = if (t.plane k).ps = .restarting then 3 else 4) ∧
  (∀ (k : PlaneIx) (s : State), (s.plane k).ps = .restarting → Runs (.planeRestartDone k) s fun t =>
    t = s.setPlane k { s.plane k with ps := .inService }) ∧
  (∀ s : State, s.mod.inReset = false → Runs .deviceWatchdogExpiry s fun t => t.mod.inReset = true ∧ t.jobs = [] ∧
    t.host = HostPort.reset ∧ (∀ k, t.plane k = Plane.reset) ∧ t.boot.bidx = s.boot.bidx ∧ t.boot.recmode = false ∧
    (s.host.programming = none → s.host.calWriting = none → t.nv = s.nv))

/-! ### Optical lanes -/

/-- An `UP` lane whose lane layer runs goes down (R225, R226, R229): its cause, its new state, the counter, the 1 ms hold-off, the report, and
its descriptors gone, on a member lane counted in `DOWNDROP` with a frame whose last byte had not left; loss of light leaves it dark, an unused lane that hears `DORMANT` enters it, and every other cause makes it train again.
Transmitter and engine faults and high bias (R231, R233, R244): each makes a record of the lane's plane; a faulted lane's laser is off and it
is in `TXFAULT`, or disabled where the record retires it, and an engine's fault takes all of its lanes; bias leaves the lane as it is but for its
flag, unless it retires it, and a laser that is off has none.  An invalid block is counted in `BLKERR`. -/
def Obligations.LanesGoDownOrFault : Prop :=
  (∀ (d : DevLane) (n : Nat) (x : TrainInfo) (s : State), (s.lane d).st = .up →
    (s.plane (planeOf d)).linksRun = true →
    let back := (s.lane d).retrain
    let down (cause : Nat) (st : LState) (t : State) : Prop := (t.lane d).st = st ∧ (t.lane d).lcause = cause ∧
      (t.lane d).lchange = (s.plane (planeOf d)).cnt ∧ (t.lane d).holdoff = true ∧ (t.lane d).ready = false ∧
      (t.lane d).egress = [] ∧ (t.lane d).egWait = [] ∧
      ctrGet (t.lane d).ctrs .downCnt = satAdd 32 (ctrGet (s.lane d).ctrs .downCnt) 1 ∧
      (s.isPeer d = false → (s.plane (planeOf d)).qPublish = {} → ctrGet (t.lane d).ctrs .downDrop = satAdd 32
        (ctrGet (s.lane d).ctrs .downDrop) ((s.lane d).egress.length + (s.lane d).egWait.length +
          if (s.plane (planeOf d)).cnt < (s.lane d).sendEnd then 1 else 0)) ∧
      (s.isPeer d = false ∨ s.jobs = [] → ∃ r ∈ t.host.reports, r.opcode = 0xF005 ∧
        r.payload = leBytes 1 d.val ++ leBytes 1 cause ++ zeros 6 ++ leBytes 8 (t.lane d).lchange)
    Runs (.lossOfLight d) s (fun t => down 1 .dark t ∧ (t.lane d).los = true) ∧
    Runs (.receiveClockLoss d) s (fun t => down 2 back t ∧ (t.lane d).feclock = false) ∧
    Runs (.fecLockLoss d n) s (fun t => down 3 back t ∧
      ctrGet (t.lane d).ctrs .fecUnc = satAdd 32 (ctrGet (s.lane d).ctrs .fecUnc) n) ∧
    Runs (.trainWhileUp d x) s (fun t => down 4 back t ∧ (t.lane d).farid1 = x.b1 ∧ (t.lane d).farid2 = x.b2) ∧
    (s.laneJobs d ≠ [] → Runs (.dormantReceived d) s (down 5 back)) ∧
    (s.laneJobs d = [] → Runs (.dormantReceived d) s fun t => down 6 .dormant t ∧ (t.lane d).laserOn = false)) ∧
  ((∀ (d : DevLane) (s : State), (s.lane d).st ≠ .disabled → (s.plane (planeOf d)).linksRun = true →
    ((s.lane d).st ≠ .txfault → Runs (.transmitterFault d) s fun t => ((t.lane d).st = .txfault ∨ (t.lane d).st = .disabled) ∧
      (t.lane d).laserOn = false ∧ (t.plane (planeOf d)).errSeq = (s.plane (planeOf d)).errSeq + 1 ∧
      ((s.lane d).st = .up → (t.lane d).lcause = 8)) ∧
    ((s.lane d).laserOn = true → Runs (.highLaserBias d) s fun t =>
      ((t.lane d).biasHi = true ∧ (t.lane d).st = (s.lane d).st ∨ (t.lane d).st = .disabled) ∧
      (t.plane (planeOf d)).errSeq = (s.plane (planeOf d)).errSeq + 1) ∧
    ((s.lane d).laserOn = false → Runs (.highLaserBias d) s fun t => t = s) ∧
    (Runs (.invalidBlock d) s fun t => t = { s with planes := t.planes } ∧
      ctrGet (t.lane d).ctrs .blkErr = satAdd 32 (ctrGet (s.lane d).ctrs .blkErr) 1 ∧ (t.lane d).st = (s.lane d).st)) ∧
  (∀ (e : Fin 16) (s : State), (s.plane (enginePlane e)).linksRun = true → (∀ d ∈ engineLanes e, (s.lane d).st ≠ .txfault) →
    Runs (.engineControlFault e) s fun t =>
      (∀ d ∈ engineLanes e, ((t.lane d).st = .txfault ∨ (t.lane d).st = .disabled) ∧ (t.lane d).laserOn = false) ∧
      (t.plane (enginePlane e)).errSeq = (s.plane (enginePlane e)).errSeq + 8))

/-- Bring-up (R220, R223, R224, R230, R233): light takes a dark lane to `TRAINING` and wakes a dormant one; lock keeps the far end's identity, and a
wrong one is `MISWIRED`, reported; lock with a passing echo for 100 µs is `READY`, without one for 1 ms `NOECHO`; `READY` at both ends is
`UP`; an echo that fails, and lost lock, start the 100 µs again. -/
def Obligations.LanesTrainToUp : Prop :=
  ∀ (d : DevLane) (x : TrainInfo) (n : Nat) (s : State), (s.plane (planeOf d)).linksRun = true →
    let l := s.lane d
    ((l.st = .dark → l.los = true → Runs (.lightReturn d) s fun t => t = { s with planes := t.planes } ∧ (t.lane d).st = .training ∧
        (t.lane d).los = false ∧ (t.lane d).lightAt = (s.plane (planeOf d)).cnt) ∧
     (l.st = .dormant → Runs (.dormantWakeLight d) s fun t => t = { s with planes := t.planes } ∧ (t.lane d).st = .training ∧
        (t.lane d).laserOn = true)) ∧
    (l.st = .training → (s.engine (laneEngine d)).orderSet = true →
      (s.wired d x = true → Runs (.patternLock d x) s fun t => t = { s with planes := t.planes } ∧ (t.lane d).plock = true ∧
        (t.lane d).farid1 = x.b1 ∧ (t.lane d).farid2 = x.b2 ∧ (t.lane d).echoOk = s.echoPasses d x ∧
        (t.lane d).ready = (l.ready && s.echoPasses d x) ∧ (t.lane d).st = .training) ∧
      (s.wired d x = false → Runs (.patternLock d x) s fun t => (t.lane d).st = .miswired ∧ (t.lane d).ready = false ∧
        ∃ r ∈ t.host.reports, r.opcode = 0xF007 ∧
          r.payload = leBytes 1 d.val ++ [x.b1, x.b2] ++ zeros 5 ++ leBytes 8 (t.lane d).lchange)) ∧
    (l.st = .training → l.plock = true →
      (l.echoOk = true → Runs (.readyTimerExpiry d) s fun t => t = { s with planes := t.planes } ∧ t.lane d = { l with ready := true }) ∧
      (l.echoOk = false → Runs (.noechoTimeout d) s fun t => t = { s with planes := t.planes } ∧ t.lane d = { l with noEcho := true }) ∧
      (l.ready = true → l.echoOk = true → x.b1.getLsbD 7 = true → l.holdoff = false → Runs (.laneUp d x) s fun t => (t.lane d).st = .up ∧
        (t.lane d).lchange = (s.plane (planeOf d)).cnt ∧ ∃ r ∈ t.host.reports, r.opcode = 0xF006)) ∧
    (l.st.trains = true → Runs (.patternLockLost d n) s fun t => t = { s with planes := t.planes } ∧ (t.lane d).plock = false ∧
      (t.lane d).ready = false ∧ (t.lane d).st = l.st ∧
      ctrGet (t.lane d).ctrs .trainErr = satAdd 32 (ctrGet l.ctrs .trainErr) n) ∧
    Runs (.downHoldoffExpiry d) s fun t => t = { s with planes := t.planes } ∧ t.lane d = { l with holdoff := false }

/-- Polarity and order (R221, R222): the corrector of a dark engine changes its polarity, once for each of its lanes in `POLFLIP`; the receivers
that it lit train; with every lane of the engine down for 1 ms the order is evaluated afresh, and, while none is up, a first echo from the mirrored position
reverses it. -/
def Obligations.EnginesCorrectPolarityAndOrder : Prop :=
  ∀ (e : Fin 16) (lit : BitVec 8) (s : State), (s.plane (enginePlane e)).linksRun = true →
    ((∀ d ∈ engineLanes e, (s.lane d).los = true ∧ (s.lane d).st ≠ .up ∧ s.corrector d = true) → (s.engine e).flipping = false →
      Runs (.polarityFlip e) s fun t => t = { s with planes := t.planes } ∧ (t.engine e).polSwap = !(s.engine e).polSwap ∧
        (t.engine e).flipping = true ∧
        ∀ d ∈ engineLanes e, ctrGet (t.lane d).ctrs .polFlip = satAdd 32 (ctrGet (s.lane d).ctrs .polFlip) 1) ∧
    ((s.engine e).flipping = true → Runs (.polarityFlipDone e lit) s fun t => t = { s with planes := t.planes } ∧
      (t.engine e).flipping = false ∧ (t.engine e).polSwap = (s.engine e).polSwap ∧
      ∀ d ∈ engineLanes e, (s.lane d).los = true → (s.lane d).st = .dark →
        (t.lane d).st = if lit.getLsbD (d.val % 8) then .training else .dark) ∧
    ((∀ d ∈ engineLanes e, (s.lane d).st ≠ .up) → Runs (.engineReevaluate e) s fun t => t = { s with planes := t.planes } ∧
      t.engine e = { s.engine e with orderSet := false }) ∧
    ∀ (d : DevLane) (x : TrainInfo), d ∈ engineLanes e → (∀ y ∈ engineLanes e, (s.lane y).st ≠ .up) → (s.lane d).st = .training →
      s.corrector d = true →
      (s.engine e).orderSet = false → s.echoLane d x = some (8 * ((laneIn d).val / 8) + (7 - (laneIn d).val % 8)) →
      Runs (.patternLock d x) s fun t => t = { s with planes := t.planes } ∧
        t.engine e = { s.engine e with orderSet := true, rxRev := !(s.engine e).rxRev } ∧
        ∀ y ∈ engineLanes e, (t.lane y).plock = false ∧ (t.lane y).ready = false

/-! ### Module and boot -/

/-- Input power (R329, R340, R341, R344): the input in range turns the rails on with the device held in reset; an input that fails, opens its
fuse, leaves the range or is unmated turns everything off, standby last. -/
def Obligations.InputPowerSwitchesRails : Prop :=
  ∀ (mv : Nat) (s : State),
    let off (t : State) : Prop := t.mod.standby = false ∧ t.mod.railsOn = false ∧ t.mod.inReset = true ∧ t.mod.inputGood = false ∧
      t.mod.tripLatch = false ∧ t.mod.alertIn = false ∧ t.mod.alertStuck = false ∧ t.mod.rstOutLow = true ∧ t.jobs = [] ∧ (∀ k, (t.plane k).railsOn = false ∧ (t.plane k).jobs = [])
    (s.mod.inputGood = false → 49000 ≤ mv → mv ≤ (if s.mod.overvolt then 61000 else 62000) → Runs (.inputPowerUp mv) s fun t =>
      t.mod.inputGood = true ∧ t.mod.standby = true ∧ t.mod.railsOn = true ∧ t.mod.inReset = true ∧ t.mod.vin = mv ∧
      (t.mod.lowIn = true ↔ mv < 50000) ∧ ∀ k, t.plane k = { s.plane k with railsOn := true }) ∧
    Runs .inputUndervoltage s off ∧ (62000 < mv → Runs (.inputOvervoltage mv) s fun t => off t ∧ t.mod.overvolt = true ∧ t.mod.vin = mv) ∧
    Runs .mateDetectOpen s (fun t => off t ∧ t.mod.mated = false) ∧ Runs .inputFuseOpen s (fun t => off t ∧ t.mod.fuseOpen = true) ∧
    (s.mod.inputGood = true → Runs (.inputLowRange mv) s fun t => t = { s with mod := t.mod } ∧ t.mod.vin = mv ∧
      (t.mod.lowIn = true ↔ mv < 50000))

/-- Resets (R334, R336, R347, R355): a reset pin, with no trip latched, loses everything but what the standby domain keeps; while a trip is
latched it releases the latch where every diode reads below 90.0 °C, and does nothing otherwise; the release samples the strap and the
cause; a thermal trip turns the rails off and latches. -/
def Obligations.ResetsAndTrips : Prop :=
  ∀ (src : ResetSource) (strap : BitVec 3) (ref : Bool) (ds : List Int) (s : State),
    let held (t : State) : Prop := t.mod.inReset = true ∧ t.jobs = [] ∧ t.host = HostPort.reset ∧ (∀ k, t.plane k = Plane.reset) ∧
      t.part = {} ∧ t.boot = { bidx := s.boot.bidx, rstcause := s.boot.rstcause }
    (s.mod.standby = true →
      (s.mod.tripLatch = false → Runs .rstInAssert s (fun t => held t ∧ t.mod.rstIn = true ∧ t.mod.rstOutLow = true) ∧
        Runs .perstAssert s (fun t => held t ∧ t.mod.perst = true)) ∧
      (s.mod.tripLatch = true → s.mod.cool = true → Runs .rstInAssert s fun t => t.mod.tripLatch = false ∧ t.mod.railsOn = true ∧
        ∀ k, t.plane k = { s.plane k with railsOn := true }) ∧
      (s.mod.tripLatch = true → s.mod.cool = false → Runs .perstAssert s fun t => t = { s with mod := { s.mod with perst := true } })) ∧
    (s.mod.inReset = true → s.mod.railsOn = true → s.mod.inputGood = true → s.mod.tripLatch = false →
      Runs (.resetRelease src strap ref) s fun t => t.mod.inReset = false ∧ t.boot = { bidx := strap, rstcause := ResetSource.code src } ∧
        t.mod.strap = strap ∧ ∀ k, t.plane k = { s.plane k with refSel := ref }) ∧
    (s.mod.inReset = false → Runs .rstOutRelease s fun t => t = { s with mod := { s.mod with rstOutLow := false } }) ∧
    (s.mod.railsOn = true → Runs .thermalTrip s fun t => t.mod.tripLatch = true ∧ t.mod.railsOn = false ∧ t.mod.inReset = true ∧
      t.jobs = [] ∧ t.mod.standby = s.mod.standby ∧ ∀ k, (t.plane k).railsOn = false) ∧
    (s.mod.standby = true → s.mod.tripLatch = true → Runs (.standbyDiodeRead ds) s fun t =>
      t = { s with mod := { s.mod with diodes := ds } })

/-- Throttle, cap, rails and reference (R326, R337, R340, R343, R345, R346): a plane's step moves by at most one and only past its thresholds, on
the readings that the calibration trims correct (their rounding is the model's choice, notes/assumptions 87); the cap starts above 1,150 W and
ends below 1,080 W; failed rails retire the plane and turn its lanes off; a lost reference moves the planes that use it to their crystals.
The alert ring and the SMBus (R334, R335, R338, R339, R353): `ALERT_IN#` shows in the status word and, once boot has ended, in `ERRSUM`; an
output stuck low is noted while the device does not drive it, until it reads high; a word is read while standby is up, at the address that the
live strap gives, with that strap in its code 0x0F, and a write changes nothing. -/
def Obligations.SensorsRailsAndAlertsAct : Prop :=
  (∀ (k : PlaneIx) (dt ht : Int) (vc w : Nat) (s : State),
    let d := s.trimTemp k.val dt
    ((s.plane k).railsOn = true → (s.plane k).ps ≠ .held → Runs (.throttleEvaluation k dt ht vc) s fun t =>
      t = { s with planes := t.planes } ∧ (t.plane k).dtemp = d ∧ (t.plane k).hbmTemp = ht ∧ (t.plane k).vcore = s.trimMv k.val vc ∧
      (t.plane k).thermStep = thermNext (s.plane k).thermStep d ∧ (t.plane k).thermStep ≤ (s.plane k).thermStep + 1 ∧
      (s.plane k).thermStep ≤ (t.plane k).thermStep + 1 ∧ (950 ≤ ht → (t.plane k).hbmThr = true) ∧
      (ht < 920 → (t.plane k).hbmThr = false) ∧ ∀ q, q ≠ k → t.plane q = s.plane q) ∧
    (s.mod.inReset = false → Runs (.powerCapEvaluation w) s fun t => t = { s with mod := t.mod } ∧ t.mod.power = w ∧
      (11500 < w → t.mod.pwrCap = true) ∧ (w < 10800 → t.mod.pwrCap = false) ∧ (10800 ≤ w → w ≤ 11500 → t.mod.pwrCap = s.mod.pwrCap)) ∧
    ((s.plane k).railFault = false →
      let off (t : State) : Prop := (t.plane k).ps = .retired ∧ (t.plane k).railFault = true ∧ (t.plane k).railsOn = false ∧
        (t.plane k).errSeq = (s.plane k).errSeq ∧ ∀ l, (t.lane (devLane k l)).st = .disabled ∧ (t.lane (devLane k l)).laserOn = false
      Runs (.railFault k) s off ∧ Runs (.planeRailTimeout k) s off) ∧
    Runs .referenceClockLoss s fun t => t.mod = { s.mod with refIn := false } ∧
      ∀ q, t.plane q = { s.plane q with refLost := (s.plane q).refLost || (s.plane q).refSel }) ∧
  (∀ (x : SmbusTarget) (v : W16) (s : State),
    let c := x.code
    (s.boot.bcode ≠ 255 → Runs .alertInLow s fun t => t.mod.alertIn = true ∧
      t.host.errsum = s.host.errsum ||| BitVec.ofNat 32 (2 ^ esUpAlert)) ∧
    (s.boot.bcode = 255 → Runs .alertInLow s fun t => t = { s with mod := { s.mod with alertIn := true } }) ∧
    (Runs .alertInRelease s fun t => t = { s with mod := { s.mod with alertIn := false } }) ∧
    (s.alertOut = false → Runs .alertOutStuck s fun t => t = { s with mod := { s.mod with alertStuck := true } }) ∧
    (s.mod.standby = true → smbusHere x = true → (c = 0 → Runs (.smbusReadWord x) s fun t => t.mod.smbusOut = some 0x4880) ∧
      (c = 1 → Runs (.smbusReadWord x) s fun t => ∃ w, t.mod.smbusOut = some w ∧ w.getLsbD 7 = s.mod.tripLatch ∧
        w.getLsbD 5 = s.mod.alertIn ∧ w.getLsbD 4 = s.alertOut ∧ w.getLsbD 3 = (s.mod.alertStuck && x.alertLow && !s.alertOut) ∧
        w.getLsbD 2 = s.mod.pwrCap ∧ w.getLsbD 1 = s.mod.lowIn ∧ w.getLsbD 0 = s.mod.inReset) ∧
      (c = 2 → Runs (.smbusReadWord x) s fun t => t.mod.smbusOut = some (BitVec.ofNat 16 (s.trimMv 8 s.mod.vin / 10))) ∧
      (c = 4 → Runs (.smbusReadWord x) s fun t => t.mod.smbusOut = some (BitVec.ofNat 16 s.mod.power)) ∧
      (c = 15 → Runs (.smbusReadWord x) s fun t =>
        t.mod.smbusOut = some (BitVec.ofNat 16 (x.strap.toNat + 16 * s.topThrottle + 256 * s.boot.recmode.toNat))) ∧
      (15 < c.toNat → Runs (.smbusReadWord x) s fun t => t.mod.smbusOut = some 0xFFFF)) ∧
    (smbusHere x = false → Runs (.smbusReadWord x) s fun t => t = { s with mod := { s.mod with smbusOut := none } }) ∧
    (Runs (.smbusWrite x v) s fun t => t = s) ∧
    Runs .smbusTimeout s fun t => t = { s with mod := { s.mod with smbusOut := none } })

/-- The boot (R314, R315, R318, R355): planes are released only after the package verifies, each to service unless its rails failed, with the
minimum SVN raised before where the package asks for that; a package that fails leaves the device in recovery mode with the code of the
failure, and one that verifies ends at step 9, with its own code where the calibration set is bad. -/
def Obligations.BootReleasesOrRecovers : Prop :=
  ∀ (bad : Bool) (s : State), s.booting = true →
    let v := verifyPackage s.nv s.bidx s.nv.slot
    let h := pkgHdr s.nv.slot
    (v = none → s.boot.bootstep < 8 → Runs .planesReleased s fun t => t.boot.bootstep = 8 ∧ t.part.locked = true ∧
      (∀ k, (t.plane k).ps = (if (s.plane k).railFault then .retired else .inService) ∧
        ((s.plane k).railFault = false → (t.plane k).cnt = 0 ∧ (t.plane k).tokLend = t.part.lend.partburst)) ∧
      (h.fflags % 2 = 1 → s.nv.minSvn < h.fsvn → t.nv.minSvn = h.fsvn ∨ t.nv = s.nv ∧ t.boot.svnBad = true) ∧
      (h.fflags % 2 = 0 ∨ h.fsvn ≤ s.nv.minSvn → t.nv = s.nv)) ∧
    (∀ c, v = some c → Runs (.bootEnd bad) s fun t => t.boot.recmode = true ∧ t.boot.bcode = c ∧
      t.boot.bootstep = (if c ≤ 3 then 2 else 3) ∧ (∀ k, t.plane k = s.plane k) ∧ t.nv = s.nv) ∧
    (v = none → s.boot.recmode = false → Runs (.bootEnd bad) s fun t => t.boot.recmode = false ∧ t.boot.bootstep = 9 ∧
      (8 ≤ s.boot.bootstep → t.nv = s.nv) ∧ (s.boot.bootstep < 8 →
        ((calInUse s.nv).2 = true → t.boot.bcode = 8) ∧ (∀ k, (t.plane k).ps ≠ .held) ∧
        (h.fflags % 2 = 1 → s.nv.minSvn < h.fsvn → t.nv.minSvn = if bad then s.nv.minSvn else h.fsvn) ∧
        (h.fflags % 2 = 0 ∨ h.fsvn ≤ s.nv.minSvn → t.nv.minSvn = s.nv.minSvn)))

/-! ### What a plane does with a command it takes -/

/-- Counters, flags and traffic control (R43, R205, R207, R209, R303): the plane answers with its block and section; `ASTAT_READ` clears with
`CLEAR`; a shaper's settings and a phase wait for the refill and the cycle, as a rate contract does. -/
def Obligations.PlanesTakeTrafficCommands : Prop :=
  ∀ (k : PlaneIx) (x : PlaneCmd) (rest : List PlaneCmd) (o : Held) (s : State), s.TakesNext k x rest o →
    (x.pkt.opcode = 0x0104 → Runs (.planeCommandTake k) s fun t => (t.plane k).cmdIn = rest ∧
      t.Answered o .ok (statusBlock k .ok ++ leBytes 4 (s.plane k).astat.toNat) ∧
      (t.plane k).astat = if x.pkt.flags.getLsbD 8 then 0 else (s.plane k).astat) ∧
    (x.pkt.opcode = 0x0703 → Runs (.planeCommandTake k) s fun t => (t.plane k).cmdIn = rest ∧ t.Answered o .ok (statusBlock k .ok) ∧
      ∀ l, let set := some (pf x.pkt 4 4, pf x.pkt 8 4, pf x.pkt 12 1)
        let n := s.lane (devLane k l)
        t.lane (devLane k l) = { n with pendShape := if l ∈ lanesOf (pf x.pkt 0 2) then set else n.pendShape }) ∧
    (x.pkt.opcode = 0x0705 → Runs (.planeCommandTake k) s fun t => t.Answered o .ok (statusBlock k .ok) ∧
      t.plane k = { s.plane k with cmdIn := rest, pendPhase := some (pf x.pkt 0 4), gateEnd := (t.plane k).gateEnd }) ∧
    (x.pkt.opcode = 0x0706 → Runs (.planeCommandTake k) s fun t => t.plane k = { s.plane k with cmdIn := rest } ∧
      t.Answered o .ok (statusBlock k .ok ++ (leBytes 4 s.part.gcycle ++ leBytes 1 s.part.gnwin ++ zeros 3 ++
        leBytes 4 (s.plane k).gphase ++ zeros 4 ++
        (List.range s.part.gnwin).flatMap fun i => leBytes 4 (s.part.gstart.getD i 0) ++ leBytes 4 (s.part.glen.getD i 0)))) ∧
    (x.pkt.opcode = 0x0701 → ∀ pj, s.pjob k x.pkt.job = some pj → Runs (.planeCommandTake k) s fun t =>
      t.Answered o .ok o.extra ∧ t.pjob k x.pkt.job = some { pj with pendRate := some (parseRate x.pkt.params) })

/-- Lane commands on a plane (R192, R227 to R231, R291): a lane that may not be changed refuses for all, and the section names it; otherwise the
named lane takes its peaking, is held and released, sleeps, wakes, turns off or on at its calibrated bias, or changes its cut-through setting. -/
def Obligations.PlanesTakeLaneCommands : Prop :=
  ∀ (k : PlaneIx) (x : PlaneCmd) (rest : List PlaneCmd) (o : Held) (l : LaneIx) (s : State), s.TakesNext k x rest o →
    lanesOf (pf x.pkt 0 2) = [l] →
    let d := devLane k l
    let n := s.lane d
    (x.pkt.opcode = 0x0802 → n.st = .up → Runs (.planeCommandTake k) s fun t => t.plane k = { s.plane k with cmdIn := rest } ∧
      t.Answered o .busy (statusBlock k .busy ++ leBytes 1 l.val)) ∧
    (x.pkt.opcode = 0x0802 → n.st ≠ .up → Runs (.planeCommandTake k) s fun t => (t.lane d).peak = pf x.pkt 4 1 ∧ (t.lane d).st = n.st ∧
      (n.st = .training → (t.lane d).plock = false) ∧ t.Answered o .ok (statusBlock k .ok)) ∧
    (x.pkt.opcode = 0x0803 → s.laneJobs d = [] → n.st = .up → Runs (.planeCommandTake k) s fun t => (t.lane d).st = .hold ∧
      (t.lane d).ready = false ∧ (t.lane d).lcause = 7 ∧ t.Answered o .ok (statusBlock k .ok)) ∧
    (x.pkt.opcode = 0x0804 → s.laneJobs d = [] → n.st = .hold → Runs (.planeCommandTake k) s fun t => (t.lane d).st = n.retrain ∧
      t.Answered o .ok (statusBlock k .ok)) ∧
    (x.pkt.opcode = 0x0804 → s.laneJobs d ≠ [] → n.st = .up → Runs (.planeCommandTake k) s fun t =>
      t.plane k = { s.plane k with cmdIn := rest } ∧ t.Answered o .busy (statusBlock k .busy ++ leBytes 1 l.val)) ∧
    (x.pkt.opcode = 0x0805 → s.laneJobs d = [] → n.st ∉ [.dormant, .disabled, .txfault] → Runs (.planeCommandTake k) s fun t =>
      (t.lane d).st = .dormant ∧ (t.lane d).laserOn = false ∧ t.Answered o .ok (statusBlock k .ok) ∧
      t.out.dormant = s.out.dormant ++ if n.laserOn then [d.val] else []) ∧
    (x.pkt.opcode = 0x0806 → n.st = .dormant → Runs (.planeCommandTake k) s fun t => (t.lane d).st = n.retrain ∧
      (t.lane d).laserOn = true ∧ t.Answered o .ok (statusBlock k .ok)) ∧
    (x.pkt.opcode = 0x0807 → s.laneJobs d = [] → n.st ≠ .disabled → Runs (.planeCommandTake k) s fun t => (t.lane d).st = .disabled ∧
      (t.lane d).laserOn = false ∧ t.Answered o .ok (statusBlock k .ok)) ∧
    (x.pkt.opcode = 0x0807 → s.laneJobs d ≠ [] → n.st ∉ [.disabled, .txfault] → Runs (.planeCommandTake k) s fun t =>
      t.plane k = { s.plane k with cmdIn := rest } ∧ t.Answered o .busy (statusBlock k .busy ++ leBytes 1 l.val)) ∧
    (x.pkt.opcode = 0x0808 → s.laneJobs d = [] → n.st = .disabled → n.retired = false → Runs (.planeCommandTake k) s fun t =>
      (t.lane d).st = n.retrain ∧ (t.lane d).laserOn = true ∧ (t.lane d).bias = s.calBias d ∧ t.Answered o .ok (statusBlock k .ok)) ∧
    (x.pkt.opcode = 0x0809 → Runs (.planeCommandTake k) s fun t => t.Answered o .ok (statusBlock k .ok) ∧
      (pf x.pkt 4 1 ∈ (t.lane d).cutClasses ↔ pf x.pkt 5 1 = 1) ∧
      ∀ c, c ≠ pf x.pkt 4 1 → (c ∈ (t.lane d).cutClasses ↔ c ∈ n.cutClasses))

/-- Job commands on a plane (R77, R119, R273, R291, R302): a job that the plane does not hold answers `PARAM` outside its planes and `FENCED` after
a restart; `OPT_READ` returns block and record; `OPT_SET` before the first step sets the block; `RESTORE_BEGIN` sets the record and clears
log and copies. -/
def Obligations.PlanesTakeJobCommands : Prop :=
  ∀ (k : PlaneIx) (x : PlaneCmd) (rest : List PlaneCmd) (o : Held) (j : Job) (s : State), s.TakesNext k x rest o →
    s.findJob x.pkt.job = some j →
    (x.pkt.opcode = 0x0502 → s.pjob k x.pkt.job = none → j.st.isOpen = true →
      (j.hdr.planes.getLsbD k.val = true → Runs (.planeCommandTake k) s fun t => t.Answered o .fenced (statusBlock k .fenced)) ∧
      (j.hdr.planes.getLsbD k.val = false → Runs (.planeCommandTake k) s fun t => t.Answered o .param (statusBlock k .param))) ∧
    (x.pkt.opcode = 0x0502 → s.pjob k x.pkt.job = none → j.st.isOpen = false → Runs (.planeCommandTake k) s fun t =>
      t.Answered o .nojob (statusBlock k .nojob)) ∧
    (∀ pj, s.pjob k x.pkt.job = some pj →
      (x.pkt.opcode = 0x0502 → Runs (.planeCommandTake k) s fun t => t.plane k = { s.plane k with cmdIn := rest } ∧
        t.Answered o .ok (statusBlock k .ok ++ (optBytes pj.opt ++ orecBytes j.id k.val pj.fs pj.orec))) ∧
      (x.pkt.opcode = 0x0501 → jobEnded j pj = false → Runs (.planeCommandTake k) s fun t => t.Answered o .ok o.extra ∧
        t.pjob k x.pkt.job = some { pj with opt := parseOpt (psl x.pkt 8 64) }) ∧
      (x.pkt.opcode = 0x020B → jobEnded j pj = false → Runs (.planeCommandTake k) s fun t => t.Answered o .ok o.extra ∧
        ∃ pj', t.pjob k x.pkt.job = some pj' ∧ pj'.restore = true ∧ pj'.slog = [] ∧ pj'.orec.step = (parseOrec x.pkt.params).step ∧
          pj'.orec.gen = (parseOrec x.pkt.params).gen ∧ pj'.orec.updates = (parseOrec x.pkt.params).updates ∧
          pj'.orec.lscale = (parseOrec x.pkt.params).lscale ∧
          ∀ b h', pj'.findShare b = some h' → h'.log = [] ∧ ∀ a ∈ h'.ind, ∀ w ∈ a, w = 0))

/-! ### Checked words, reset, the queue, and the invariant -/

/-- Majority of a word's three computations (R240, R241): where two agree their value stands; where all differ the word is unresolved; the
third decides only where the first two disagree. -/
def Obligations.MajorityOfThreeStands : Prop :=
  ∀ (w : W32) (f : WordFault),
    let a := w ^^^ f.primary
    let b := w ^^^ f.check
    let c := w ^^^ f.third
    (∀ v, (a = v ∧ b = v) ∨ (a = v ∧ c = v) ∨ (b = v ∧ c = v) → (settleWord w f true).1 = v ∧ (settleWord w f true).2 ≠ .unresolved) ∧
    (a ≠ b → b ≠ c → a ≠ c → (settleWord w f true).2 = .unresolved) ∧ settleWord w f false = (a, .agreed)

/-- The machine right after reset: the reset values of R355, R356, R359, R362 to R365, R367 and R368, every plane held with its lanes dark and
nothing stored, and the invariant of this model. -/
def Obligations.ResetLeavesNothingStored : Prop :=
  let s := State.reset
  s.pending = [] ∧ s.jobs = [] ∧ s.groups = [] ∧ s.boot.bcode = 255 ∧ s.boot.bootstep = 0 ∧ s.boot.recmode = false ∧
  s.host.raen = false ∧ s.host.radrain = false ∧ s.host.carestart = false ∧ s.host.cacrc = 0 ∧ s.host.caovrun = 0 ∧ s.host.rptlost = 0 ∧
  s.host.catail = 0 ∧ s.host.rahead = 0 ∧ s.host.ratail = 0 ∧ s.host.errsum = 0 ∧ s.host.hpfault = 0 ∧ s.host.herrcnt = 0 ∧
  s.host.herrlost = 0 ∧ s.host.hpcnt = 0 ∧ s.host.pairdrop = 0 ∧ s.host.held = [] ∧ s.host.reports = [] ∧ (∀ v : Fin 3, s.host.msix[v].ctrl = 1) ∧
  s.part.locked = false ∧
  (∀ k, (s.plane k).ps = .held ∧ (s.plane k).railFault = false ∧ (s.plane k).thermStep = 0 ∧ (s.plane k).errSeq = 0 ∧
    (s.plane k).jobs = [] ∧ (s.plane k).astat = 0 ∧ ∀ l, (s.lane (devLane k l)).st = .dark ∧ (s.lane (devLane k l)).egress = []) ∧
  s.Inv

/-- No command touches the queue of the commands that wait behind it. -/
def Obligations.CommandsLeaveTheQueue : Prop :=
  ∀ (i : Instr) (s : State), ∃ t, exec i s = .next t ∧ t.pending = s.pending

/-- Every step keeps the invariant: the memories stay in their canonical form, and the records of errors and reports within the room that R248 and
R292 give them. -/
def Obligations.EveryStepKeepsTheInvariant : Prop :=
  ∀ s t : State, s.Inv → step s = .next t → t.Inv

/-- A frame read back (R169 to R173, R176, R178): the bytes that a lane sends for a well-formed frame, received whole on such a lane, parse to that
frame with every field that its type uses, and with zeros in the others (R170). -/
def Obligations.FramesParseBack : Prop :=
  ∀ (peer : Bool) (f : Frame), f.hdr.op ∈ (if peer then peerOps else memberOps) → f.hdr.fmt < 16 →
    (f.hdr.op ∈ elemOps → (fmtBits f.hdr.fmt).isSome = true) → 0 < f.hdr.job → f.hdr.job < 65536 → f.hdr.len = f.payload.length →
    f.payload.length % 64 = 0 → f.payload.length ≤ 8192 → (fixedLen f.hdr.op = none ∨ fixedLen f.hdr.op = some f.payload.length) →
    f.hdr.bucket < 65536 → f.hdr.comma < 65536 → f.hdr.chunk < 2 ^ 20 → f.hdr.elemoff < 2 ^ 24 → f.hdr.gen < 2 ^ 32 →
    f.hdr.rw = false → f.hdr.rwaddr = 0 → f.hdr.rwkey = 0 →
    (peer = true → f.hdr.mask < 65536 ∧ f.hdr.cls < 256 ∧ f.hdr.memb < 128 ∧ f.hdr.srcdev < 8) →
    (peer = false → f.hdr.mask = 0 ∧ f.hdr.cls = 0 ∧ f.hdr.memb = 0 ∧ f.hdr.uni = false ∧ f.hdr.srcdev = 0) →
    parseFrame peer f.hdr.srcdev { bytes := frameBytes peer f } = .ok { f with hdr := f.hdr.sent }

/-! ### Rules of the whole machine -/

/-- R283: while the reply area is disabled no packet is taken, a write into the aperture is discarded, and `CATAIL` and the expected offset
stay at 0 through every step. -/
def Obligations.DisabledAreaTakesNothing : Prop :=
  ∀ s : State, s.host.raen = false →
    Runs .packetTake s (fun t => t = s) ∧
    (∀ (off : BitVec 20) (data : List Byte), Runs (.apertureWrite off data) s fun t => t = s) ∧
    (s.host.catail = 0 → s.host.caexp = 0 → s.host.lastLen = 0 →
      ∀ t, step s = .next t → t.host.raen = false → t.host.catail = 0 ∧ t.host.caexp = 0 ∧ t.host.lastLen = 0)

/-- R357: through every step `CAOVRUN` and `RPTLOST` saturate at 0xFFFFFFFF, return to 0 when a reset begins (the input being good) and when `RAEN` changes from 0 to 1,
and fall at no other time. -/
def Obligations.CountersReturnAtResetOrEnable : Prop :=
  ∀ s t : State, s.host.caovrun ≤ 0xFFFFFFFF → s.host.rptlost ≤ 0xFFFFFFFF → step s = .next t →
    t.host.caovrun ≤ 0xFFFFFFFF ∧ t.host.rptlost ≤ 0xFFFFFFFF ∧
    ((s.mod.inReset = false ∧ s.mod.inputGood = true ∧ t.mod.inReset = true) ∨ (s.host.raen = false ∧ t.host.raen = true) →
      t.host.caovrun = 0 ∧ t.host.rptlost = 0) ∧
    (t.host.caovrun < s.host.caovrun ∨ t.host.rptlost < s.host.rptlost →
      t.mod.inReset = true ∨ (s.host.raen = false ∧ t.host.raen = true))

/-- R318: the boot of a package that verifies, with `RAISESVN` set and `FSVN` above `MINSVN`, raises `MINSVN` to `FSVN` before the planes run, where
the fuses take it; one that fails does not; a package with a lower `FSVN` fails at step 3 and `FW_COMMIT` refuses it with `AUTH`; no step lowers `MINSVN`. -/
def Obligations.MinSvnNeverFalls : Prop :=
  (∀ s : State, s.booting = true → verifyPackage s.nv s.bidx s.nv.slot = none → (pkgHdr s.nv.slot).fflags % 2 = 1 →
    s.nv.minSvn < (pkgHdr s.nv.slot).fsvn → s.boot.bootstep < 8 →
    Runs (.bootEnd false) s (fun t => t.nv.minSvn = (pkgHdr s.nv.slot).fsvn) ∧
    Runs .planesReleased s fun t => t.nv.minSvn = (pkgHdr s.nv.slot).fsvn ∨ t.nv = s.nv ∧ t.boot.svnBad = true) ∧
  (∀ (bad : Bool) (s : State), s.booting = true → verifyPackage s.nv s.bidx s.nv.slot ≠ none →
    Runs (.bootEnd bad) s fun t => t.nv.minSvn = s.nv.minSvn) ∧
  (∀ (bad : Bool) (s : State), s.booting = true → (pkgHdr s.nv.slot).fsvn < s.nv.minSvn →
    Runs (.bootEnd bad) s fun t => t.boot.recmode = true ∧ t.boot.bootstep = 2) ∧
  (∀ (p : Packet) (c : Held) (s : State), s.AtHead 0x0A03 p c → s.jobsOpen = 0 → s.host.programming = none →
    (pkgHdr (memReadN s.host.staging 0 (min (fieldAt p.params 0 4) stagingSize))).fsvn < s.nv.minSvn →
    Runs (.fwCommit p) s fun t => t.Answered c .auth [] ∧ t.host.programming = none ∧ t.nv = s.nv) ∧
  ∀ s t : State, step s = .next t → s.nv.minSvn ≤ t.nv.minSvn

/-- R321: before the planes are released the boot writes the partition registers from the manifest of the slot and sets their lock; from then
until a reset no command and no event changes them. -/
def Obligations.PartitionStaysLocked : Prop :=
  (∀ s : State, s.booting = true → s.boot.bootstep < 8 → verifyPackage s.nv s.bidx s.nv.slot = none →
    Runs .planesReleased s fun t => t.part = partOf (pkgManifest s.nv.slot) s.bidx ∧ t.part.locked = true ∧ 8 ≤ t.boot.bootstep) ∧
  ∀ s t : State, s.part.locked = true → (s.booting = false ∨ 8 ≤ s.boot.bootstep) → step s = .next t →
    t.part = s.part ∨ t.mod.inReset = true

/-- R40: a fixed-order sum whose terms include special values has the result of the first rule that applies, wherever the special terms stand:
a NaN gives the canonical NaN, infinities of both signs the canonical NaN, infinities of one sign that infinity; otherwise it is the
sum rounded addition by addition.  A dot product is such a sum of its products, and keeps the flags of every product. -/
def Obligations.SpecialTermsDecideSums : Prop :=
  (∀ r c : List W32,
    let ps := (r.zip c).map fun ab => mulFx true (fx ab.1) (fx ab.2)
    (dot r c).1 = (fsum (ps.map (·.1))).1 ∧
    ((∃ p ∈ ps, isNaN p.1 = true) → (dot r c).1 = 0x7FC00000 ∧ (dot r c).2.getLsbD 0 = true ∧
      ((∃ p ∈ ps, p.2.getLsbD 1 = true) → (dot r c).2.getLsbD 1 = true))) ∧
  ∀ ws : List W32,
    ((∃ w ∈ ws, isNaN w = true) → (fsum ws).1 = 0x7FC00000) ∧
    ((∀ w ∈ ws, isNaN w = false) → 0x7F800000 ∈ ws → 0xFF800000 ∈ ws → (fsum ws).1 = 0x7FC00000) ∧
    ((∀ w ∈ ws, isNaN w = false) → 0x7F800000 ∈ ws → 0xFF800000 ∉ ws → (fsum ws).1 = 0x7F800000) ∧
    ((∀ w ∈ ws, isNaN w = false) → 0xFF800000 ∈ ws → 0x7F800000 ∉ ws → (fsum ws).1 = 0xFF800000) ∧
    ((∀ w ∈ ws, isFinite w = true) → (fsum ws).1 = ws.foldl (fun s w => (fadd s w).1) 0)

/-- R75, R77, R111: a plane that takes the opening of a job stands at step 0 and generation 0, every word of both copies is +0, and every block
has zero statistics buffers, identity roots, and maps that name buffer 0 for L and buffer 1 for R. -/
def Obligations.OpenedSharesStartFromZero : Prop :=
  ∀ (k : PlaneIx) (x : PlaneCmd) (rest : List PlaneCmd) (o : Held) (j : Job) (s : State), s.TakesNext k x rest o →
    x.pkt.opcode = 0x0203 → s.findJob x.pkt.job = some j → j.id = x.pkt.job → j.st = .loading → s.pjob k x.pkt.job = none →
    let b := blockEdge j.hdr.prec
    Runs (.planeCommandTake k) s fun t => t.Answered o .ok o.extra ∧ ∃ pj, t.pjob k x.pkt.job = some pj ∧
      pj.orec.step = 0 ∧ pj.orec.gen = 0 ∧ pj.orec.updates = 0 ∧ pj.orec.lscale = j.hdr.opt.lsinit ∧ pj.opt = j.hdr.opt ∧
      pj.syncs = List.replicate j.hdr.syncn 0 ∧ pj.fs = .loading ∧
      ∀ n h, pj.findShare n = some h → (∀ a ∈ h.ind ++ h.sub, ∀ w ∈ a, w = 0) ∧ h.sel = false ∧
        ∀ q ∈ h.kblocks, (∀ w ∈ q.buf0 ++ q.buf1 ++ q.buf2, w = 0) ∧ q.mapL = 0 ∧ q.mapR = 1 ∧
          q.buf0.length = b * b ∧ q.buf1.length = b * b ∧ q.buf2.length = b * b ∧ q.ql.length = b * b ∧ q.qr = q.ql ∧
          ∀ r c, r < b → c < b → q.ql[r * b + c]? = some (if r = c then 0x3F800000 else 0)
end

