-- ==== Sys2Proof/Laws/Bytes.lean ====
section
/-! SUPPORT. Little-endian fields (R4): lengths, bounds, and that a field read back is the value written. -/
namespace Sys2Proof.Machine

@[simp] theorem leBytes_length (n v : Nat) : (leBytes n v).length = n := by
  induction n generalizing v with
  | zero => rfl
  | succ n ih => simp [leBytes, ih]

theorem leNat_lt (bs : List Byte) : leNat bs < 256 ^ bs.length := by
  induction bs with
  | nil => simp [leNat]
  | cons b bs ih =>
    have := b.isLt
    simp only [leNat, List.length_cons, Nat.pow_succ]
    omega

theorem leNat_leBytes (n v : Nat) : leNat (leBytes n v) = v % 256 ^ n := by
  induction n generalizing v with
  | zero => simp [leBytes, leNat, Nat.mod_one]
  | succ n ih =>
    simp only [leBytes, leNat, ih, BitVec.toNat_ofNat]
    rw [Nat.pow_succ 256 n, Nat.mul_comm (256 ^ n) 256, Nat.mod_mul]

theorem leNat_leBytes_of_lt {n v : Nat} (h : v < 256 ^ n) : leNat (leBytes n v) = v := by
  rw [leNat_leBytes, Nat.mod_eq_of_lt h]

@[simp] theorem zeros_length (n : Nat) : (zeros n).length = n := by simp [zeros]

@[simp] theorem fixLen_length (n : Nat) (bs : List Byte) : (fixLen n bs).length = n := by
  simp [fixLen]; omega

@[simp] theorem slice_length (bs : List Byte) (off n : Nat) : (slice bs off n).length = n := by simp [slice]

theorem fieldAt_lt (bs : List Byte) (off n : Nat) : fieldAt bs off n < 256 ^ n := by
  have := leNat_lt (slice bs off n)
  simpa [fieldAt] using this

/-- A field that lies after a prefix. -/
theorem fieldAt_append_right (a b : List Byte) (off n : Nat) : fieldAt (a ++ b) (a.length + off) n = fieldAt b off n := by
  have : a.drop (a.length + off) = [] := List.drop_eq_nil_of_le (by omega)
  simp [fieldAt, slice, List.drop_append, this]

/-- A field that lies at the start. -/
theorem fieldAt_leBytes_append (n v : Nat) (b : List Byte) : fieldAt (leBytes n v ++ b) 0 n = v % 256 ^ n := by
  rw [← leNat_leBytes]
  simp [fieldAt, slice, fixLen]

end Sys2Proof.Machine
end

