-- ==== Sys2Proof/Laws/State.lean ====
section
/-! SUPPORT. What the named updates of the state leave alone: one lemma per field per update, and what a read gives after an update of the same place. -/
namespace Sys2Proof.Machine

@[simp] theorem State.setPlane_pending (s : State) (k : PlaneIx) (p : Plane) : (s.setPlane k p).pending = s.pending := rfl
@[simp] theorem State.setPlane_fresh (s : State) (k : PlaneIx) (p : Plane) : (s.setPlane k p).fresh = s.fresh := rfl
@[simp] theorem State.setPlane_nv (s : State) (k : PlaneIx) (p : Plane) : (s.setPlane k p).nv = s.nv := rfl
@[simp] theorem State.setPlane_mod (s : State) (k : PlaneIx) (p : Plane) : (s.setPlane k p).mod = s.mod := rfl
@[simp] theorem State.setPlane_boot (s : State) (k : PlaneIx) (p : Plane) : (s.setPlane k p).boot = s.boot := rfl
@[simp] theorem State.setPlane_part (s : State) (k : PlaneIx) (p : Plane) : (s.setPlane k p).part = s.part := rfl
@[simp] theorem State.setPlane_host (s : State) (k : PlaneIx) (p : Plane) : (s.setPlane k p).host = s.host := rfl
@[simp] theorem State.setPlane_comb (s : State) (k : PlaneIx) (p : Plane) : (s.setPlane k p).comb = s.comb := rfl
@[simp] theorem State.setPlane_groups (s : State) (k : PlaneIx) (p : Plane) : (s.setPlane k p).groups = s.groups := rfl
@[simp] theorem State.setPlane_jobs (s : State) (k : PlaneIx) (p : Plane) : (s.setPlane k p).jobs = s.jobs := rfl
@[simp] theorem State.setPlane_out (s : State) (k : PlaneIx) (p : Plane) : (s.setPlane k p).out = s.out := rfl

@[simp] theorem State.updPlane_pending (s : State) (k : PlaneIx) (f : Plane → Plane) : (s.updPlane k f).pending = s.pending := rfl
@[simp] theorem State.updPlane_fresh (s : State) (k : PlaneIx) (f : Plane → Plane) : (s.updPlane k f).fresh = s.fresh := rfl
@[simp] theorem State.updPlane_nv (s : State) (k : PlaneIx) (f : Plane → Plane) : (s.updPlane k f).nv = s.nv := rfl
@[simp] theorem State.updPlane_mod (s : State) (k : PlaneIx) (f : Plane → Plane) : (s.updPlane k f).mod = s.mod := rfl
@[simp] theorem State.updPlane_boot (s : State) (k : PlaneIx) (f : Plane → Plane) : (s.updPlane k f).boot = s.boot := rfl
@[simp] theorem State.updPlane_part (s : State) (k : PlaneIx) (f : Plane → Plane) : (s.updPlane k f).part = s.part := rfl
@[simp] theorem State.updPlane_host (s : State) (k : PlaneIx) (f : Plane → Plane) : (s.updPlane k f).host = s.host := rfl
@[simp] theorem State.updPlane_comb (s : State) (k : PlaneIx) (f : Plane → Plane) : (s.updPlane k f).comb = s.comb := rfl
@[simp] theorem State.updPlane_groups (s : State) (k : PlaneIx) (f : Plane → Plane) : (s.updPlane k f).groups = s.groups := rfl
@[simp] theorem State.updPlane_jobs (s : State) (k : PlaneIx) (f : Plane → Plane) : (s.updPlane k f).jobs = s.jobs := rfl
@[simp] theorem State.updPlane_out (s : State) (k : PlaneIx) (f : Plane → Plane) : (s.updPlane k f).out = s.out := rfl

@[simp] theorem State.updLane_pending (s : State) (d : DevLane) (f : Lane → Lane) : (s.updLane d f).pending = s.pending := rfl
@[simp] theorem State.updLane_fresh (s : State) (d : DevLane) (f : Lane → Lane) : (s.updLane d f).fresh = s.fresh := rfl
@[simp] theorem State.updLane_nv (s : State) (d : DevLane) (f : Lane → Lane) : (s.updLane d f).nv = s.nv := rfl
@[simp] theorem State.updLane_mod (s : State) (d : DevLane) (f : Lane → Lane) : (s.updLane d f).mod = s.mod := rfl
@[simp] theorem State.updLane_boot (s : State) (d : DevLane) (f : Lane → Lane) : (s.updLane d f).boot = s.boot := rfl
@[simp] theorem State.updLane_part (s : State) (d : DevLane) (f : Lane → Lane) : (s.updLane d f).part = s.part := rfl
@[simp] theorem State.updLane_host (s : State) (d : DevLane) (f : Lane → Lane) : (s.updLane d f).host = s.host := rfl
@[simp] theorem State.updLane_comb (s : State) (d : DevLane) (f : Lane → Lane) : (s.updLane d f).comb = s.comb := rfl
@[simp] theorem State.updLane_groups (s : State) (d : DevLane) (f : Lane → Lane) : (s.updLane d f).groups = s.groups := rfl
@[simp] theorem State.updLane_jobs (s : State) (d : DevLane) (f : Lane → Lane) : (s.updLane d f).jobs = s.jobs := rfl
@[simp] theorem State.updLane_out (s : State) (d : DevLane) (f : Lane → Lane) : (s.updLane d f).out = s.out := rfl

@[simp] theorem State.laneCtr_pending (s : State) (d : DevLane) (c : LCtr) (n : Nat) : (s.laneCtr d c n).pending = s.pending := rfl
@[simp] theorem State.laneCtr_fresh (s : State) (d : DevLane) (c : LCtr) (n : Nat) : (s.laneCtr d c n).fresh = s.fresh := rfl
@[simp] theorem State.laneCtr_nv (s : State) (d : DevLane) (c : LCtr) (n : Nat) : (s.laneCtr d c n).nv = s.nv := rfl
@[simp] theorem State.laneCtr_mod (s : State) (d : DevLane) (c : LCtr) (n : Nat) : (s.laneCtr d c n).mod = s.mod := rfl
@[simp] theorem State.laneCtr_boot (s : State) (d : DevLane) (c : LCtr) (n : Nat) : (s.laneCtr d c n).boot = s.boot := rfl
@[simp] theorem State.laneCtr_part (s : State) (d : DevLane) (c : LCtr) (n : Nat) : (s.laneCtr d c n).part = s.part := rfl
@[simp] theorem State.laneCtr_host (s : State) (d : DevLane) (c : LCtr) (n : Nat) : (s.laneCtr d c n).host = s.host := rfl
@[simp] theorem State.laneCtr_comb (s : State) (d : DevLane) (c : LCtr) (n : Nat) : (s.laneCtr d c n).comb = s.comb := rfl
@[simp] theorem State.laneCtr_groups (s : State) (d : DevLane) (c : LCtr) (n : Nat) : (s.laneCtr d c n).groups = s.groups := rfl
@[simp] theorem State.laneCtr_jobs (s : State) (d : DevLane) (c : LCtr) (n : Nat) : (s.laneCtr d c n).jobs = s.jobs := rfl
@[simp] theorem State.laneCtr_out (s : State) (d : DevLane) (c : LCtr) (n : Nat) : (s.laneCtr d c n).out = s.out := rfl

@[simp] theorem State.planeCtr_pending (s : State) (k : PlaneIx) (c : PCtr) (n : Nat) : (s.planeCtr k c n).pending = s.pending := rfl
@[simp] theorem State.planeCtr_fresh (s : State) (k : PlaneIx) (c : PCtr) (n : Nat) : (s.planeCtr k c n).fresh = s.fresh := rfl
@[simp] theorem State.planeCtr_nv (s : State) (k : PlaneIx) (c : PCtr) (n : Nat) : (s.planeCtr k c n).nv = s.nv := rfl
@[simp] theorem State.planeCtr_mod (s : State) (k : PlaneIx) (c : PCtr) (n : Nat) : (s.planeCtr k c n).mod = s.mod := rfl
@[simp] theorem State.planeCtr_boot (s : State) (k : PlaneIx) (c : PCtr) (n : Nat) : (s.planeCtr k c n).boot = s.boot := rfl
@[simp] theorem State.planeCtr_part (s : State) (k : PlaneIx) (c : PCtr) (n : Nat) : (s.planeCtr k c n).part = s.part := rfl
@[simp] theorem State.planeCtr_host (s : State) (k : PlaneIx) (c : PCtr) (n : Nat) : (s.planeCtr k c n).host = s.host := rfl
@[simp] theorem State.planeCtr_comb (s : State) (k : PlaneIx) (c : PCtr) (n : Nat) : (s.planeCtr k c n).comb = s.comb := rfl
@[simp] theorem State.planeCtr_groups (s : State) (k : PlaneIx) (c : PCtr) (n : Nat) : (s.planeCtr k c n).groups = s.groups := rfl
@[simp] theorem State.planeCtr_jobs (s : State) (k : PlaneIx) (c : PCtr) (n : Nat) : (s.planeCtr k c n).jobs = s.jobs := rfl
@[simp] theorem State.planeCtr_out (s : State) (k : PlaneIx) (c : PCtr) (n : Nat) : (s.planeCtr k c n).out = s.out := rfl

@[simp] theorem State.updPJob_pending (s : State) (k : PlaneIx) (id : Nat) (f : PJob → PJob) : (s.updPJob k id f).pending = s.pending := rfl
@[simp] theorem State.updPJob_fresh (s : State) (k : PlaneIx) (id : Nat) (f : PJob → PJob) : (s.updPJob k id f).fresh = s.fresh := rfl
@[simp] theorem State.updPJob_nv (s : State) (k : PlaneIx) (id : Nat) (f : PJob → PJob) : (s.updPJob k id f).nv = s.nv := rfl
@[simp] theorem State.updPJob_mod (s : State) (k : PlaneIx) (id : Nat) (f : PJob → PJob) : (s.updPJob k id f).mod = s.mod := rfl
@[simp] theorem State.updPJob_boot (s : State) (k : PlaneIx) (id : Nat) (f : PJob → PJob) : (s.updPJob k id f).boot = s.boot := rfl
@[simp] theorem State.updPJob_part (s : State) (k : PlaneIx) (id : Nat) (f : PJob → PJob) : (s.updPJob k id f).part = s.part := rfl
@[simp] theorem State.updPJob_host (s : State) (k : PlaneIx) (id : Nat) (f : PJob → PJob) : (s.updPJob k id f).host = s.host := rfl
@[simp] theorem State.updPJob_comb (s : State) (k : PlaneIx) (id : Nat) (f : PJob → PJob) : (s.updPJob k id f).comb = s.comb := rfl
@[simp] theorem State.updPJob_groups (s : State) (k : PlaneIx) (id : Nat) (f : PJob → PJob) : (s.updPJob k id f).groups = s.groups := rfl
@[simp] theorem State.updPJob_jobs (s : State) (k : PlaneIx) (id : Nat) (f : PJob → PJob) : (s.updPJob k id f).jobs = s.jobs := rfl
@[simp] theorem State.updPJob_out (s : State) (k : PlaneIx) (id : Nat) (f : PJob → PJob) : (s.updPJob k id f).out = s.out := rfl

@[simp] theorem State.updShare_pending (s : State) (k : PlaneIx) (id b : Nat) (f : Share → Share) : (s.updShare k id b f).pending = s.pending := rfl
@[simp] theorem State.updShare_fresh (s : State) (k : PlaneIx) (id b : Nat) (f : Share → Share) : (s.updShare k id b f).fresh = s.fresh := rfl
@[simp] theorem State.updShare_nv (s : State) (k : PlaneIx) (id b : Nat) (f : Share → Share) : (s.updShare k id b f).nv = s.nv := rfl
@[simp] theorem State.updShare_mod (s : State) (k : PlaneIx) (id b : Nat) (f : Share → Share) : (s.updShare k id b f).mod = s.mod := rfl
@[simp] theorem State.updShare_boot (s : State) (k : PlaneIx) (id b : Nat) (f : Share → Share) : (s.updShare k id b f).boot = s.boot := rfl
@[simp] theorem State.updShare_part (s : State) (k : PlaneIx) (id b : Nat) (f : Share → Share) : (s.updShare k id b f).part = s.part := rfl
@[simp] theorem State.updShare_host (s : State) (k : PlaneIx) (id b : Nat) (f : Share → Share) : (s.updShare k id b f).host = s.host := rfl
@[simp] theorem State.updShare_comb (s : State) (k : PlaneIx) (id b : Nat) (f : Share → Share) : (s.updShare k id b f).comb = s.comb := rfl
@[simp] theorem State.updShare_groups (s : State) (k : PlaneIx) (id b : Nat) (f : Share → Share) : (s.updShare k id b f).groups = s.groups := rfl
@[simp] theorem State.updShare_jobs (s : State) (k : PlaneIx) (id b : Nat) (f : Share → Share) : (s.updShare k id b f).jobs = s.jobs := rfl
@[simp] theorem State.updShare_out (s : State) (k : PlaneIx) (id b : Nat) (f : Share → Share) : (s.updShare k id b f).out = s.out := rfl

@[simp] theorem State.updJob_pending (s : State) (id : Nat) (f : Job → Job) : (s.updJob id f).pending = s.pending := rfl
@[simp] theorem State.updJob_fresh (s : State) (id : Nat) (f : Job → Job) : (s.updJob id f).fresh = s.fresh := rfl
@[simp] theorem State.updJob_nv (s : State) (id : Nat) (f : Job → Job) : (s.updJob id f).nv = s.nv := rfl
@[simp] theorem State.updJob_mod (s : State) (id : Nat) (f : Job → Job) : (s.updJob id f).mod = s.mod := rfl
@[simp] theorem State.updJob_boot (s : State) (id : Nat) (f : Job → Job) : (s.updJob id f).boot = s.boot := rfl
@[simp] theorem State.updJob_part (s : State) (id : Nat) (f : Job → Job) : (s.updJob id f).part = s.part := rfl
@[simp] theorem State.updJob_host (s : State) (id : Nat) (f : Job → Job) : (s.updJob id f).host = s.host := rfl
@[simp] theorem State.updJob_comb (s : State) (id : Nat) (f : Job → Job) : (s.updJob id f).comb = s.comb := rfl
@[simp] theorem State.updJob_groups (s : State) (id : Nat) (f : Job → Job) : (s.updJob id f).groups = s.groups := rfl
@[simp] theorem State.updJob_planes (s : State) (id : Nat) (f : Job → Job) : (s.updJob id f).planes = s.planes := rfl
@[simp] theorem State.updJob_out (s : State) (id : Nat) (f : Job → Job) : (s.updJob id f).out = s.out := rfl

@[simp] theorem State.updHost_pending (s : State) (f : HostPort → HostPort) : (s.updHost f).pending = s.pending := rfl
@[simp] theorem State.updHost_fresh (s : State) (f : HostPort → HostPort) : (s.updHost f).fresh = s.fresh := rfl
@[simp] theorem State.updHost_nv (s : State) (f : HostPort → HostPort) : (s.updHost f).nv = s.nv := rfl
@[simp] theorem State.updHost_mod (s : State) (f : HostPort → HostPort) : (s.updHost f).mod = s.mod := rfl
@[simp] theorem State.updHost_boot (s : State) (f : HostPort → HostPort) : (s.updHost f).boot = s.boot := rfl
@[simp] theorem State.updHost_part (s : State) (f : HostPort → HostPort) : (s.updHost f).part = s.part := rfl
@[simp] theorem State.updHost_comb (s : State) (f : HostPort → HostPort) : (s.updHost f).comb = s.comb := rfl
@[simp] theorem State.updHost_groups (s : State) (f : HostPort → HostPort) : (s.updHost f).groups = s.groups := rfl
@[simp] theorem State.updHost_jobs (s : State) (f : HostPort → HostPort) : (s.updHost f).jobs = s.jobs := rfl
@[simp] theorem State.updHost_planes (s : State) (f : HostPort → HostPort) : (s.updHost f).planes = s.planes := rfl
@[simp] theorem State.updHost_out (s : State) (f : HostPort → HostPort) : (s.updHost f).out = s.out := rfl

@[simp] theorem State.updHeld_pending (s : State) (id : Nat) (f : Held → Held) : (s.updHeld id f).pending = s.pending := rfl
@[simp] theorem State.updHeld_fresh (s : State) (id : Nat) (f : Held → Held) : (s.updHeld id f).fresh = s.fresh := rfl
@[simp] theorem State.updHeld_nv (s : State) (id : Nat) (f : Held → Held) : (s.updHeld id f).nv = s.nv := rfl
@[simp] theorem State.updHeld_mod (s : State) (id : Nat) (f : Held → Held) : (s.updHeld id f).mod = s.mod := rfl
@[simp] theorem State.updHeld_boot (s : State) (id : Nat) (f : Held → Held) : (s.updHeld id f).boot = s.boot := rfl
@[simp] theorem State.updHeld_part (s : State) (id : Nat) (f : Held → Held) : (s.updHeld id f).part = s.part := rfl
@[simp] theorem State.updHeld_comb (s : State) (id : Nat) (f : Held → Held) : (s.updHeld id f).comb = s.comb := rfl
@[simp] theorem State.updHeld_groups (s : State) (id : Nat) (f : Held → Held) : (s.updHeld id f).groups = s.groups := rfl
@[simp] theorem State.updHeld_jobs (s : State) (id : Nat) (f : Held → Held) : (s.updHeld id f).jobs = s.jobs := rfl
@[simp] theorem State.updHeld_planes (s : State) (id : Nat) (f : Held → Held) : (s.updHeld id f).planes = s.planes := rfl
@[simp] theorem State.updHeld_out (s : State) (id : Nat) (f : Held → Held) : (s.updHeld id f).out = s.out := rfl

@[simp] theorem State.answer_pending (s : State) (id : Nat) (st : Status) (pl : List Byte) (pm : Byte) : (s.answer id st pl pm).pending = s.pending := rfl
@[simp] theorem State.answer_fresh (s : State) (id : Nat) (st : Status) (pl : List Byte) (pm : Byte) : (s.answer id st pl pm).fresh = s.fresh := rfl
@[simp] theorem State.answer_nv (s : State) (id : Nat) (st : Status) (pl : List Byte) (pm : Byte) : (s.answer id st pl pm).nv = s.nv := rfl
@[simp] theorem State.answer_mod (s : State) (id : Nat) (st : Status) (pl : List Byte) (pm : Byte) : (s.answer id st pl pm).mod = s.mod := rfl
@[simp] theorem State.answer_boot (s : State) (id : Nat) (st : Status) (pl : List Byte) (pm : Byte) : (s.answer id st pl pm).boot = s.boot := rfl
@[simp] theorem State.answer_part (s : State) (id : Nat) (st : Status) (pl : List Byte) (pm : Byte) : (s.answer id st pl pm).part = s.part := rfl
@[simp] theorem State.answer_comb (s : State) (id : Nat) (st : Status) (pl : List Byte) (pm : Byte) : (s.answer id st pl pm).comb = s.comb := rfl
@[simp] theorem State.answer_groups (s : State) (id : Nat) (st : Status) (pl : List Byte) (pm : Byte) : (s.answer id st pl pm).groups = s.groups := rfl
@[simp] theorem State.answer_jobs (s : State) (id : Nat) (st : Status) (pl : List Byte) (pm : Byte) : (s.answer id st pl pm).jobs = s.jobs := rfl
@[simp] theorem State.answer_planes (s : State) (id : Nat) (st : Status) (pl : List Byte) (pm : Byte) : (s.answer id st pl pm).planes = s.planes := rfl
@[simp] theorem State.answer_out (s : State) (id : Nat) (st : Status) (pl : List Byte) (pm : Byte) : (s.answer id st pl pm).out = s.out := rfl

@[simp] theorem State.arith_pending (s : State) (k : PlaneIx) (job : Nat) (unit fl : W32) : (s.arith k job unit fl).pending = s.pending := rfl
@[simp] theorem State.arith_fresh (s : State) (k : PlaneIx) (job : Nat) (unit fl : W32) : (s.arith k job unit fl).fresh = s.fresh := rfl
@[simp] theorem State.arith_nv (s : State) (k : PlaneIx) (job : Nat) (unit fl : W32) : (s.arith k job unit fl).nv = s.nv := rfl
@[simp] theorem State.arith_mod (s : State) (k : PlaneIx) (job : Nat) (unit fl : W32) : (s.arith k job unit fl).mod = s.mod := rfl
@[simp] theorem State.arith_boot (s : State) (k : PlaneIx) (job : Nat) (unit fl : W32) : (s.arith k job unit fl).boot = s.boot := rfl
@[simp] theorem State.arith_part (s : State) (k : PlaneIx) (job : Nat) (unit fl : W32) : (s.arith k job unit fl).part = s.part := rfl
@[simp] theorem State.arith_host (s : State) (k : PlaneIx) (job : Nat) (unit fl : W32) : (s.arith k job unit fl).host = s.host := rfl
@[simp] theorem State.arith_comb (s : State) (k : PlaneIx) (job : Nat) (unit fl : W32) : (s.arith k job unit fl).comb = s.comb := rfl
@[simp] theorem State.arith_groups (s : State) (k : PlaneIx) (job : Nat) (unit fl : W32) : (s.arith k job unit fl).groups = s.groups := rfl
@[simp] theorem State.arith_jobs (s : State) (k : PlaneIx) (job : Nat) (unit fl : W32) : (s.arith k job unit fl).jobs = s.jobs := rfl
@[simp] theorem State.arith_out (s : State) (k : PlaneIx) (job : Nat) (unit fl : W32) : (s.arith k job unit fl).out = s.out := rfl

@[simp] theorem State.fmtRej_pending (s : State) (k : PlaneIx) : (s.fmtRej k).pending = s.pending := rfl
@[simp] theorem State.fmtRej_fresh (s : State) (k : PlaneIx) : (s.fmtRej k).fresh = s.fresh := rfl
@[simp] theorem State.fmtRej_nv (s : State) (k : PlaneIx) : (s.fmtRej k).nv = s.nv := rfl
@[simp] theorem State.fmtRej_mod (s : State) (k : PlaneIx) : (s.fmtRej k).mod = s.mod := rfl
@[simp] theorem State.fmtRej_boot (s : State) (k : PlaneIx) : (s.fmtRej k).boot = s.boot := rfl
@[simp] theorem State.fmtRej_part (s : State) (k : PlaneIx) : (s.fmtRej k).part = s.part := rfl
@[simp] theorem State.fmtRej_host (s : State) (k : PlaneIx) : (s.fmtRej k).host = s.host := rfl
@[simp] theorem State.fmtRej_comb (s : State) (k : PlaneIx) : (s.fmtRej k).comb = s.comb := rfl
@[simp] theorem State.fmtRej_groups (s : State) (k : PlaneIx) : (s.fmtRej k).groups = s.groups := rfl
@[simp] theorem State.fmtRej_jobs (s : State) (k : PlaneIx) : (s.fmtRej k).jobs = s.jobs := rfl
@[simp] theorem State.fmtRej_out (s : State) (k : PlaneIx) : (s.fmtRej k).out = s.out := rfl

@[simp] theorem plane_setPlane_same (s : State) (k : PlaneIx) (p : Plane) : (s.setPlane k p).plane k = p := by
  simp [State.setPlane, State.plane]

@[simp] theorem plane_setPlane_other (s : State) (j k : PlaneIx) (p : Plane) (h : j ≠ k) :
    (s.setPlane k p).plane j = s.plane j := by
  have h' : (k : Nat) ≠ j := fun e => h (Fin.ext e.symm)
  simp [State.setPlane, State.plane, h']

theorem plane_setPlane (s : State) (j k : PlaneIx) (p : Plane) :
    (s.setPlane k p).plane j = if j = k then p else s.plane j := by
  by_cases h : j = k
  · subst h; simp
  · simp [h]

@[simp] theorem plane_updPlane_same (s : State) (k : PlaneIx) (f : Plane → Plane) : (s.updPlane k f).plane k = f (s.plane k) := by
  simp [State.updPlane]

@[simp] theorem plane_updPlane_other (s : State) (j k : PlaneIx) (f : Plane → Plane) (h : j ≠ k) :
    (s.updPlane k f).plane j = s.plane j := by
  simp [State.updPlane, h]

theorem plane_updPlane (s : State) (j k : PlaneIx) (f : Plane → Plane) :
    (s.updPlane k f).plane j = if j = k then f (s.plane k) else s.plane j := by
  simp [State.updPlane, plane_setPlane]

@[simp] theorem State.updHost_host (s : State) (f : HostPort → HostPort) : (s.updHost f).host = f s.host := rfl

@[simp] theorem State.updHost_plane (s : State) (f : HostPort → HostPort) (k : PlaneIx) : (s.updHost f).plane k = s.plane k := rfl

@[simp] theorem State.updHeld_plane (s : State) (id : Nat) (f : Held → Held) (k : PlaneIx) :
    (s.updHeld id f).plane k = s.plane k := rfl

@[simp] theorem State.answer_plane (s : State) (id : Nat) (st : Status) (pl : List Byte) (pm : Byte) (k : PlaneIx) :
    (s.answer id st pl pm).plane k = s.plane k := rfl

@[simp] theorem State.updJob_plane (s : State) (id : Nat) (f : Job → Job) (k : PlaneIx) :
    (s.updJob id f).plane k = s.plane k := rfl

@[simp] theorem State.each_nil {α : Type} (s : State) (f : State → α → State) : s.each [] f = s := rfl

@[simp] theorem State.each_cons {α : Type} (s : State) (a : α) (l : List α) (f : State → α → State) :
    s.each (a :: l) f = (f s a).each l f := rfl

theorem find?_map_same {α : Type} (p : α → Bool) (f : α → α) (hf : ∀ a, p a = true → p (f a) = true) : ∀ (l : List α),
    (l.map fun a => if p a then f a else a).find? p = (l.find? p).map f
  | [] => rfl
  | a :: l => by
    by_cases h : p a = true
    · simp [h, hf a h]
    · simp [h, find?_map_same p f hf l]

/-- A job after an update of its record that keeps its identifier. -/
theorem findJob_updJob (s : State) (id : Nat) (f : Job → Job) (hf : ∀ j, (f j).id = j.id) :
    (s.updJob id f).findJob id = (s.findJob id).map f :=
  find?_map_same _ f (fun a h => by rw [hf]; exact h) s.jobs

/-- A job of a plane after an update of its record that keeps its identifier. -/
theorem findPJob_updPJob (p : Plane) (id : Nat) (f : PJob → PJob) (hf : ∀ j, (f j).id = j.id) :
    (p.updPJob id f).findPJob id = (p.findPJob id).map f :=
  find?_map_same _ f (fun a h => by rw [hf]; exact h) p.jobs

theorem pjob_updPJob_same (s : State) (k : PlaneIx) (id : Nat) (f : PJob → PJob) (hf : ∀ j, (f j).id = j.id) :
    (s.updPJob k id f).pjob k id = (s.pjob k id).map f := by
  simp only [State.pjob, State.updPJob, plane_updPlane_same]
  exact findPJob_updPJob _ _ _ hf

theorem pjob_updPJob_other (s : State) (j k : PlaneIx) (id i : Nat) (f : PJob → PJob) (h : j ≠ k) :
    (s.updPJob k id f).pjob j i = s.pjob j i := by
  simp only [State.pjob, State.updPJob, plane_updPlane_other _ _ _ _ h]

end Sys2Proof.Machine
end

