-- ==== Sys2Proof/Laws/Host.lean ====
section
/-! SUPPORT. What the dispatcher's shared operations do: executing the head command, answering a held command, and handing one to planes. -/
namespace Sys2Proof.Machine

theorem State.AtHead.mem {s : State} {op : Nat} {p : Packet} {c : Held} (h : s.AtHead op p c) : c ∈ s.host.held := by
  have h1 := h.1
  unfold HostPort.head at h1
  split at h1
  · cases h1
  · exact List.mem_of_find?_eq_some h1

/-- While a command is at the dispatcher's head, no command waits for room in a Command in queue (R21). -/
theorem State.AtHead.left_nil {s : State} {op : Nat} {p : Packet} {c : Held} (h : s.AtHead op p c) : c.left = [] := by
  have h1 := h.1
  unfold HostPort.head at h1
  split at h1
  · cases h1
  · next hn =>
    have hm := List.mem_of_find?_eq_some h1
    simp only [Bool.or_eq_true, not_or, Bool.not_eq_true, List.any_eq_false] at hn
    simpa using hn.2 c hm

/-- The head command is executed on the state whose tail has settled. -/
theorem State.AtHead.dispatch_eq {s : State} {op : Nat} {p : Packet} {c : Held} (h : s.AtHead op p c) (f : Held → State → State) :
    s.dispatch op p f = f c (s.updHost HostPort.settleTail) := by
  simp [State.dispatch, h.1, h.2.1, h.2.2.1]

@[simp] theorem HostPort.settleTail_held (h : HostPort) : h.settleTail.held = h.held := by
  unfold HostPort.settleTail; split <;> rfl

/-- Settling the tail changes the tail alone. -/
theorem HostPort.settleTail_eq (h : HostPort) : h.settleTail = { h with catail := h.settleTail.catail, lastLen := 0 } := by
  unfold HostPort.settleTail
  split
  · next e => rw [← e]
  · rfl

@[simp] theorem HostPort.endDrain_held (h : HostPort) : h.endDrain.held = h.held := by
  unfold HostPort.endDrain; split <;> rfl

/-- Completing another command leaves alone the entries of number `i`. -/
theorem HostPort.complete_other (h : HostPort) (i id : Nat) (st : Status) (pm : Byte) (pl : List Byte) (hi : i ≠ id) (o : Held)
    (ho : o.id = i) : o ∈ (h.complete id st pm pl).held ↔ o ∈ h.held := by
  unfold HostPort.complete
  split
  · rfl
  · next c hc =>
    have hcid : c.id = id := by simpa using List.find?_some hc
    split
    · simp [ho, hi]
    · simp only [List.mem_append, List.mem_filter, List.mem_singleton]
      constructor
      · rintro (h1 | rfl)
        · exact h1.1
        · exact absurd (hcid.symm.trans ho).symm hi
      · intro h1; left; simp [h1, ho, hi]

/-- Completing barriers leaves alone the entries of a number that no waiting command has. -/
theorem HostPort.barriersFuel_other (n i : Nat) : ∀ h : HostPort, (∀ o ∈ h.held, o.id = i → o.phase ≠ .waiting) →
    ∀ o : Held, o.id = i → (o ∈ (HostPort.barriersFuel n h).held ↔ o ∈ h.held) := by
  induction n with
  | zero => intro h _ o _; rfl
  | succ n ih =>
    intro h hw o ho
    unfold HostPort.barriersFuel
    split
    · rfl
    · next c hc =>
      have hm := List.mem_of_find?_eq_some hc
      have hb : barrierReady h.held c = true := by simpa using List.find?_some hc
      have hph : c.phase = .waiting := by simp [barrierReady] at hb; exact hb.1.1
      have hne : i ≠ c.id := fun e => hw c hm e.symm hph
      rw [ih]
      · exact HostPort.complete_other h i c.id .ok 0 [] hne o ho
      · intro o' ho' hi'
        exact hw o' ((HostPort.complete_other h i c.id .ok 0 [] hne o' hi').1 ho') hi'
      · exact ho

/-- Answering a held command whose number is its own alone: its reply is ready, or nothing of it is left (R284, R287). -/
theorem State.answer_answered {s : State} {c : Held} (hm : c ∈ s.host.held) (hu : ∀ o ∈ s.host.held, o.id = c.id → o = c)
    (st : Status) (pl : List Byte) (pm : Byte) : (s.answer c.id st pl pm).Answered c st pl := by
  have hf : s.host.held.find? (fun o => o.id == c.id) = some c := by
    have h1 : (s.host.held.find? (fun o => o.id == c.id)).isSome := by
      rw [List.find?_isSome]; exact ⟨c, hm, by simp⟩
    obtain ⟨x, hx⟩ := Option.isSome_iff_exists.1 h1
    rw [hx, hu x (List.mem_of_find?_eq_some hx) (by simpa using List.find?_some hx)]
  have hheld : ∀ h : HostPort, (∀ o ∈ h.held, o.id = c.id → o.phase ≠ .waiting) → ∀ o : Held, o.id = c.id →
      (o ∈ h.barriers.endDrain.held ↔ o ∈ h.held) := fun h hw o ho => by
    simpa [HostPort.barriers] using HostPort.barriersFuel_other _ c.id h hw o ho
  unfold State.Answered State.answer
  simp only [State.updHost_host]
  have hb : (c.pkt.flags.getLsbD 0 && st == .ok) = true ↔ (c.pkt.flags.getLsbD 0 = true ∧ st = .ok) := by simp
  unfold HostPort.complete
  rw [hf]
  by_cases hc : c.pkt.flags.getLsbD 0 = true ∧ st = .ok
  · simp only [if_pos hc, if_pos (hb.2 hc)]
    intro o ho hid
    rw [hheld _ (by intro o' h' hi; simp [hi] at h') o hid] at ho
    simp [hid] at ho
  · simp only [if_neg hc, if_neg (fun e => hc (hb.1 e))]
    refine ⟨_, (hheld _ ?_ _ ?_).2 (List.mem_append_right _ (List.mem_singleton.2 rfl)), rfl, rfl, _, rfl, rfl, rfl, rfl, rfl, rfl, rfl⟩
    · intro o' h' hi
      rw [List.mem_append] at h'
      rcases h' with h' | h'
      · simp [hi] at h'
      · rw [List.mem_singleton.1 h']; simp
    · rfl

/-- A command answered at once. -/
theorem State.reply_answered {s : State} {c : Held} (hm : c ∈ s.host.held) (hu : ∀ o ∈ s.host.held, o.id = c.id → o = c)
    (st : Status) (pl : List Byte) : (s.reply c st pl).Answered c st pl := State.answer_answered hm hu st pl 0

/-- Completing a command changes the list of held commands alone. -/
theorem HostPort.complete_eq (h : HostPort) (id : Nat) (st : Status) (pm : Byte) (pl : List Byte) :
    h.complete id st pm pl = { h with held := (h.complete id st pm pl).held } := by
  unfold HostPort.complete
  split
  · rfl
  · dsimp only; split <;> rfl

theorem HostPort.barriersFuel_eq (n : Nat) : ∀ h : HostPort, HostPort.barriersFuel n h = { h with held := (HostPort.barriersFuel n h).held } := by
  induction n with
  | zero => intro h; rfl
  | succ n ih =>
    intro h
    unfold HostPort.barriersFuel
    split
    · rfl
    · rw [ih, HostPort.complete_eq]

/-- Answering a command while no drain runs changes the list of held commands alone. -/
theorem State.answer_eq {s : State} (hr : s.host.radrain = false) (id : Nat) (st : Status) (pl : List Byte) (pm : Byte) :
    s.answer id st pl pm = { s with host := { s.host with held := (s.answer id st pl pm).host.held } } := by
  have h1 : ∀ h : HostPort, h.radrain = false → h.endDrain = h := by intro h hh; simp [HostPort.endDrain, hh]
  have h2 : ((s.host.complete id st pm pl).barriers).radrain = false := by
    unfold HostPort.barriers; rw [HostPort.barriersFuel_eq, HostPort.complete_eq]; exact hr
  simp only [State.answer, State.updHost]
  rw [h1 _ h2]
  unfold HostPort.barriers
  rw [HostPort.barriersFuel_eq, HostPort.complete_eq]

/-- Answering a command changes the host port block alone. -/
theorem State.answer_host (s : State) (id : Nat) (st : Status) (pl : List Byte) (pm : Byte) :
    s.answer id st pl pm = { s with host := (s.answer id st pl pm).host } := rfl

/-- Handing one command to planes that are in service: it joins each Command in queue that has room, and the planes without room are added
to what the command's record has left. -/
theorem State.each_cmdIn (x : PlaneCmd) (id : Nat) (g : State → PlaneIx → State) : ∀ (ps : List PlaneIx) (s : State), ps.Nodup →
    (∀ k ∈ ps, (s.plane k).ps = .inService) →
    let f := fun (s : State) (k : PlaneIx) =>
      if (s.plane k).ps = .inService then
        if (s.plane k).cmdIn.length < 16 then s.updPlane k fun p => { p with cmdIn := p.cmdIn ++ [x] }
        else s.updHeld id fun c => { c with left := c.left ++ [k.val] }
      else g s k
    s.each ps f = { s with
      planes := (s.each ps f).planes
      host := { s.host with held := s.host.held.map fun c =>
        if c.id == id then { c with left := c.left ++ (ps.filter fun k => !(s.plane k).cmdRoom).map (·.val) } else c } } ∧
    ∀ k, (s.each ps f).plane k = { s.plane k with
      cmdIn := (s.plane k).cmdIn ++ if k ∈ ps ∧ (s.plane k).cmdRoom = true then [x] else [] }
  | [], s, _, _ => by
    refine ⟨?_, fun k => by simp⟩
    simp [State.each]
  | a :: ps, s, hn, hs => by
    intro f
    have hne : ∀ k ∈ ps, k ≠ a := fun k hk e => (List.nodup_cons.1 hn).1 (e ▸ hk)
    have hnot : a ∉ ps := (List.nodup_cons.1 hn).1
    simp only [State.each_cons]
    by_cases hr : (s.plane a).cmdIn.length < 16
    · have ha : f s a = s.updPlane a fun p => { p with cmdIn := p.cmdIn ++ [x] } := by
        simp only [f, if_pos (hs a (by simp)), if_pos hr]
      have ih := State.each_cmdIn x id g ps (f s a) (List.nodup_cons.1 hn).2 (fun k hk => by
        rw [ha, plane_updPlane_other _ _ _ _ (hne k hk)]; exact hs k (by simp [hk]))
      have hf : (ps.filter fun k => !((f s a).plane k).cmdRoom) = ps.filter fun k => !(s.plane k).cmdRoom :=
        List.filter_congr fun k hk => by rw [ha, plane_updPlane_other _ _ _ _ (hne k hk)]
      refine ⟨?_, fun k => ?_⟩
      · rw [ih.1, hf, ha]
        have : (s.plane a).cmdRoom = true := by simp [Plane.cmdRoom, hr]
        simp [this, State.updPlane]
      · rw [ih.2 k, ha]
        by_cases h : k = a
        · subst h
          simp [hnot, Plane.cmdRoom, hr]
        · simp [plane_updPlane_other _ _ _ _ h, h]
    · have ha : f s a = s.updHeld id fun c => { c with left := c.left ++ [a.val] } := by
        simp only [f, if_pos (hs a (by simp)), if_neg hr]
      have ih := State.each_cmdIn x id g ps (f s a) (List.nodup_cons.1 hn).2 (fun k hk => by
        rw [ha]; exact hs k (by simp [hk]))
      have hroom : (s.plane a).cmdRoom = false := by simp [Plane.cmdRoom]; omega
      refine ⟨?_, fun k => ?_⟩
      · have hf : (ps.filter fun k => !((f s a).plane k).cmdRoom) = ps.filter fun k => !(s.plane k).cmdRoom := by rw [ha]; rfl
        have hcons : (a :: ps).filter (fun k => !(s.plane k).cmdRoom) = a :: ps.filter fun k => !(s.plane k).cmdRoom := by
          simp [hroom]
        rw [ih.1, hf, hcons, ha]
        simp only [State.updHeld, List.map_map, State.updHost]
        congr 2
        · congr 1
          funext c
          by_cases hc : c.id = id <;> simp [hc]
      · rw [ih.2 k, ha]
        by_cases h : k = a
        · subst h
          simp [hnot, hroom, State.updHeld]
        · simp [h, State.updHeld]

/-- A command handed to planes that are all in service waits for every one of them (R21, R291, R308). -/
theorem State.handOut_handed {s : State} {c : Held} {ps : List PlaneIx} (extra : List Byte) (h : s.Serving ps) (hn : ps.Nodup)
    (hm : c ∈ s.host.held) (hl : c.left = []) :
    (s.handOut c ps extra) = { s with host := (s.handOut c ps extra).host, planes := (s.handOut c ps extra).planes } ∧
    s.HandedTo (s.handOut c ps extra) c ps := by
  have he : ps.isEmpty = false := by simpa using h.1
  unfold State.handOut
  simp only [he]
  have hs : ∀ k ∈ ps, ((s.updHeld c.id fun _ => { c with phase := .waiting, owes := ps.map (·.val), extra := extra }).plane k).ps = .inService := h.2
  have hw := State.each_cmdIn { held := c.id, pkt := c.pkt } c.id (fun s k => s.planeAnswer c.id k .planedown []) ps _ hn hs
  refine ⟨?_, ?_, fun k => ?_⟩
  · simp only [Bool.false_eq_true, if_false]
    rw [hw.1]; rfl
  · simp only [Bool.false_eq_true, if_false]
    rw [hw.1]
    refine ⟨{ c with phase := .waiting, owes := ps.map (·.val), extra := extra, left := (ps.filter fun k => !(s.plane k).cmdRoom).map (·.val) },
      ?_, rfl, rfl, rfl, rfl, rfl⟩
    simp only [State.updHeld, State.updHost_host, List.mem_map]
    refine ⟨{ c with phase := .waiting, owes := ps.map (·.val), extra := extra }, ⟨c, hm, by simp⟩, ?_⟩
    simp [hl, State.plane]
  · exact hw.2 k

/-- The planes of a mask are distinct. -/
theorem planesOf_nodup (m : Nat) : (planesOf m).Nodup := (List.nodup_finRange 8).filter _

/-- The summary after bits are set in it (R362). -/
@[simp] theorem State.setErrsum_errsum (s : State) (bits : List Nat) :
    (s.setErrsum bits).host.errsum = s.host.errsum ||| BitVec.ofNat 32 (listMask bits) := by
  simp only [State.setErrsum]
  split
  · unfold State.msixSend; dsimp only; split <;> rfl
  · rfl

/-- A discarded access sets `BADACC` alone while vector 2 is not enabled (R351, R366). -/
theorem State.badAcc_eq {s : State} (h : s.host.errirqen = false) :
    s.badAcc = { s with host := { s.host with errsum := s.host.errsum ||| 0x10000 } } := by
  simp only [State.badAcc, State.setErrsum, esBadAcc]
  simp [h]; rfl

end Sys2Proof.Machine
end

