-- ==== Sys2Proof/Laws/Mem.lean ====
section
/-! SUPPORT. The laws of the byte memories: every operation keeps the canonical form, a read gives what was last written, and a write leaves
every other address alone. -/
namespace Sys2Proof.Machine

theorem memWfFrom_mono {lo lo' : Nat} (h : lo ≤ lo') : ∀ m : Mem, memWfFrom lo' m = true → memWfFrom lo m = true
  | [], _ => rfl
  | (k, v) :: m, hm => by
    simp only [memWfFrom, Bool.and_eq_true, decide_eq_true_eq] at hm ⊢
    exact ⟨⟨by omega, hm.1.2⟩, hm.2⟩

/-- A byte below every listed address reads as the default. -/
theorem memRead_below {lo a : Nat} (h : a < lo) : ∀ m : Mem, memWfFrom lo m = true → memRead m a = memDefault
  | [], _ => rfl
  | (k, v) :: m, hm => by
    simp only [memWfFrom, Bool.and_eq_true, decide_eq_true_eq] at hm
    have hk : k ≠ a := by omega
    simp only [memRead, if_neg hk]
    exact memRead_below (by omega : a < k + 1) m hm.2

theorem memWrite_wfFrom {lo a : Nat} (b : Byte) (h : lo ≤ a) : ∀ m : Mem, memWfFrom lo m = true →
    memWfFrom lo (memWrite m a b) = true
  | [], _ => by
    unfold memWrite
    split
    · rfl
    · simp [memWfFrom, *]
  | (k, v) :: m, hm => by
    simp only [memWfFrom, Bool.and_eq_true, decide_eq_true_eq] at hm
    unfold memWrite
    split
    · split
      · simp only [memWfFrom, Bool.and_eq_true, decide_eq_true_eq]; exact hm
      · simp only [memWfFrom, Bool.and_eq_true, decide_eq_true_eq]
        exact ⟨⟨h, by simpa using ‹¬ b = memDefault›⟩, ⟨by omega, hm.1.2⟩, hm.2⟩
    · split
      · subst a
        split
        · exact memWfFrom_mono (by omega) m hm.2
        · simp only [memWfFrom, Bool.and_eq_true, decide_eq_true_eq]
          exact ⟨⟨h, by simpa using ‹¬ b = memDefault›⟩, hm.2⟩
      · simp only [memWfFrom, Bool.and_eq_true, decide_eq_true_eq]
        exact ⟨⟨hm.1.1, hm.1.2⟩, memWrite_wfFrom b (by omega) m hm.2⟩

/-- A write keeps the canonical form. -/
theorem memWrite_wf {m : Mem} (h : Memory.wf m = true) (a : Nat) (b : Byte) : Memory.wf (memWrite m a b) = true :=
  memWrite_wfFrom b (Nat.zero_le a) m h

theorem memWriteN_wf (bs : List Byte) : ∀ {m : Mem} (a : Nat), Memory.wf m = true → Memory.wf (memWriteN m a bs) = true := by
  induction bs with
  | nil => exact fun _ h => h
  | cons b bs ih => exact fun a h => ih (a + 1) (memWrite_wf h a b)

theorem ringWrite_wf (size : Nat) (bs : List Byte) : ∀ {m : Mem} (a : Nat), Memory.wf m = true →
    Memory.wf (ringWrite m size a bs) = true := by
  induction bs with
  | nil => exact fun _ h => h
  | cons b bs ih => exact fun a h => ih (a + 1) (memWrite_wf h _ b)

theorem hostWrite_wf (base size : Nat) (bs : List Byte) : ∀ {m : Mem} (a : Nat), Memory.wf m = true →
    Memory.wf (hostWrite m base size a bs) = true := by
  induction bs with
  | nil => exact fun _ h => h
  | cons b bs ih => exact fun a h => ih (a + 1) (memWrite_wf h _ b)

/-- A write leaves every other address alone. -/
theorem memRead_memWrite_other {a c : Nat} (b : Byte) (h : c ≠ a) : ∀ m : Mem, memRead (memWrite m a b) c = memRead m c
  | [] => by
    unfold memWrite
    split
    · rfl
    · simp [memRead, h.symm]
  | (k, v) :: m => by
    unfold memWrite
    split
    · split
      · rfl
      · simp [memRead, h.symm]
    · split
      · subst a
        split
        · simp [memRead, h.symm]
        · simp [memRead, h.symm]
      · simp only [memRead]
        rw [memRead_memWrite_other b h m]

theorem memRead_memWrite_from {lo a : Nat} (b : Byte) : ∀ m : Mem, memWfFrom lo m = true → memRead (memWrite m a b) a = b
  | [], _ => by
    unfold memWrite
    split
    · exact Eq.symm ‹_›
    · simp [memRead]
  | (k, v) :: m, hm => by
    have hm' := hm
    simp only [memWfFrom, Bool.and_eq_true, decide_eq_true_eq] at hm
    unfold memWrite
    split
    · split
      · rw [memRead_below (lo := k) (by omega) _ (by
          simp only [memWfFrom, Bool.and_eq_true, decide_eq_true_eq]; exact ⟨⟨Nat.le_refl k, hm.1.2⟩, hm.2⟩)]
        exact Eq.symm ‹_›
      · simp [memRead]
    · split
      · subst a
        split
        · rw [memRead_below (by omega : k < k + 1) m hm.2]; exact Eq.symm ‹_›
        · simp [memRead]
      · have hk : k ≠ a := by omega
        simp only [memRead, if_neg hk]
        exact memRead_memWrite_from b m hm.2

/-- In a canonical memory a read gives what was written. -/
theorem memRead_memWrite_same {m : Mem} (h : Memory.wf m = true) (a : Nat) (b : Byte) : memRead (memWrite m a b) a = b :=
  memRead_memWrite_from b m h

/-- Bytes written from `a` upward leave every other address alone. -/
theorem memWriteN_other (bs : List Byte) : ∀ (m : Mem) (a x : Nat), (∀ i < bs.length, x ≠ a + i) →
    memRead (memWriteN m a bs) x = memRead m x := by
  induction bs with
  | nil => exact fun _ _ _ _ => rfl
  | cons b bs ih =>
    intro m a x h
    rw [memWriteN, ih _ _ _ fun i hi => by have := h (i + 1) (by simpa using hi); omega]
    exact memRead_memWrite_other b (h 0 (by simp)) m

/-- Bytes written from `a` upward read back. -/
theorem memWriteN_same (bs : List Byte) : ∀ (m : Mem) (a i : Nat) (_ : Memory.wf m = true) (hi : i < bs.length),
    memRead (memWriteN m a bs) (a + i) = bs[i] := by
  induction bs with
  | nil => intro _ _ _ _ hi; simp at hi
  | cons b bs ih =>
    intro m a i hm hi
    cases i with
    | zero =>
      rw [memWriteN, memWriteN_other _ _ _ _ (fun i _ => by omega)]
      exact memRead_memWrite_same hm a b
    | succ i =>
      have := ih (memWrite m a b) (a + 1) i (memWrite_wf hm a b) (by simpa using hi)
      simpa [memWriteN, Nat.add_assoc, Nat.add_comm 1 i] using this

/-- A block written reads back whole. -/
theorem memReadN_memWriteN (bs : List Byte) : ∀ {m : Mem} (_ : Memory.wf m = true) (a : Nat),
    memReadN (memWriteN m a bs) a bs.length = bs := by
  induction bs with
  | nil => intro _ _ _; rfl
  | cons b bs ih =>
    intro m hm a
    have h0 := memWriteN_same (b :: bs) m a 0 hm (by simp)
    rw [List.length_cons, memReadN, show memRead (memWriteN m a (b :: bs)) a = b from h0, memWriteN, ih (memWrite_wf hm a b)]

/-- Bytes written into a ring of host memory leave every other address alone (R359). -/
theorem hostWrite_other (base size : Nat) (bs : List Byte) : ∀ (m : Mem) (a x : Nat),
    (∀ i < bs.length, x ≠ (base + (a + i) % size) % 2 ^ 64) → memRead (hostWrite m base size a bs) x = memRead m x := by
  induction bs with
  | nil => exact fun _ _ _ _ => rfl
  | cons b bs ih =>
    intro m a x h
    rw [hostWrite, ih _ _ _ fun i hi => by
      have := h (i + 1) (by simpa using hi); rwa [show a + 1 + i = a + (i + 1) by omega]]
    exact memRead_memWrite_other b (h 0 (by simp)) m

theorem ring_ne {base size a i : Nat} (hs : size ≤ 2 ^ 64) (hi : 0 < i) (his : i < size) :
    (base + a % size) % 2 ^ 64 ≠ (base + (a + i) % size) % 2 ^ 64 := by
  have h1 : a % size < size := Nat.mod_lt _ (by omega)
  have h2 : (a + i) % size < size := Nat.mod_lt _ (by omega)
  have h3 : a % size ≠ (a + i) % size := by
    intro e
    have : (a % size + i) % size = a % size := by rw [← Nat.add_mod_mod, Nat.mod_add_mod] at *; simp [Nat.add_mod] at e ⊢; omega
    by_cases hc : a % size + i < size
    · rw [Nat.mod_eq_of_lt hc] at this; omega
    · have h5 : (a % size + i) % size = a % size + i - size := by
        rw [Nat.mod_eq_sub_mod (by omega), Nat.mod_eq_of_lt (by omega)]
      omega
  omega

/-- Bytes written into a ring of host memory, no more than the ring holds, read back (R359). -/
theorem hostWrite_same (base size : Nat) (hs : size ≤ 2 ^ 64) (bs : List Byte) : ∀ (m : Mem) (a i : Nat) (_ : Memory.wf m = true)
    (hi : i < bs.length), bs.length ≤ size → memRead (hostWrite m base size a bs) ((base + (a + i) % size) % 2 ^ 64) = bs[i] := by
  induction bs with
  | nil => intro _ _ _ _ hi; simp at hi
  | cons b bs ih =>
    intro m a i hm hi hl
    simp only [List.length_cons] at hl
    cases i with
    | zero =>
      rw [hostWrite, hostWrite_other _ _ _ _ _ _ (fun i hi => by
        rw [show a + 1 + i = a + (i + 1) by omega]; exact ring_ne hs (by omega) (by omega))]
      exact memRead_memWrite_same hm _ b
    | succ i =>
      have := ih (memWrite m ((base + a % size) % 2 ^ 64) b) (a + 1) i (memWrite_wf hm _ b) (by simpa using hi) (by omega)
      rw [show a + 1 + i = a + (i + 1) by omega] at this
      simpa [hostWrite] using this

/-- A ring of bytes is written as a ring of host memory at base 0 (for rings below 2⁶⁴ bytes). -/
theorem ringWrite_eq (size : Nat) (h0 : 0 < size) (hs : size ≤ 2 ^ 64) (bs : List Byte) : ∀ (m : Mem) (a : Nat),
    ringWrite m size a bs = hostWrite m 0 size a bs := by
  induction bs with
  | nil => exact fun _ _ => rfl
  | cons b bs ih =>
    intro m a
    have : (0 + a % size) % 2 ^ 64 = a % size := by
      rw [Nat.zero_add]; exact Nat.mod_eq_of_lt (Nat.lt_of_lt_of_le (Nat.mod_lt _ h0) hs)
    rw [ringWrite, hostWrite, this, ih]

end Sys2Proof.Machine
end

