-- ==== Sys2Proof/Tests/Slice0.lean ====
section
/-! SUPPORT. Tests of the model: ill-formed terms that WellFormed refuses, worked examples of the manual, and for every statement of
Certificates/Slice0/Obligations.lean that has hypotheses a state and operands that meet them (`test_hyps_…`, each clause at a boundary
of its range where it has one). -/

open Sys2Proof Sys2Proof.Machine
namespace Sys2Proof.Tests
set_option maxRecDepth 100000
set_option Elab.async false
set_option synthInstance.maxSize 2000

/-- A partition block that both partitions use. -/
def part0 : PartBlock := { hbmu := 600000, slots := 384, jobceil := 800000, partceil := 800000, partburst := 16777216, ovfmib := 1024 }

/-- A device in service: boot has ended, the reply area is enabled, every plane is in service and every lane is up. -/
def up : State := ({ State.reset with
  boot := { bcode := 0, bootstep := 9 }
  part := { locked := true, bsize := 1, lend := part0, serve := part0, owner := List.replicate 128 2 }
  host := { HostPort.reset with raen := true, nextHeld := 1 }
  planes := Vector.replicate 8 { Plane.reset with
    ps := .inService, tokLend := 1000000, tokServe := 1000000,
    lanes := Vector.replicate 16 { st := .up, laserOn := true, los := false, plock := true } } } : State)

/-- A share of 16 elements in a slot. -/
def share0 : Share :=
  { bucket := 0, role := .home, elems := List.range 16, bst := .openSlot, slots := [0],
    copyA := List.replicate 2 (List.replicate 16 0), copyB := List.replicate 2 (List.replicate 16 0) }

/-- A MOMENTUM block within its ranges. -/
def opt0 : OptBlock :=
  { kernel := 1, growth := 1000, lr := 0x3E000000, mu := 0x3F600000, eps := 0x3F800000, trustmax := 0x3F800000, clipnorm := 0x3F800000,
    lsinit := 0x3F800000, uparam := List.replicate 8 0 }

/-- A rate contract within its ranges, unmetered. -/
def rate0 : RateBlock := { cir := 1000, pir := 1000, cbs := 8228, pbs := 8228, quantum := 8228, rflags := 1 }

/-- A job header: a serving job of two members, one bucket, plane 0, one pass, two synchronisation objects. -/
def hdr0 : JobHdr :=
  { job := 7, jclass := 0x80, nbucket := 1, nmemb := 2, nplace := 1, planes := 1, stripe := 12, slotceil := 8, accn := 1, syncn := 2,
    qbase := 50, optmo := 50, hbmq := 16, opt := opt0, rate := rate0 }

/-- A running job of two members on lanes 0 and 1 of plane 0, with one bucket of 16 elements. -/
def job0 : Job :=
  { id := 7, st := .running, hdr := hdr0, members := [⟨0, 0⟩, ⟨0, 1⟩], buckets := [⟨0, 32, 16, 0, 0, 0, true⟩],
    places := [⟨0, 16, 0, 0, true⟩], group := [0, 1] }

/-- The job on plane 0. -/
def pjob0 : PJob :=
  { id := 7, fs := .run, opt := opt0, shares := [share0], group := [0, 1], syncs := [0, 0], rate := rate0 }

/-- A device with a job on plane 0. -/
def withJob (j : Job) (pj : PJob) : State := ({ up with jobs := [j] } : State).updPlane 0 fun p => { p with jobs := [pj] }

/-- A received frame, whole. -/
def rx (peer : Bool) (fr : Frame) : RxFrame := { bytes := frameBytes peer fr }

/-- The plane record of the job once one 100-byte frame has been billed. -/
def pjob1 : PJob := { pjob0 with ctrs := [(.billGF, 1), (.billGB, 100)] }

/-- A command packet. -/
def cmd (op : W16) (params : List Byte) (job : Nat := 7) (pmask : Byte := 1) : Packet :=
  { opcode := op, flags := 0, len := 5 + params.length / 4, job := job, pmask := pmask, tag := 1, params := params }

/-- The command as the dispatcher holds it. -/
def heldCmd (p : Packet) : Held := { id := 0, pkt := p }

/-- A state whose dispatcher holds one command. -/
def withHead (s : State) (p : Packet) : State := { s with host := { s.host with held := [heldCmd p] } }

/-- The 20 bytes of a packet without parameters, with its CRC. -/
def packet20 (op len : Nat) (bad : Byte := 0) : List Byte :=
  let bs := leBytes 2 op ++ zeros 2 ++ leBytes 2 len ++ zeros 6 ++ leBytes 4 1
  bs ++ (crcBytes bs).map (· ^^^ bad)

/-- The device with a packet written at the expected offset. -/
def written (op : Nat) (bad : Byte := 0) (crc : Nat := 0) : State :=
  up.updHost fun h => { h.apertureWrite 0 (packet20 op 5 bad) with cacrc := crc }

/-- The device with one complete reply. -/
def replied (r : Reply) : State := up.updHost fun h => { h with held := [{ id := 0, pkt := cmd 0x0101 [], phase := .ready, reply := some r }] }

/-- The plane record of the job once one frame of 36 + `n` bytes has been billed. -/
def billed (pj : PJob) (n : Nat) : PJob := { pj with ctrs := [(.billGF, 1), (.billGB, 36 + n)] }

/-- A frame of the job from a member. -/
def frm (op n : Nat) (payload : List Byte := zeros n) : Frame := { hdr := { op := op, job := 7, len := n }, payload := payload }

/-- A board of two devices, the other one on lane 15 of plane 0, with a member on each and the bucket mirrored on device 1. -/
def jobB : Job := { job0 with members := [⟨0, 0⟩, ⟨1, 1⟩], places := [⟨0, 16, 0, 2, true⟩], peers := [(0, 1, 15)] }

def board (j : Job) (pj : PJob) : State :=
  let s := withJob j pj
  { s with part := { s.part with bsize := 2, far := List.replicate 15 0xFF ++ [1] } }

/-- A frame of the job from device 1. -/
def peerFrm (op n : Nat) (payload : List Byte := zeros n) (final : Bool := false) : Frame :=
  { hdr := { op := op, job := 7, len := n, srcdev := 1, final := final }, payload := payload }

/-- A device with one lane of plane 0 as given. -/
def laneSt (l : Lane) : State := up.updLane 0 fun _ => l

/-! ### Well-formed terms: an ill-formed term for each check -/

theorem test_wf_refuses_packets :
    (Instr.devInfo { cmd 0x0101 [] with len := 4 }).wf = false ∧ (Instr.devInfo { cmd 0x0101 [] with len := 65536 }).wf = false ∧
    (Instr.devInfo (cmd 0x0101 [] 65536)).wf = false ∧ (Instr.devInfo { cmd 0x0101 [] with params := [0] }).wf = false ∧
    (Instr.devInfo (cmd 0x0101 [])).wf = true := by decide

theorem test_wf_refuses_accesses :
    (Instr.apertureWrite 0xFFFFF [0, 0]).wf = false ∧ (Instr.apertureWrite 0 []).wf = false ∧ (Instr.bar0Write 65536 4 0).wf = false ∧
    (Instr.bar0Write 0 0 0).wf = false ∧ (Instr.bar0Write 0 9 0).wf = false ∧ (Instr.bar0Write 0 4 0x100000000).wf = false ∧
    (Instr.bar0MalformedRead 65536 4).wf = false ∧ (Instr.bar0MalformedRead 0 0).wf = false := by decide

theorem test_wf_refuses_frames :
    (Instr.gradFrame 0 { bytes := zeros 8229 }).wf = false ∧ (Instr.rdreqFrame 0 { bytes := [] } 3).wf = false := by decide +kernel

theorem test_wf_refuses_jobs :
    (Instr.jobCloseReleased 0).wf = false ∧ (Instr.jobCloseReleased 65536).wf = false ∧ (Instr.gatherWindowExpiry 0 7 65536).wf = false ∧
    (Instr.noticeCopyTimeout 0 7 8).wf = false ∧ (Instr.digestCompareTimeout 0 7 65536).wf = false ∧
    (Instr.bucketTimerExpiry 0 7 0 64).wf = false ∧ (Instr.ackTimeout 0 7 0 128).wf = false ∧ (Instr.refill 0 (some 0)).wf = false ∧
    (Instr.earlyPublication 0 7 65536).wf = false := by decide

theorem test_wf_refuses_units :
    (Instr.chunkSetDone 0 { parity := 3 }).wf = false ∧ (Instr.scalarPair 0 (2 ^ 96) 0).wf = false ∧ (Instr.scalarPair 0 0 (2 ^ 12)).wf = false ∧
    (Instr.bufferAudit 0 (65536 + 2 ^ 31) .clean).wf = false ∧ (Instr.bufferAudit 0 0 (.unreferenced 0)).wf = false ∧
    (Instr.testDue 0 3).wf = false ∧ (Instr.testSegmentDone 0 2 (.march true) (.march true) (2 ^ 32)).wf = false ∧ (Instr.fecLockLoss 0 (2 ^ 32)).wf = false ∧
    (Instr.patternLockLost 0 (2 ^ 32)).wf = false ∧ (Instr.throttleEvaluation 0 32768 0 0).wf = false ∧
    (Instr.throttleEvaluation 0 0 (-32769) 0).wf = false ∧ (Instr.throttleEvaluation 0 0 0 65536).wf = false ∧
    (Instr.standbyDiodeRead [0]).wf = false ∧ (Instr.standbyDiodeRead (List.replicate 9 40000)).wf = false := by decide

/-! ### Values from the manual -/

/-- The check value of R176. -/
theorem test_crc_check_value : crcBytes [0x31, 0x32, 0x33, 0x34, 0x35, 0x36, 0x37, 0x38, 0x39] = [0x83, 0x92, 0x06, 0xE3] := by decide +kernel

/-- The example of R33: INT8 code -37 with zero point -3 and scale 2^-6. -/
theorem test_expand_example : expandCode { fmt := 8, method := 0, zero := -3, scale := 0x3C800000, table := [] } 8 0xDB = (0xBF080000, 0) := by
  decide +kernel

/-- The example of R40: +∞, a NaN and a finite term. -/
theorem test_sum_with_nan : (fsum [0x7F800000, 0xFFC12345, 0x3F800000]).1 = 0x7FC00000 := by decide +kernel

/-- R40 rule 3: the infinity stands although the finite terms before it overflow to the other one. -/
theorem test_sum_overflow_then_infinity : (fsum [0x7F7FFFFF, 0x7F7FFFFF, 0xFF800000]).1 = 0xFF800000 := by decide +kernel

/-! ### The package of a new module verifies -/

theorem slice_replicate (A B : List Byte) (n i : Nat) (x : Byte) (h : i < n) :
    slice (A ++ (List.replicate n x ++ B)) (A.length + i) 1 = [x] := by
  unfold slice
  rw [← List.drop_drop, List.drop_left, List.drop_append_of_le_length (by simp; omega), List.drop_replicate]
  obtain ⟨m, hm⟩ : ∃ m, n - i = m + 1 := ⟨n - i - 1, by omega⟩
  rw [hm, List.replicate_succ]; simp [fixLen]

/-- The bytes of the default manifest before its device rows. -/
def manHead : List Byte := defaultManifestBody.take 0x160

theorem manifest_rows : defaultManifestBody ++ factorySig =
    manHead ++ (List.replicate 1024 0 ++ (List.replicate 1024 0xFF ++ (zeros 2592 ++ factorySig))) := by
  decide +kernel

theorem man_far (d l : Nat) (hd : d < 8) (hl : l < 128) : manFar (defaultManifestBody ++ factorySig) d l = 0xFF := by
  have h : (manHead ++ List.replicate 1024 (0 : Byte)).length + (128 * d + l) = 0x560 + 128 * d + l := by
    have : (manHead ++ List.replicate 1024 (0 : Byte)).length = 0x560 := by decide +kernel
    omega
  unfold manFar fieldAt
  rw [manifest_rows, ← List.append_assoc, ← h, slice_replicate _ _ 1024 _ _ (by omega)]
  decide

theorem man_owner (d l : Nat) (hd : d < 8) (hl : l < 128) : manOwner (defaultManifestBody ++ factorySig) d l = 0 := by
  have h : manHead.length + (128 * d + l) = 0x160 + 128 * d + l := by
    have : manHead.length = 0x160 := by decide +kernel
    omega
  unfold manOwner fieldAt
  rw [manifest_rows, ← h, slice_replicate _ _ 1024 _ _ (by omega)]
  decide

theorem default_topology : topologyOk (defaultManifestBody ++ factorySig) 1 = true := by
  unfold topologyOk
  simp only [Bool.and_eq_true, List.all_eq_true, List.mem_range]
  refine ⟨fun d hd l hl => ?_, fun k hk d hd e he => ?_⟩
  · rw [man_far d l hd hl]; by_cases h : d < 1 <;> simp [h]
  · have : d = e := by omega
    simp [this]

theorem default_manifest : manifestCode (defaultManifestBody ++ factorySig) factorySerial 0 = none := by
  unfold manifestCode
  have hn : fieldAt (defaultManifestBody ++ factorySig) 3 1 = 1 := by decide +kernel
  have hb : fieldAt (defaultManifestBody ++ factorySig) 4 1 = 0 := by decide +kernel
  have ho : ((List.range 8).all fun d => (List.range 128).all fun i =>
      if d < 1 then decide (manOwner (defaultManifestBody ++ factorySig) d i ≤ 2)
      else manOwner (defaultManifestBody ++ factorySig) d i == 0) = true := by
    simp only [List.all_eq_true, List.mem_range]
    intro d hd l hl
    rw [man_owner d l hd hl]; by_cases h : d < 1 <;> simp [h]
  simp only [hn, hb, default_topology, ho]
  decide +kernel

/-- The package of a new module verifies, so its first boot reaches service (R2, R314). -/
theorem test_factory_package_verifies : verifyPackage State.reset.nv 0 State.reset.nv.slot = none := by
  have hp : pkgValid factoryPackage = true := by decide +kernel
  have hc : fwCovered factoryPackage = factoryFwHeader ++ factoryCode := by decide +kernel
  have hs : slice factoryPackage (pkgHdr factoryPackage).fsigoff 4627 = factorySig := by decide +kernel
  have hm : pkgManifest factoryPackage = defaultManifestBody ++ factorySig := by decide +kernel
  have hl : defaultManifestBody.length = 0x1380 := by decide +kernel
  have h2 : fieldAt (defaultManifestBody ++ factorySig) 2 1 = 0 := by decide +kernel
  have hk : (pkgHdr factoryPackage).mkeyoff = 0 := by decide +kernel
  have hv : (pkgHdr factoryPackage).fsvn = 0 := by decide +kernel
  show verifyPackage NonVol.delivery 0 factoryPackage = none
  unfold verifyPackage NonVol.verifies
  simp only [hp, hc, hs, hm, h2, hk, hv]
  simp [NonVol.delivery, factorySigs, ← hl, default_manifest]

/-- The stochastic rounding example of the number formats chapter: the two values of `r` on either side of the step. -/
theorem test_stochastic_example : (e8m7Sr 0x3F8080C0 0x7F3F).1 = 0x3F80 ∧ (e8m7Sr 0x3F8080C0 0x7F40).1 = 0x3F81 ∧
    (e8m7Rne 0x3F8080C0).1 = 0x3F81 := by decide +kernel

/-- The truncation example: FP32 by E8M7. -/
theorem test_dot_truncates : dot [0x3F800001, 0x3F800003, 0xC0000000] [0x3FC00000, 0x3FA00000, 0x3F400000] = (0x3FA00004, 0) := by
  decide +kernel

/-- The overflow and NaN example: both flags are set. -/
theorem test_dot_overflow_and_nan : dot [0x7F000000, 0x7FC00000, 0x3F800000] [0x40800000, 0x3F800000, 0x40000000] = (0x7FC00000, 3) := by
  decide +kernel

/-- Element 7 of the contribution example, added in the ring order 3, 0, 1, 2. -/
theorem test_ring_sum_example : (sumFrom 0 [0x3F000000, 0x3E800000, 0xBE000000, 0x40400000]).1 = 0x40680000 := by decide +kernel

/-- Order 1 of the clipping example: MOMENTUM on element 40. -/
theorem test_momentum_example :
    (kVector [] (stepConsts { kernel := 1, mu := 0x3F600000, lr := 0x3E000000 } fone fone 0x39800000 fone).1 [0x45000000]
      [[0x3F800000], [0x3E800000]]).arrays = [[0x3F690000], [0x3F380000]] := by decide +kernel

/-- Order 10 of the clipping example: the rescaling pass with clip factor 0.25. -/
theorem test_momentum_clipped_example :
    (kVector [] (stepConsts { kernel := 1, mu := 0x3F600000, lr := 0x3E000000 } fone fone 0x39800000 0x3E800000).1 [0x45000000]
      [[0x3F800000], [0x3E800000]]).arrays = [[0x3F750000], [0x3EB00000]] := by decide +kernel

/-- The striping example: `PLANES` 0xDF, `STRIPE` 12. -/
theorem test_stripe_example :
    (JobHdr.planeOfAddr { planes := 0xDF, stripe := 12 } 0x1C000, JobHdr.planeOfAddr { planes := 0xDF, stripe := 12 } 0x1D000,
      JobHdr.planeOfAddr { planes := 0xDF, stripe := 12 } 0x22000) = (0, 1, 7) := by decide

/-- The peer lane example: job 0x0107, bucket 3, plane 1. -/
theorem test_flow_hash_example : flowHash 0x0107 3 0 1 = 0x5AF6 := by decide

/-- The RECLAIM packet example. -/
theorem test_packet_example :
    let p := parsePacket [0x07, 0x02, 0, 0, 0x06, 0, 0x18, 0x04, 0, 0, 0, 0, 0x51, 0, 0, 0]
    p.opcode = 0x0207 ∧ p.len = 6 ∧ p.job = 0x0418 ∧ p.tag = 0x51 := by decide

/-! ### What the statements assume is met: the queue and the host port -/

theorem test_hyps_queue : ({ up with pending := [.packetTake] } : State).pending = [.packetTake] ∧ up.pending = [] := by decide

theorem test_hyps_apertureWrite :
    (up.hostUp = true ∧ (0xFFFFF : BitVec 20).toNat + 1 ≤ apertureSize ∧ Memory.wf up.host.aperture = true ∧ up.host.raen = true ∧
      up.host.radrain = false ∧ up.host.overruns 0xFFFFF 1 = false) ∧
    (let s := up.updHost fun h => { h with lastLen := 20 }
     s.hostUp = true ∧ Memory.wf s.host.aperture = true ∧ s.host.raen = true ∧ s.host.radrain = false ∧ s.host.overruns 19 1 = true) ∧
    (State.reset.hostUp = true ∧ Memory.wf State.reset.host.aperture = true ∧ State.reset.host.raen = false) := by
  decide +kernel

theorem test_hyps_packetTake :
    (let s := written 0x0101
     let bs := s.host.packetBytes 20
     s.catake = true ∧ s.host.cahdr = 6 ∧ s.host.allWritten (s.host.caexp + 16) 4 = true ∧ (∀ o ∈ s.host.held, o.id ≠ s.host.nextHeld) ∧
     bs.drop 16 = crcBytes (bs.take 16) ∧ packetCheck { parsePacket bs with len := 5, params := [] } s.boot.recmode (headerZero bs) = none) ∧
    (let s := written 0x0100
     let bs := s.host.packetBytes 20
     s.catake = true ∧ s.host.cahdr = 6 ∧ s.host.allWritten (s.host.caexp + 16) 4 = true ∧
     bs.drop 16 = crcBytes (bs.take 16) ∧
     packetCheck { parsePacket bs with len := 5, params := [] } s.boot.recmode (headerZero bs) = some .opcode) ∧
    (∀ n ∈ [2, 3], let s := written 0x0101 1 n
     let bs := s.host.packetBytes 20
     s.catake = true ∧ s.host.cahdr = 6 ∧ s.host.allWritten (s.host.caexp + 16) 4 = true ∧ bs.drop 16 ≠ crcBytes (bs.take 16) ∧
     s.host.cacrc = n) := by
  decide +kernel

/-- A reply that fills the ring to its last free entry. -/
theorem test_hyps_replyWrite :
    let r : Reply := { tag := 1, opcode := 0x0101, status := 0, report := false, job := 0, pmask := 0, payload := zeros 64 }
    let s := (replied r).updHost fun h => { h with rahead := 509 }
    s.host.raen = true ∧ s.host.nextReply = some { id := 0, pkt := cmd 0x0101 [], phase := .ready, reply := some r } ∧ r.entries = 2 ∧
    (s.host.rahead + s.host.rasize - s.host.ratail) % s.host.rasize + r.entries ≤ s.host.rasize - 1 ∧ s.host.ralog ≤ 16 ∧
    r.payload.length ≤ 16352 ∧ Memory.wf s.out.hostMem = true := by
  decide +kernel

theorem test_hyps_replyArea :
    (State.reset.hostUp = true ∧ State.reset.host.raen = false ∧ State.reset.host.radrain = false) ∧
    (let s := withHead up (cmd 0x0101 []); s.hostUp = true ∧ s.host.raen = true ∧ s.host.radrain = false ∧ s.host.held ≠ []) ∧
    (up.hostUp = true ∧ up.host.raen = true ∧ up.host.radrain = false ∧ up.host.held = []) ∧
    (9 ≤ (9 : W32).toNat % 32 ∧ (16 : W32).toNat % 32 ≤ 16) ∧ (511 : W32).toNat % 65536 < up.host.rasize := by
  decide

theorem test_hyps_badAccess :
    up.hostUp = true ∧ up.host.errirqen = false ∧ up.host.raen = true ∧ (8 : W32).toNat % 32 < 9 ∧ 16 < (17 : W32).toNat % 32 ∧
    State.reset.host.rasize ≤ (512 : W32).toNat % 65536 ∧ ((2 : Nat) ≠ 4 ∧ (2 : Nat) ≠ 8) ∧ 0x0122 % 4 ≠ 0 ∧
    (0x0000 ∉ [0x0108, 0x0110, 0x0114, 0x0118, 0x011C, 0x0124, 0x0140] ∧ 0x8030 ≥ 0x8030) ∧ 3 ∉ [1, 2, 4, 8] ∧ 0x0102 % 4 ≠ 0 := by
  decide

theorem test_hyps_hostStatus :
    (up.hostUp = true ∧ (up.mod.alertIn && up.host.errsum.getLsbD 14 && (0x4000 : W32).getLsbD 14) = false) ∧
    (let s : State := { up with mod := { up.mod with alertIn := true }, host := { up.host with errsum := 0x4000 } }
     s.hostUp = true ∧ s.mod.alertIn = true ∧ s.host.errsum.getLsbD 14 = true ∧ (0x4000 : W32).getLsbD 14 = true) ∧
    (up.host.msixPend.getLsbD 2 = false ∧ ({ up.host with msixPend := 4 } : HostPort).msixPend.getLsbD 2 = true) ∧
    (up.plane 7).ps ≠ .held := by
  decide

/-! ### Device commands -/

/-- A command that the dispatcher holds is at its head. -/
theorem withHead_atHead (s : State) (p : Packet) (h : s.host.cmdWait = []) : (withHead s p).AtHead p.opcode.toNat p (heldCmd p) := by
  refine ⟨?_, rfl, rfl, ?_⟩
  · simp [withHead, HostPort.head, heldCmd, h]
  · intro o ho _
    simpa [withHead] using ho

theorem test_hyps_deviceQueries :
    ([0x0101, 0x080A, 0x0903, 0x0A01, 0x020D, 0x0A04].map fun op => (cmd (BitVec.ofNat 16 op) []).opcode.toNat) =
      [0x0101, 0x080A, 0x0903, 0x0A01, 0x020D, 0x0A04] ∧ (withHead up (cmd 0x0101 [])).boot.recmode = false := by
  decide

theorem test_hyps_rangeReads :
    (fieldAt (leBytes 4 9619 ++ zeros 4) 0 4 + fieldAt (leBytes 4 9619 ++ zeros 4) 4 4 ≤ 9619) ∧
    fieldAt ([255] ++ zeros 7) 0 1 = 255 ∧ fieldAt ([7] ++ zeros 7) 0 1 = (7 : PlaneIx).val ∧ (up.plane 7).ps = .inService ∧
    (State.reset.plane 7).ps ≠ .inService ∧ 8 ≤ fieldAt ([8] ++ zeros 7) 0 1 ∧ fieldAt ([254] ++ zeros 7) 0 1 ≠ 255 := by
  decide

/-- The refusals of the device-scope writes: a segment beyond the buffer, a package of another length, a set that fails its checks. -/
theorem test_hyps_deviceWritesRefused :
    stagingSize < fieldAt (leBytes 4 33554432 ++ leBytes 4 64) 0 4 + fieldAt (leBytes 4 33554432 ++ leBytes 4 64) 4 4 ∧
    (pkgHdr (memReadN up.host.staging 0 (min 64 stagingSize))).pklen ≠ 64 ∧ (withJob job0 pjob0).jobsOpen ≠ 0 ∧
    calOk (slice (zeros 484) 4 480) factorySerial = false ∧
    9619 < fieldAt (leBytes 4 9619 ++ leBytes 4 1) 0 4 + fieldAt (leBytes 4 9619 ++ leBytes 4 1) 4 4 := by
  decide +kernel

/-- The values of the plane-scope commands just out of their ranges, and a plane whose Command in queue is full. -/
theorem test_hyps_planeCommandsRefused :
    fieldAt (zeros 4 ++ leBytes 4 999 ++ leBytes 4 8292 ++ [0]) 4 4 < 1000 ∧ 64 < fieldAt (zeros 12 ++ [65]) 12 1 ∧
    ¬ fieldAt (leBytes 4 up.part.gcycle) 0 4 < up.part.gcycle ∧ 15 < fieldAt (zeros 4 ++ [16]) 4 1 ∧
    fieldAt (zeros 4 ++ [0x84, 0]) 4 1 ∉ [0x80, 0x81, 0x82, 0x83, 0x00] ∧ 1 < fieldAt (zeros 5 ++ [2]) 5 1 ∧
    (fieldAt (leBytes 2 2) 0 2).testBit 1 = true ∧ (1 : Nat) ∉ [2, 4, 5, 6, 7, 8, 9] ∧ (lanesOf 0x8001).head? = some 0 ∧
    (let s := up.updPlane 0 fun p => { p with cmdIn := List.replicate 16 { held := 0, pkt := cmd 0x0102 [] } }
     (s.plane 0).cmdRoom = false ∧ s.Serving [0]) := by
  unfold State.Serving; decide +kernel

theorem test_hyps_barrier :
    (∀ o ∈ (withHead up (cmd 0x0105 [])).host.held, 0 ≤ o.id) ∧
    (let s := up.updHost fun h => { h with held := [{ id := 0, pkt := cmd 0x0301 [], phase := .waiting }, { id := 1, pkt := cmd 0x0105 [] }] }
     s.host.head = some { id := 1, pkt := cmd 0x0105 [] } ∧ (∀ o ∈ s.host.held, o.id = 1 → o = { id := 1, pkt := cmd 0x0105 [] }) ∧
     ∃ o ∈ s.host.held, o.id < 1 ∧ o.pkt.opcode ≠ 0x0105) := by
  decide

theorem test_hyps_deviceWrites :
    (let pr := [1, 1, 0, 0] ++ leBytes 4 10 ++ leBytes 4 3600
     1 ≤ fieldAt pr 0 1 ∧ 1 ≤ fieldAt pr 1 1 ∧ 10 ≤ fieldAt pr 4 4 ∧ fieldAt pr 4 4 ≤ 86400 ∧ 1 ≤ fieldAt pr 8 4 ∧ fieldAt pr 8 4 ≤ 3600) ∧
    (Memory.wf up.host.staging = true ∧ fieldAt (leBytes 4 (33554432 - 64) ++ leBytes 4 64) 0 4 + 64 ≤ stagingSize) ∧
    (up.jobsOpen = 0 ∧ up.host.programming = none ∧ up.host.calWriting = none) ∧ (withJob job0 pjob0).jobsOpen ≠ 0 ∧
    (let s : State := (withHead up (cmd 0x0A03 [])).updHost fun h => { h with programming := some (0, []), calWriting := some (0, []) }
     heldCmd (cmd 0x0A03 []) ∈ s.host.held ∧ (∀ o ∈ s.host.held, o.id = 0 → o = heldCmd (cmd 0x0A03 [])) ∧
     s.host.programming = some (0, []) ∧ s.host.calWriting = some (0, [])) := by
  decide +kernel

/-- The factory package, written into an empty staging buffer, reads back from it. -/
theorem staged_bytes : memReadN (memWriteN [] 0 factoryPackage) 0 21907 = factoryPackage := by
  have h : factoryPackage.length = 21907 := by decide +kernel
  have := memReadN_memWriteN factoryPackage (m := []) rfl 0
  rwa [h] at this

theorem test_hyps_fwCommit : ∃ m : Mem,
    let p := cmd 0x0A03 (leBytes 4 21907)
    let s := withHead (up.updHost fun h => { h with staging := m }) p
    let pkg := memReadN s.host.staging 0 (fieldAt p.params 0 4)
    s.jobsOpen = 0 ∧ s.host.programming = none ∧ fieldAt p.params 0 4 ≤ stagingSize ∧ (pkgHdr pkg).pklen = fieldAt p.params 0 4 ∧
      verifyPackage s.nv s.bidx pkg = none := by
  obtain ⟨m, hm⟩ : ∃ m, memReadN m 0 21907 = factoryPackage := ⟨_, staged_bytes⟩
  have hf : fieldAt (cmd 0x0A03 (leBytes 4 21907)).params 0 4 = 21907 := by decide
  have hl : (pkgHdr factoryPackage).pklen = 21907 := by decide +kernel
  refine ⟨m, rfl, rfl, by decide, ?_, ?_⟩
  · show (pkgHdr (memReadN m 0 _)).pklen = _
    rw [hf, hm, hl]
  · show verifyPackage State.reset.nv 0 (memReadN m 0 _) = none
    rw [hf, hm]; exact test_factory_package_verifies

/-- A calibration set measured in service (`CORIGIN` 1), with its CRC. -/
def serviceCal : List Byte :=
  let b := (nominalCalBody factorySerial).set 0x18 1
  b ++ crcBytes b

theorem test_hyps_calWrite :
    let p := cmd 0x0B02 (zeros 4 ++ serviceCal)
    up.jobsOpen = 0 ∧ up.host.programming = none ∧ up.host.calWriting = none ∧
    calOk (slice p.params 4 480) factorySerial = true ∧ fieldAt (slice p.params 4 480) 0x18 1 = 1 := by
  decide +kernel

/-! ### Plane and job commands -/

theorem test_hyps_planeCommands :
    planesOf (1 : Byte).toNat = [0] ∧ up.Serving [0] ∧ (withJob job0 pjob0).Serving [0] ∧ (State.reset.plane 0).ps ≠ .inService ∧
    8 ≤ fieldAt [8] 0 1 ∧
    (let pr := zeros 4 ++ leBytes 4 1000 ++ leBytes 4 1048576 ++ [64]
     1000 ≤ fieldAt pr 4 4 ∧ fieldAt pr 4 4 ≤ 50000 ∧ 8292 ≤ fieldAt pr 8 4 ∧ fieldAt pr 8 4 ≤ 1048576 ∧ fieldAt pr 12 1 ≤ 64) ∧
    fieldAt (leBytes 4 0) 0 4 < ({ up.part with gcycle := 10000 } : PartView).gcycle ∧ fieldAt (zeros 4 ++ [15]) 4 1 ≤ 15 ∧
    (fieldAt (zeros 4 ++ [0x83, 1]) 4 1 ∈ [0x80, 0x81, 0x82, 0x83, 0x00] ∧ fieldAt (zeros 4 ++ [0x83, 1]) 5 1 ≤ 1) ∧
    (∀ b < 16, (fieldAt (leBytes 2 0x3F4) 0 2).testBit b = true → b ∈ [2, 4, 5, 6, 7, 8, 9]) := by
  unfold State.Serving; decide

theorem test_hyps_jobPlaneCommands :
    (let s := withHead (withJob job0 pjob0) (cmd 0x0702 [] 7 0)
     s.findJob 7 = some job0 ∧ job0.st.isOpen = true ∧ planesOf job0.hdr.planes.toNat = [0] ∧ s.Serving [0]) ∧
    up.findJob 7 = none ∧ planesOf (0x80 : Byte).toNat = [7] ∧
    (withJob { job0 with st := .defining } pjob0).findJob 7 = some { job0 with st := .defining } ∧ JState.defining.isOpen = false ∧
    ({ job0 with hdr := { hdr0 with opt := { opt0 with kernel := 4 } } } : Job).hdr.opt.kernel = 4 ∧
    (fmtFloat (fieldAt [0, 0] 1 1) = true ∧ fmtFloat (fieldAt [0, 8, 2] 1 1) = false ∧ expandOk (zeros 64) = false) := by
  unfold State.Serving; decide +kernel

theorem test_hyps_jobDefinition :
    let def0 : Job := { job0 with st := .defining }
    (up.host.programming = none ∧ up.findJob 7 = none ∧ up.defining < 4) ∧
    4 ≤ ({ up with jobs := [1, 2, 3, 4].map fun i => { id := i } } : State).defining ∧
    (withJob job0 pjob0).findJob 7 = some job0 ∧ job0.st ≠ .defining ∧
    (withJob def0 pjob0).findJob 7 = some def0 ∧ def0.st = .defining ∧
    (let pr := [1, 0, 0, 0] ++ leBytes 4 0 ++ leBytes 4 32 ++ zeros 32
     fieldAt pr 0 1 = 1 ∧ fieldAt pr 4 4 + fieldAt pr 8 4 ≤ 32 * def0.hdr.nbucket) ∧
    (let pr := leBytes 2 10000 ++ [64, 0]
     fieldAt pr 0 2 ≤ 10000 ∧ 1 ≤ fieldAt pr 2 1 ∧ fieldAt pr 2 1 ≤ 64) := by
  decide +kernel

/-- A close whose reply is still held, tables beyond their declared length, values of `REPL_SET` out of range. -/
theorem test_hyps_jobDefinitionRefused :
    (let s := up.updHost fun h => { h with held := [heldCmd (cmd 0x0205 [])], closeReplies := [(0, 7)] }
     s.findJob 7 = none ∧ ∃ x ∈ s.host.closeReplies, x.2 = 7 ∧ ∃ o ∈ s.host.held, o.id = x.1) ∧
    (let pr (T : Byte) := [T, 0, 0, 0] ++ leBytes 4 16 ++ leBytes 4 32 ++ zeros 32
     (∀ T ∈ [1, 2, 3], fieldAt (pr T) 0 1 = T.toNat) ∧ 32 * hdr0.nbucket < fieldAt (pr 1) 4 4 + fieldAt (pr 1) 8 4 ∧
     16 * hdr0.nplace < fieldAt (pr 2) 4 4 + fieldAt (pr 2) 8 4 ∧ hdr0.kimglen < fieldAt (pr 3) 4 4 + fieldAt (pr 3) 8 4 ∧
     fieldAt (pr 1) 4 4 + fieldAt (pr 1) 8 4 ≤ 32 * ({ hdr0 with nbucket := 2 } : JobHdr).nbucket ∧
     fieldAt (pr 2) 4 4 + fieldAt (pr 2) 8 4 ≤ 16 * ({ hdr0 with nplace := 3 } : JobHdr).nplace ∧
     fieldAt (pr 3) 4 4 + fieldAt (pr 3) 8 4 ≤ ({ hdr0 with kimglen := 48 } : JobHdr).kimglen) ∧
    10000 < fieldAt (leBytes 2 10001 ++ [64, 0]) 0 2 ∧ fieldAt (leBytes 2 0 ++ [0, 0]) 2 1 < 1 ∧ 64 < fieldAt (leBytes 2 0 ++ [65, 0]) 2 1 := by
  decide +kernel

theorem test_hyps_jobStates :
    let s (st : JState) : State := withHead (withJob { job0 with st := st } pjob0) (cmd 0x0204 [])
    (s .loading).findJob 7 = some { job0 with st := .loading } ∧ (s .loading).Serving (planesOf job0.hdr.planes.toNat) ∧
    (JState.running.isOpen = true ∧ JState.running ≠ .loading ∧ JState.running.isRunning = true ∧ JState.running.isActive = true) ∧
    (JState.fenced.isActive = false ∧ JState.fenced.isOpen = true) ∧ ({ job0 with restore := true } : Job).restore = true ∧
    job0.closing = none ∧ job0.reform = none ∧ ({ job0 with closing := some 0 } : Job).closing ≠ none ∧
    JState.defining ≠ .loading ∧ JState.reclaimed ≠ .defining ∧ up.findJob 7 = none ∧ job0.restore = false ∧
    ((s .loading).heldPlanes job0).head? = some 0 ∧ (s .loading).pjob 0 job0.id = some pjob0 := by
  unfold State.Serving; decide +kernel

/-- A job in `DEFINING` whose description is empty is refused. -/
theorem test_hyps_jobOpen_refused :
    let j : Job := { job0 with st := .defining, hdr := {} }
    let s := withHead (withJob j pjob0) (cmd 0x0203 [])
    s.host.programming = none ∧ s.findJob 7 = some j ∧ s.openStatus j.parsed (s.peerLists j.parsed) ≠ .ok := by
  decide +kernel

theorem test_hyps_jobClose :
    let j : Job := { job0 with st := .fenced, closing := some 0, ended := true }
    let c := heldCmd (cmd 0x0205 [])
    let s := withHead (withJob j { pjob0 with fs := .fenced }) c.pkt
    s.findJob 7 = some j ∧ c ∈ s.host.held ∧ (∀ o ∈ s.host.held, o.id = c.id → o = c) ∧ j.closing = some c.id ∧ j.ended = true ∧
    (∀ k pj, s.pjob k 7 = some pj → pj.fs = .fenced ∨ pj.fs = .reclaimed) ∧ (∀ k, ∀ x ∈ (s.plane k).cmdIn, x.pkt.job ≠ 7) := by
  refine ⟨by decide +kernel, by decide +kernel, by decide +kernel, by decide, by decide, ?_, by decide +kernel⟩
  have h : ∀ k, ∀ pj ∈ ((withHead (withJob { job0 with st := .fenced, closing := some 0, ended := true } { pjob0 with fs := .fenced })
      (cmd 0x0205 [])).plane k).jobs, pj.fs = .fenced ∨ pj.fs = .reclaimed := by decide +kernel
  exact fun k pj e => h k pj (List.mem_of_find?_eq_some e)

theorem test_hyps_reclaim :
    let j : Job := { job0 with hdr := { hdr0 with jclass := 0 } }
    let s := withHead (withJob j pjob0) (cmd 0x0207 (leBytes 4 60000))
    s.findJob 7 = some j ∧ j.st = .running ∧ j.closing = none ∧ j.hdr.serving = false ∧
    fieldAt (leBytes 4 60000) 0 4 ≤ 60000 ∧ 60000 < fieldAt (leBytes 4 60001) 0 4 ∧ up.findJob 7 = none ∧
    hdr0.serving = true := by
  decide +kernel

theorem test_hyps_reclaimAgain :
    let r : ReclaimSt := { at' := 5, deadlineMs := 45000 }
    let j (st : JState) : Job := { job0 with hdr := { hdr0 with jclass := 0 }, st := st, reclaim := some r }
    let s (st : JState) := withHead (withJob (j st) pjob0) (cmd 0x0207 (leBytes 4 0))
    (∀ st ∈ [JState.reclaiming, .reclaimed, .fenced, .defining], (s st).findJob 7 = some (j st) ∧ (j st).closing = none ∧
      (j st).hdr.serving = false ∧ (j st).reclaim = some r) ∧ fieldAt (leBytes 4 0) 0 4 = 0 := by
  decide +kernel

theorem test_hyps_groups :
    let ms := (List.range 128).filter fun m => (fieldAt (leBytes 16 2) 0 16).testBit m
    let j : Job := { job0 with fencedM := [1] }
    ms = [1] ∧ (∀ m ∈ ms, m < j.members.length ∧ m ∈ j.group ∧ m ∈ j.fencedM) ∧ (∃ m ∈ j.group, m ∉ ms) ∧
    (∃ g < 1024, g ∉ (withJob j pjob0).groups) ∧ (∃ m ∈ ms, m ∉ job0.fencedM) ∧ (∀ m ∈ ms, m < job0.members.length) ∧
    (∃ m ∈ (List.range 128).filter fun m => (fieldAt (leBytes 16 4) 0 16).testBit m, job0.members.length ≤ m) := by
  refine ⟨by decide, by decide, by decide, ⟨0, by decide⟩, by decide, by decide, by decide⟩

theorem test_hyps_blocks :
    let j : Job := { job0 with st := .loading }
    (let pr := leBytes 8 0 ++ optBytes opt0
     optRangeOk (parseOpt (slice pr 8 64)) = true ∧ (parseOpt (slice pr 8 64)).fixedPart = j.hdr.opt.fixedPart ∧ fieldAt pr 0 8 = 0) ∧
    (job0.lastComb + 2 ≤ ((fieldAt (leBytes 8 1) 0 8 : Nat) : Int) ∧ (withJob job0 pjob0).pjob 0 7 = some pjob0) ∧
    (job0.st.isRunning = true ∧ ((fieldAt (leBytes 8 0) 0 8 : Nat) : Int) < job0.lastComb + 2) ∧
    optRangeOk (parseOpt (List.replicate 64 0xFF)) = false ∧
    (let b : PrecBlock := { block := 0, nsiter := 3, refresh := 1, sdecay := 0x3F000000, damp := 0x3F800000 }
     let j4 : Job := { job0 with hdr := { hdr0 with opt := { opt0 with kernel := 4 }, prec := b } }
     let o := slice (leBytes 8 1 ++ precBytes b) 8 32
     precRangeOk (parsePrec o) = true ∧ j4.hdr.opt.kernel = 4 ∧ (parsePrec o).block = j4.hdr.prec.block ∧ job0.hdr.opt.kernel ≠ 4 ∧
     precRangeOk (parsePrec (List.replicate 32 0xFF)) = false ∧ (parsePrec (slice (zeros 8 ++ precBytes { b with block := 1 }) 8 32)).block ≠ 0) ∧
    (j.st = .loading ∧ fieldAt (leBytes 8 1) 0 8 ≠ 0) := by
  decide +kernel

theorem test_hyps_jobHandOut :
    rateRangeOk rate0 true part0.jobceil = true ∧ (parseRate (rateBytes rate0)).unmetered = job0.hdr.rate.unmetered ∧
    parseRate (rateBytes rate0) = rate0 ∧
    (let s := withJob job0 { pjob0 with fenced := [1] }
     s.destOk job0 2 [0] = false) ∧ rateRangeOk { rate0 with cir := part0.jobceil + 1, pir := part0.jobceil + 1 } true part0.jobceil = false ∧
    job0.st.isOpen = true ∧ job0.st ≠ .loading ∧ JState.fenced.isRunning = false ∧ fieldAt (zeros 24) 16 8 = 0 ∧
    (withJob job0 pjob0).destOk job0 1 [0] = true ∧ job0.lastComb + 2 ≤ ((fieldAt (zeros 16 ++ leBytes 8 1) 16 8 : Nat) : Int) := by
  decide +kernel

/-- A description that passes every check of R147. -/
def definedJob : Job := { job0 with
  st := .defining
  tabBucket := (leBytes 2 0 ++ leBytes 2 32 ++ leBytes 4 16 ++ zeros 24).zipIdx.map fun x => (x.2, x.1)
  tabPlace := (leBytes 8 0 ++ leBytes 4 16 ++ zeros 4).zipIdx.map fun x => (x.2, x.1) }

theorem test_hyps_jobOpen_ok :
    let s : State := withHead { up with jobs := [definedJob] } (cmd 0x0203 [])
    s.host.programming = none ∧ s.findJob 7 = some definedJob ∧ definedJob.st = .defining ∧
    s.openStatus definedJob.parsed (s.peerLists definedJob.parsed) = .ok ∧ s.Serving (planesOf definedJob.hdr.planes.toNat) := by
  unfold State.Serving; decide +kernel

/-! ### Frames and what waits on a plane -/

theorem test_hyps_syncFrame :
    let s := withJob job0 pjob0
    let fr (x : Nat) : Frame := frm opSync 64 (zeros 2 ++ leBytes 2 1 ++ [BitVec.ofNat 8 x, 0] ++ zeros 2 ++ leBytes 8 5 ++ zeros 48)
    ∀ x ∈ [1, 2], (s.Receives 0 (rx false (fr x)) [opSync] (fr x) ∧
      (s.landed 0 (rx false (fr x)) (fr x)).admitSender 0 (fr x) true = .ok (job0, billed pjob0 64, 0) ∧
      syncOk (fr x).payload job0.hdr.syncn = true ∧ fieldAt (fr x).payload 2 2 < (billed pjob0 64).syncs.length ∧
      fieldAt (fr x).payload 4 1 = x ∧
      ((s.landed 0 (rx false (fr x)) (fr x)).syncValue 0 7 1).toNat < fieldAt (fr x).payload 8 8 ∧
      ((s.landed 0 (rx false (fr x)) (fr x)).plane 0).waitRoom 7 = true) := by
  unfold State.Receives; decide +kernel

/-- A synchronisation command at its apply point, beside a held wait and the loss of member 1. -/
def syncCmd (op : W16) : PlaneCmd := { held := 0, pkt := cmd op (zeros 2 ++ leBytes 2 1 ++ zeros 12) }
def wait0 : Wait := { id := 3, job := 7, obj := 0, operand := 1, member := some 1 }
def applying (op : W16) : State :=
  (withJob job0 pjob0).updPlane 0 fun p => { p with applyQ := [syncCmd op], waits := [wait0], fenceQ := [(7, 1)] }

theorem test_hyps_applyPoints :
    ((applying 0x0303).plane 0).applyQ.find? (fun x => x.pkt.job == 7 && x.pkt.opcode != 0x0302) = some (syncCmd 0x0303) ∧
    ((applying 0x0304).plane 0).applyQ.find? (fun x => x.pkt.job == 7 && x.pkt.opcode != 0x0302) = some (syncCmd 0x0304) ∧
    (applying 0x0303).pjob 0 7 = some pjob0 ∧ fieldAt (syncCmd 0x0303).pkt.params 0 2 < pjob0.syncs.length ∧
    ((applying 0x0303).plane 0).waits.find? (·.id == 3) = some wait0 ∧ (applying 0x0303).findJob 7 = some job0 ∧ 1 ∉ pjob0.fenced ∧
    (∀ x ∈ ((applying 0x0303).plane 0).applyQ, x.pkt.job = 7 → x.pkt.opcode ≠ 0x0302) ∧
    ((applying 0x0303).plane 0).fenceQ.find? (·.1 == 7) = some (7, 1) := by
  refine ⟨?_, ?_, ?_, ?_, ?_, ?_, ?_, ?_, ?_⟩ <;> decide +kernel

/-- A share of a job of two passes, with both contributions of pass 0 present. -/
def shareReady : Share := { share0 with contribs := [{ pass := 0, chunk := 0, member := 0, vals := List.replicate 16 0x3F800000 },
  { pass := 0, chunk := 0, member := 1, vals := List.replicate 16 0x40000000 }] }

theorem test_hyps_chunkSet :
    let j : Job := { job0 with hdr := { hdr0 with accn := 2 } }
    let pj : PJob := { pjob0 with shares := [shareReady] }
    let cs : ChunkSet := ⟨7, 0, 0, 0⟩
    let s := (withJob j pj).updPlane 0 fun p => { p with adder := some cs }
    (s.plane 0).adder = some cs ∧ s.findJob 7 = some j ∧ s.pjob 0 7 = some pj ∧ j.bucketDesc 0 = some ⟨0, 32, 16, 0, 0, 0, true⟩ ∧
    pj.findShare 0 = some shareReady ∧ shareReady.ready (s.localGroup j pj) 0 0 = true ∧ 0 ∈ j.planeChunks 0 ⟨0, 32, 16, 0, 0, 0, true⟩ ∧
    (∀ x ∈ shareReady.contribs, x.chunk = 0 → x.pass = 0 → x.later = .none) ∧ 1 < j.hdr.passes ∧ ((0, 1) : Nat × Nat) ≠ (0, 0) ∧ ((0, 1) : Nat × Nat) ∉ shareReady.added ∧
    shareReady.contribs.Pairwise (fun x y => ¬ (x.chunk = y.chunk ∧ x.pass = y.pass ∧ x.member = y.member)) := by
  decide +kernel

theorem test_hyps_gradFrame :
    let s := withJob job0 pjob0
    let fr (step : Nat) : Frame := { frm opGrad 64 with hdr := { op := opGrad, job := 7, len := 64, comma := 64 * step } }
    ∀ x ∈ [(0, StepOf.current), (1, .next), (2, .stale)],
      let f := fr x.1
      s.Receives 0 (rx false f) [opGrad] f ∧ (s.landed 0 (rx false f) f).admitSender 0 f true = .ok (job0, billed pjob0 64, 0) ∧
      (s.landed 0 (rx false f) f).pjob 0 7 = some (billed pjob0 64) ∧ job0.chunkOk 0 ⟨0, 32, 16, 0, 0, 0, true⟩ f = true ∧
      fmtFloat f.hdr.fmt = true ∧ stepOf (billed pjob0 64) f.hdr.comma = x.2 ∧ f.hdr.comma % 64 < job0.hdr.passes ∧
      (billed pjob0 64).findShare 0 = some share0 ∧ share0.commaDone = false ∧ share0.present 0 0 0 = false ∧ share0.isOpen = true := by
  unfold State.Receives; decide +kernel

/-- A contribution already present, and one of a bucket that has completed. -/
theorem test_hyps_gradFrame_again :
    ∀ h ∈ [shareReady, { share0 with commaDone := true, bst := .closed }],
      let pj : PJob := { pjob0 with shares := [h] }
      let s := withJob job0 pj
      let f := frm opGrad 64
      s.Receives 0 (rx false f) [opGrad] f ∧ (s.landed 0 (rx false f) f).admitSender 0 f true = .ok (job0, billed pj 64, 0) ∧
      (s.landed 0 (rx false f) f).pjob 0 7 = some (billed pj 64) ∧ job0.chunkOk 0 ⟨0, 32, 16, 0, 0, 0, true⟩ f = true ∧
      stepOf (billed pj 64) f.hdr.comma = .current ∧ (billed pj 64).findShare 0 = some h ∧
      (h.commaDone = true ∨ h.present 0 0 0 = true) := by
  unfold State.Receives; decide +kernel

theorem test_hyps_partialFrame :
    let s := board jobB pjob0
    let f := peerFrm opPartial 64
    let u := s.landed 15 (rx true f) f
    s.Receives 15 (rx true f) [opPartial] f ∧ u.openOn 0 7 = some (jobB, pjob0) ∧ jobEnded jobB pjob0 = false ∧
    pjob0.findShare 0 = some share0 ∧ share0.role ≠ .remote ∧ s.farDev 15 ∈ jobB.ringDevs pjob0 ∧
    jobB.partialOk 0 ⟨0, 32, 16, 0, 0, 0, true⟩ f = true ∧ stepOf pjob0 f.hdr.comma = .current ∧ share0.commaDone = false ∧
    share0.isOpen = true ∧ share0.bst ≠ .awaiting ∧ (∀ p ∈ share0.partials, ¬ (p.dev = s.farDev 15 ∧ p.off = f.hdr.elemoff)) := by
  unfold State.Receives; decide +kernel

theorem test_hyps_finalDone :
    let pj : PJob := { pjob0 with shares := [{ share0 with role := .remote }] }
    let s := board jobB pj
    let f := peerFrm opDone 0 [] true
    let u := s.landed 15 (rx true f) f
    s.Receives 15 (rx true f) [opDone] f ∧ u.openOn 0 7 = some (jobB, pj) ∧ f.hdr.final = true ∧ f.hdr.uni = false ∧
    pj.findShare 0 = some { share0 with role := .remote } ∧ stepOf pj f.hdr.comma = .current ∧ (u.plane 0).applyQ = [] ∧
    (u.plane 0).fenceQ = [] := by
  unfold State.Receives; decide +kernel

/-- The job of the board with a descriptor of member 0 for the bucket. -/
def pjobD : PJob := { pjob0 with descs := [{ member := 0, bucket := 0, addr := 64, key := 1 }] }

/-- A result from device 1: multicast to a member that can take it, and to one that cannot; unicast to a member here. -/
theorem test_hyps_peerReplicate :
    let f (uni : Bool) : Frame := { peerFrm opRslt 64 with hdr := { op := opRslt, job := 7, len := 64, srcdev := 1, uni := uni } }
    (∀ uni ∈ [true, false], ∀ pj ∈ [pjobD, pjob0], let s := board jobB pj
      s.Receives 15 (rx true (f uni)) [opParm, opRslt, opStatus] (f uni) ∧
      (s.landed 15 (rx true (f uni)) (f uni)).openOn 0 7 = some (jobB, pj) ∧
      ((s.landed 15 (rx true (f uni)) (f uni)).lane (devLane 0 0)).st = .up ∧ s.isPeer (devLane 0 0) = false) ∧
    PJob.canTake jobB pjobD 0 0 = true ∧ PJob.canTake jobB pjob0 0 0 = false ∧ 0 ∈ (board jobB pjob0).localLive jobB pjob0 ∧
    ((pjobD.liveMembers.filter fun m => jobB.memberDev m == up.bidx).find? fun m => jobB.memberLane 0 m == 0) = some 0 ∧
    pjobD.group[0]? = some 0 ∧ jobB.memberDev 0 = up.bidx ∧ 0 ∉ pjobD.fenced := by
  unfold State.Receives; decide +kernel

theorem test_hyps_timersAndPublication :
    (let h : Share := { share0 with timers := [{ pass := 0, expiries := 3 }] }
     let pj : PJob := { pjob0 with shares := [h] }
     let s := withJob job0 pj
     s.openOn 0 7 = some (job0, pj) ∧ jobEnded job0 pj = false ∧ pj.findShare 0 = some h ∧ h.isOpen = true ∧
     h.timers.find? (·.pass == 0) = some { pass := 0, expiries := 3 }) ∧
    (let h : Share := { share0 with kernelRan := true, bst := .closed }
     let pj : PJob := { pjob0 with shares := [h], opt := { opt0 with opflags := 8 } }
     let s := withJob job0 pj
     s.openOn 0 7 = some (job0, pj) ∧ pj.findShare 0 = some h ∧ pj.opt.earlypub = true ∧ h.role = .home ∧ h.published = false ∧
     h.poisoned = false ∧ pj.stepFlags.overflow = false ∧ pj.stepFlags.poisoned = false ∧ (s.plane 0).qPublish.stalled 64 = false) ∧ pjob0.opt.earlypub = false := by
  decide +kernel

theorem test_hyps_gatherRequest :
    (let s := withJob job0 { pjob0 with subgen := 1 }
     let f := frm opGreq 64
     let u := s.landed 0 (rx false f) f
     let pj := billed { pjob0 with subgen := 1 } 64
     pj.orec.gen ≠ pj.subgen ∧ s.Receives 0 (rx false f) [opGreq] f ∧ u.admitSender 0 f true = .ok (job0, pj, 0) ∧ pj.fs = .run ∧
     (parseGreq f.payload).rsvdOk = true ∧ (parseGreq f.payload).notice = false ∧ (parseGreq f.payload).part = false ∧
     (parseGreq f.payload).reg = false ∧ job0.greqBuckets 0 (parseGreq f.payload) ≠ [] ∧
     (∀ d ∈ job0.greqBuckets 0 (parseGreq f.payload), s.homeDev job0 d.bucket = s.bidx) ∧
     (∀ x ∈ job0.layerShares pj 0 none, x.2.lost = false ∧ x.2.halted = false ∧ s.bidx ∉ x.2.expelled) ∧ (u.plane 0).gathers = []) := by
  unfold State.Receives; decide +kernel

theorem test_hyps_gatherWindow :
    (let g : Gather := { job := 7, layer := 0, gen := 0, members := [0] }
     let s := (withJob job0 pjob0).updPlane 0 fun p => { p with gathers := [g] }
     ((s.plane 0).gathers.find? fun g => g.job == 7 && g.layer == 0) = some g ∧ (s.plane 0).qPublish.stalled 64 = false ∧
     s.openOn 0 7 = some (job0, pjob0) ∧ (⟨0, 32, 16, 0, 0, 0, true⟩, share0) ∈ job0.layerShares pjob0 0 none ∧
     (shareFrames job0 0 ⟨0, 32, 16, 0, 0, 0, true⟩ { op := opParm, job := 7 } (shareBits pjob0 ⟨0, 32, 16, 0, 0, 0, true⟩ share0 0 g.retained).1
       (fun _ => true)).length = 1 ∧
     ((g.members.filter fun m => job0.memberDev m == s.bidx).find? fun m => job0.memberLane 0 m == 0) = some 0 ∧
     (s.lane (devLane 0 0)).st = .up ∧ s.isPeer (devLane 0 0) = false) := by
  decide +kernel

/-! ### Results, copies and digests -/

/-- A retained result of the bucket that both members owe. -/
def ret0 : Retained := { job := 7, bucket := 0, step := 0, bits := List.replicate 16 0, bytes := 64, owes := [(0, 0), (1, 0)], admitted := true }

def retaining (j : Job) (pj : PJob) (r : Retained) : State := (withJob j pj).updPlane 0 fun p => { p with retained := [r] }

theorem test_hyps_retention :
    (let r : Retained := { ret0 with admitted := false, bytes := 8388608 }
     let s := retaining job0 pjob0 r
     ((s.plane 0).retained.find? fun r => !r.admitted) = some r ∧ s.openOn 0 7 = some (job0, pjob0) ∧
     job0.bucketDesc 0 = some ⟨0, 32, 16, 0, 0, 0, true⟩ ∧ pjob0.findShare 0 = some share0 ∧
     (s.plane 0).retBufUsed + r.bytes + 256 * (s.plane 0).unitsOut 32768 32768 ≤ 8388608 ∧
     PJob.canTake job0 pjobD 0 0 = true) ∧
    (let s := retaining job0 pjob0 ret0
     let f := frm opAck 0
     let u := s.landed 0 (rx false f) f
     s.Receives 0 (rx false f) [opAck] f ∧ u.admitSender 0 f true = .ok (job0, billed pjob0 0, 0) ∧ s.homeDev job0 0 = s.bidx ∧
     u.resultFor 0 (billed pjob0 0) f true = some ret0 ∧ ret0.owes.filter (·.1 != 0) ≠ [] ∧
     ((s.plane 0).retained.find? fun r => r.job == 7 && r.bucket == 0 && r.admitted) = some ret0 ∧ ret0.owes.lookup 1 = some 0 ∧
     1 ∉ ret0.needDesc) ∧
    (({ ret0 with owes := [(0, 0)] } : Retained).owes.filter (·.1 != 0) = [] ∧ ret0.needDesc = []) ∧
    ({ pjob0 with ackRuns := [(1, 3)] } : PJob).ackRuns.lookup 1 = some 3 := by
  unfold State.Receives; decide +kernel

/-- A result that the retention buffer has no room for: one that its job's area takes, and one that fits nowhere. -/
theorem test_hyps_retentionArea :
    let r : Retained := { ret0 with admitted := false, bytes := 8388609 }
    ∀ q ∈ [129, 128], let j : Job := { job0 with hdr := { hdr0 with retq := q } }
      let s := retaining j pjob0 r
      ((s.plane 0).retained.find? fun r => !r.admitted) = some r ∧ s.openOn 0 7 = some (j, pjob0) ∧
      ¬ (s.plane 0).retBufUsed + r.bytes + 256 * (s.plane 0).unitsOut 32768 32768 ≤ 8388608 ∧
      ((s.plane 0).retAreaUsed 7 + r.bytes ≤ j.hdr.retq * 65536 ↔ q = 129) := by
  decide +kernel

theorem test_hyps_requests :
    (let s := retaining job0 pjob0 ret0
     let f := frm opRdreq 0
     let u := s.landed 0 (rx false f) f
     s.Receives 0 (rx false f) [opRdreq] f ∧ u.admitSender 0 f true = .ok (job0, billed pjob0 0, 0) ∧ u.findJob 7 = some job0 ∧
     job0.chunkElsewhere 0 f = false ∧ f.hdr.comma / 64 = pjob0.orec.step % 1024 ∧
     ((pjob0.findShare 0).map (·.poisoned)).getD false = false ∧ u.resultFor 0 (billed pjob0 0) f true = some ret0) := by
  unfold State.Receives; decide +kernel

theorem test_hyps_stagingRead :
    (let j : Job := { job0 with hdr := { hdr0 with jmode := 4 } }
     let s := retaining j pjob0 ret0
     let f := frm opSread 0
     let u := s.landed 0 (rx false f) f
     s.Receives 0 (rx false f) [opSread] f ∧ u.admitSender 0 f true = .ok (j, billed pjob0 0, 0) ∧ j.hdr.staging = true ∧
     u.resultFor 0 (billed pjob0 0) f false = some ret0 ∧ (ret0.frames j 0 ⟨0, 32, 16, 0, 0, 0, true⟩ (fun c => c == 0)).length = 1 ∧
     j.memberDev 0 = s.bidx ∧ (u.lane (devLane 0 (j.memberLane 0 0))).st = .up ∧ s.isPeer (devLane 0 (j.memberLane 0 0)) = false) := by
  unfold State.Receives; decide +kernel

theorem test_hyps_descriptor :
    (let s := withJob job0 pjob0
     let f := frm opDesc 64 (zeros 8 ++ leBytes 8 64 ++ zeros 48)
     let u := s.landed 0 (rx false f) f
     s.Receives 0 (rx false f) [opDesc] f ∧ u.admitSender 0 f true = .ok (job0, billed pjob0 64, 0) ∧
     (job0.bucketDesc (fieldAt f.payload 2 2)).isSome = true ∧ fieldAt f.payload 8 8 % 64 = 0 ∧ zeroAt f.payload 4 4 = true ∧
     zeroAt f.payload 0x14 44 = true ∧ job0.hdr.staging = false) := by
  unfold State.Receives; decide +kernel

/-- Requests that are refused: for a poisoned bucket, and where no result is retained. -/
theorem test_hyps_requestsRefused :
    ∀ x ∈ [(opRdreq, true), (opRdreq, false), (opSread, true), (opSread, false)],
      let j : Job := { job0 with hdr := { hdr0 with jmode := if x.1 = opSread then 4 else 0 } }
      let pj : PJob := { pjob0 with shares := [{ share0 with poisoned := x.2 }] }
      let s := withJob j pj
      let f := frm x.1 0
      let u := s.landed 0 (rx false f) f
      s.Receives 0 (rx false f) [x.1] f ∧ u.admitSender 0 f true = .ok (j, billed pj 0, 0) ∧ u.findJob 7 = some j ∧
      u.pjob 0 7 = some (billed pj 0) ∧ j.chunkElsewhere 0 f = false ∧ s.isPeer 0 = false ∧
      (((billed pj 0).findShare 0).map (·.poisoned)).getD false = x.2 ∧ (x.1 = opSread → j.hdr.staging = true) ∧
      u.resultFor 0 (billed pj 0) f (x.1 == opRdreq) = none := by
  unfold State.Receives; decide +kernel

/-- A checkpoint read whose frames have left, with the command that waits for it. -/
def ckpt0 : CkptJob := { held := 0, job := 7, isLog := false, dest := 0, rwkey := 0, rwbase := 0, step := 0, started := true }
def ckptCmd : Held := { heldCmd (cmd 0x0208 (zeros 24)) with phase := .waiting, owes := [0] }
def reading (pj : PJob) : State :=
  { (withJob job0 pj).updPlane 0 fun p => { p with ckpts := [ckpt0] } with host := { up.host with held := [ckptCmd] } }

theorem test_hyps_checkpoint :
    (let s := reading pjob0
     (s.plane 0).ckpts = [ckpt0] ∧ s.readSent 0 ckpt0 = true ∧ s.findJob 7 = some job0 ∧ s.pjob 0 7 = some pjob0 ∧
     (∀ q, q ≠ 0 → ∀ y ∈ (s.plane q).ckpts, y.job ≠ 7) ∧ ckptCmd ∈ s.host.held ∧ ckptCmd.owes = [0] ∧
     (∀ y ∈ s.host.held, y.id = 0 → y = ckptCmd) ∧ ckptCmd.pkt.opcode = 0x0208 ∧
     (∀ h ∈ pjob0.shares, h.kept = true → s.bidx ∉ h.expelled)) ∧
    (let pj : PJob := { pjob0 with shares := [{ share0 with expelled := [0] }] }
     let s := reading pj
     s.readSent 0 ckpt0 = true ∧ s.pjob 0 7 = some pj ∧ ∃ h ∈ pj.shares, h.kept = true ∧ s.bidx ∈ h.expelled) := by
  decide +kernel

theorem test_hyps_load :
    let j : Job := { job0 with st := .loading }
    let pj : PJob := { pjob0 with fs := .loading }
    let s := withJob j pj
    let f := frm opLoad 64
    let u := s.landed 0 (rx false f) f
    let pj' : PJob := { pj with ctrs := [(.billGF, 1), (.billGB, 100)] }
    s.Receives 0 (rx false f) [opLoad] f ∧ u.admitSender 0 f false = .ok (j, pj', 0) ∧ s.homeDev j 0 = s.bidx ∧ j.restore = false ∧
    pj'.opt.kernel ≠ 0 ∧ f.hdr.comma = 0 ∧ pj'.findShare 0 = some share0 ∧ j.chunkOk 0 ⟨0, 32, 16, 0, 0, 0, true⟩ f = true ∧
    share0.ind = List.replicate 16 0 :: [List.replicate 16 0] := by
  unfold State.Receives; decide +kernel

/-- The mirror of a KRONECKER share: device 0 mirrors what device 1 homes. -/
def jobM : Job := { jobB with places := [⟨0, 16, 1, 1, true⟩] }
def mirror0 : Share := { share0 with role := .mirror }

theorem test_hyps_copies :
    let q : KBlock := { buf0 := [], buf1 := [], buf2 := [], ql := [], qr := [] }
    let h : Share := { mirror0 with kblocks := [q] }
    let pj : PJob := { pjob0 with shares := [h] }
    let s := board jobM pj
    let f (code fmt : Nat) : Frame := { peerFrm opCkpt 64 with hdr := { op := opCkpt, job := 7, len := 64, srcdev := 1, comma := code, fmt := fmt } }
    (∀ c ∈ [(ccP, 0), (1, 0), (1, 8)], s.Receives 15 (rx true (f c.1 c.2)) [opCkpt] (f c.1 c.2) ∧
      (s.landed 15 (rx true (f c.1 c.2)) (f c.1 c.2)).openOn 0 7 = some (jobM, pj) ∧ pj.ckptFmtOk (f c.1 c.2) = (c.2 == 0)) ∧
    jobEnded jobM pj = false ∧ pj.findShare 0 = some h ∧ s.farDev 15 ∈ s.keepers jobM 0 ∧ h.rebuilds = [] ∧ (f 0 0).hdr.uni = false ∧
    matrixCode ccP = true ∧ h.kblocks[0]? = some q ∧ 0 < blockEdge pj.prec * blockEdge pj.prec ∧ arrayCode 1 = true ∧ 0 < h.elems.length ∧
    2 ≤ wordsOf pj.opt := by
  unfold State.Receives; decide +kernel

theorem test_hyps_noticeCopy :
    let j : Job := { jobB with peers := [(0, 1, 15), (0, 1, 14)] }
    let s : State := { board j pjob0 with part := { up.part with bsize := 2, far := List.replicate 14 0xFF ++ [1, 1] } }
    let f := peerFrm opNotice 64
    let u := s.landed 15 (rx true f) f
    s.Receives 15 (rx true f) [opNotice, opRetract] f ∧ u.openOn 0 7 = some (j, pjob0) ∧ f.hdr.uni = false ∧ (u.plane 0).notices = [] ∧
    14 ∈ j.peerLanes 0 (s.farDev 15) ∧ 14 ≠ (laneIn 15).val ∧ u.deadPeer 0 7 (Fin.ofNat 16 14) = false ∧
    (u.lane (devLane 0 (Fin.ofNat 16 14))).st = .up := by
  unfold State.Receives; decide +kernel

theorem test_hyps_noticeTimeout :
    let c : NoticeCopy := { job := 7, src := 1, op := opNotice, frame := peerFrm opNotice 64, lanes := [15] }
    let s := (board jobB pjob0).updPlane 0 fun p => { p with notices := [c] }
    (s.plane 0).notices.find? (fun n => n.job == 7 && n.src == 1 && !n.done) = some c ∧ s.findJob 7 = some jobB ∧
    s.pjob 0 7 = some pjob0 ∧
    (pjob0.liveMembers.filter fun m => jobB.memberDev m == s.bidx).find? (fun m => jobB.memberLane 0 m == 0) = some 0 ∧
    (s.lane (devLane 0 0)).st = .up ∧ s.isPeer (devLane 0 0) = false := by
  decide +kernel

theorem test_hyps_digests :
    let h : Share := { share0 with digests := [(0, 0, zeros 16)], voteGen := some 0 }
    let pj : PJob := { pjob0 with shares := [h] }
    let s := board jobB pj
    let f (b : Byte) : Frame := peerFrm opDigest 64 (zeros 2 ++ [1, 0] ++ zeros 20 ++ [b] ++ zeros 39)
    (∀ b ∈ [0, 1], s.Receives 15 (rx true (f b)) [opDigest] (f b) ∧ (s.landed 15 (rx true (f b)) (f b)).openOn 0 7 = some (jobB, pj) ∧
      (slice (f b).payload 0x18 16 = zeros 16 ↔ b = 0) ∧ digestZeros (f b).payload = true) ∧
    s.isPeer 15 = true ∧ jobEnded jobB pj = false ∧ fieldAt (f 0).payload 2 1 = 1 ∧ pj.findShare 0 = some h ∧ h.role = .home ∧
    h.halted = false ∧ h.rebuilds = [] ∧ h.voteGen = some pj.orec.gen ∧ s.goodCopies jobB 0 h = [s.bidx, s.farDev 15] ∧
    s.farDev 15 ≠ s.bidx ∧ fieldAt (f 0).payload 0x10 4 = pj.orec.gen ∧ s.openOn 0 7 = some (jobB, pj) := by
  unfold State.Receives; decide +kernel

/-- A plain all-reduce job whose members sent digests of step 0. -/
def judged (d0 d1 : Byte) : PJob :=
  { pjob0 with opt := {}, orec := { step := 1 }, memDigs := [(0, leBytes 8 0 ++ [d0]), (1, leBytes 8 0 ++ [d1])] }

theorem test_hyps_judge :
    let j : Job := { job0 with digk := 1 }
    (∀ d ∈ [0, 1], let pj := judged 0 d
      let s := withJob j pj
      s.openOn 0 7 = some (j, pj) ∧ jobEnded j pj = false ∧ pj.opt.kernel = 0 ∧ 0 < j.digk ∧ 0 < pj.orec.step ∧
      (pj.orec.step - 1) % j.digk = 0 ∧ j.judge = s.bidx ∧ (planesOf j.hdr.planes.toNat).head? = some 0 ∧ pj.group.Nodup ∧
      (pj.memDigs.map (·.1)).Nodup ∧ (∀ x ∈ pj.memDigs, x.1 ∈ pj.group ∧ fieldAt x.2 0 8 = pj.orec.step - 1)) ∧
    (judged 0 0).group.length < 2 * ((judged 0 0).group.filter fun m => ((judged 0 0).memDigs.lookup m).any fun x => x.drop 8 == [0]).length ∧
    2 ≤ (judged 0 1).group.length ∧ ((judged 0 1).memDigs.map fun x => x.2.drop 8).Nodup := by
  decide +kernel

theorem test_hyps_norms :
    let s := board jobB pjob0
    let f := peerFrm opNorm 64 (zeros 2 ++ zeros 14 ++ leBytes 4 0x3F800000 ++ zeros 44)
    s.Receives 15 (rx true f) [opNorm] f ∧ ((s.landed 15 (rx true f) f).plane 0).norms = [] ∧ s.farDev 15 ≠ s.bidx := by
  unfold State.Receives; decide +kernel

theorem test_hyps_ownNorm :
    let f := peerFrm opNorm 64 (zeros 2 ++ zeros 14 ++ leBytes 4 0x3F800000 ++ zeros 44)
    let own : NormPair := { job := 7, step := 0, dev := 0, norm := 0x40000000, flags := {} }
    let s1 := (board jobB pjob0).updPlane 0 fun p => { p with norms := [own] }
    let u := s1.landed 15 (rx true f) f
    s1.Receives 15 (rx true f) [opNorm] f ∧ u.openOn 0 7 = some (jobB, pjob0) ∧ (u.plane 0).norms = [own] ∧
    u.unreachable 0 jobB 1 = false ∧ s1.jobDevs jobB = [s1.bidx, 1] ∧
    (let v : State := { s1 with boot := { s1.boot with bidx := 1 } }; v.jobDevs jobB = [0, v.bidx]) := by
  unfold State.Receives; decide +kernel

theorem test_hyps_jdig :
    let s := board jobB pjob0
    let f (d : List Byte) : Frame := peerFrm opJdig 64 (zeros 8 ++ d ++ zeros 48)
    (∀ d ∈ [jobB.descDigest, zeros 8], s.Receives 15 (rx true (f d)) [opJdig] (f d) ∧ slice (f d).payload 8 8 = d ∧
      (s.landed 15 (rx true (f d)) (f d)).openOn 0 7 = some (jobB, pjob0)) ∧
    jobB.st.isActive = true ∧ jobB.jdigs = [] ∧ zeros 8 ≠ jobB.descDigest := by
  unfold State.Receives; decide +kernel

/-! ### Kernels and the full stop -/

/-- A bucket at its comma, in the Complete queue. -/
def shareDone : Share := { share0 with bst := .complete, commaDone := true, reduced := List.replicate 16 0x45000000 }
def entry0 : QEntry := { job := 7, bucket := 0, chunk := 0 }
def completing (pj : PJob) : State := (withJob job0 pj).updPlane 0 fun p => { p with qComplete := { entries := [entry0] } }

theorem test_hyps_kernels :
    (let pj : PJob := { pjob0 with shares := [shareDone] }
     let s := completing pj
     ((s.plane 0).qComplete.taken ++ (s.plane 0).qComplete.entries).find? (s.kernelReady 0) = some entry0 ∧ s.findJob 7 = some job0 ∧
     s.pjob 0 7 = some pj ∧ pj.findShare 0 = some shareDone ∧ pj.skipKernel s.bidx shareDone = false ∧ pj.opt.kernel ∈ [1, 2, 3] ∧
     shareDone.kblocks = [] ∧
     (let kc := (stepConsts pj.opt pj.orec.pow1 pj.orec.pow2 pj.u fone).1
      let out := kVector job0.kimg kc shareDone.reduced shareDone.ind
      out.arrays.length = wordsOf pj.opt ∧ ∀ a ∈ out.arrays, a.length = shareDone.reduced.length)) ∧
    (let pj : PJob := { pjob0 with shares := [shareDone], stepFlags := { overflow := true } }
     pj.skipKernel (completing pj).bidx shareDone = true) ∧
    ((completing pjob0).plane 0).qResult.stalled 256 = false ∧
    (((completing pjob0).updPlane 0 fun p => { p with qResult := { entries := List.replicate 256 entry0 } }).plane 0).qResult.stalled 256 = true := by
  decide +kernel

theorem test_hyps_refresh :
    let q : KBlock := { buf0 := [], buf1 := [], buf2 := [], ql := [], qr := [] }
    let h : Share := { share0 with kblocks := [q] }
    let pj : PJob := { pjob0 with shares := [h], refreshQ := [(0, 1)] }
    let s := withJob job0 pj
    s.findJob 7 = some job0 ∧ s.pjob 0 7 = some pj ∧ pj.refreshQ = (0, 1) :: [] ∧ pj.blockList[0]? = some (0, 0) ∧
    pj.findShare 0 = some h ∧ h.kblocks[0]? = some q ∧ s.refreshTurn 0 7 = true := by
  decide +kernel

/-- The job on planes 0 and 1. -/
def job2 : Job := { job0 with hdr := { hdr0 with planes := 3 } }
def pair0 (plane norm : Nat) : Pair := { job := 7, step := 0, norm := BitVec.ofNat 32 (norm + plane), flags := {} }
def combining : State :=
  let s := ({ up with jobs := [job2], comb := { ents := [⟨7, 0, [(0, 1, {})]⟩] } } : State).updPlane 0 fun p => { p with jobs := [pjob0] }
  s.updPlane 1 fun p => { p with jobs := [pjob0], scalarUp := [pair0 1 1] }

theorem test_hyps_combiner :
    ((combining.plane 1).scalarUp = [pair0 1 1] ∧ combining.findJob 7 = some job2 ∧ job2.st.isActive = true ∧
      ((7, 0) : Nat × Nat) ∉ combining.comb.dropped ∧ job2.lastComb < ((0 : Nat) : Int) ∧ job2.ringHold = false ∧ job2.planes = [0, 1] ∧
      combining.heldPlanes job2 = [0, 1] ∧ combining.comb.pairsOf 7 0 = [((0 : PlaneIx).val, 1, {})]) ∧
    (let s := combining.updPlane 2 fun p => { p with scalarUp := [pair0 2 1] }
     (s.plane 2).scalarUp = [pair0 2 1] ∧ job2.hdr.planes.getLsbD 2 = false) ∧
    (let s := (combining.updPlane 0 fun p => { p with scalarUp := [pair0 0 1] }).updPlane 1 fun p => { p with scalarUp := [] }
     let s : State := { s with comb := { ents := [⟨7, 0, [(1, 1, {})]⟩] } }
     (s.plane 0).scalarUp = [pair0 0 1] ∧ s.comb.pairsOf 7 0 = [((1 : PlaneIx).val, 1, {})]) := by
  decide +kernel

theorem test_hyps_combinedWord :
    let pj : PJob := { pjob0 with fs := .await, u := 0x3F800000 }
    let w (step : Nat) (total : W32) (fl : Flags) : DownWord := .combined 7 step total fl
    let s (x : DownWord) : State := (withJob job0 pj).updPlane 0 fun p => { p with scalarDown := [x] }
    ((s (w 0 0x3F800000 {})).plane 0).scalarDown = [w 0 0x3F800000 {}] ∧ (s (w 0 0x3F800000 {})).pjob 0 7 = some pj ∧ pj.orec.step = 0 ∧
    pj.opt.kernel ≠ 4 ∧ fge 0x7F7FFFFF 0x3F800000 = true ∧
    fgt (frMul (frSqrt (frOf 0x3F800000)) (frOf pj.u)).1 pj.opt.clipnorm = false ∧ fge 0x7F7FFFFF 0x7F800000 = false ∧ pj.orec.step ≠ 1 ∧
    (∀ q ∈ ((s (w 0 0x3F800000 {})).plane 0).jobs, q.waitWord = none) ∧ pj.genLimit (pathOf pj.opt pj.u 0x3F800000 {}).1 = false ∧
    (let gn := frMul (frSqrt (frOf 0x41800000)) (frOf pj.u)
     fgt gn.1 pj.opt.clipnorm = true ∧ fgt fone (frDiv (frOf pj.opt.clipnorm) gn).1 = true) := by
  decide +kernel

/-- The last generation numbers: a commit that would bring `NEXTGEN` to 0xFFFFFFFF, and the one before it. -/
theorem test_hyps_genLimit :
    let pj (n : Nat) : PJob := { pjob0 with fs := .await, u := 0x3F800000, subgen := n }
    let s (n : Nat) : State := (withJob job0 (pj n)).updPlane 0 fun p => { p with scalarDown := [.combined 7 0 0x3F800000 {}] }
    (pj 0xFFFFFFFE).genLimit (pathOf opt0 0x3F800000 0x3F800000 {}).1 = true ∧
    (pj 0xFFFFFFFD).genLimit (pathOf opt0 0x3F800000 0x3F800000 {}).1 = false ∧
    (s 0xFFFFFFFE).findJob 7 = some job0 ∧ job0.st.isActive = true ∧ (s 0xFFFFFFFE).pjob 0 7 = some (pj 0xFFFFFFFE) ∧
    (∀ q ∈ ((s 0xFFFFFFFE).plane 0).jobs, q.waitWord = none) := by
  decide +kernel

theorem test_hyps_paths :
    (let pj : PJob := { pjob0 with fs := .commit, outcome := 1, shares := [{ shareDone with kernelRan := true }] }
     let s := withJob job0 pj
     s.findJob 7 = some job0 ∧ s.pjob 0 7 = some pj ∧ pj.opt.kernel ≠ 0 ∧ pj.allRan s.bidx = true ∧ s.readHolds 0 7 = false) ∧
    (let pj : PJob := { pjob0 with fs := .rescale, outcome := 2, clipc := 0x3F000000 }
     let s := withJob job0 pj
     let kc := (stepConsts pj.opt pj.orec.pow1 pj.orec.pow2 pj.u pj.clipc).1
     s.pjob 0 7 = some pj ∧ s.readHolds 0 7 = false ∧ (pj.shares.map (·.bucket)).Nodup ∧
     (∀ h ∈ pj.shares, h.kept = true → h.stale s.bidx = false →
       (kVector job0.kimg kc (h.logVals job0.logl pj.orec.step) h.ind).fault = none) ∧
     (let q : PJob := { pj with opt := { opt0 with kernel := 4 } }
      (withJob job0 q).rescaleFirst 0 = some 7)) ∧
    (let pj : PJob := { pjob0 with fs := .discard, outcome := 3, orec := { lscale := 0x40000000 } }
     let s := withJob job0 pj
     s.pjob 0 7 = some pj ∧ pj.outcome ∈ [3, 4, 5] ∧ pj.opt.kernel ≠ 0 ∧ pj.opt.fixedscale = false ∧ pj.orec.lscale ≠ fone) := by
  decide +kernel

theorem test_hyps_drain :
    let pj : PJob := { pjob0 with fs := .drain }
    let s := withJob job0 pj
    s.findJob 7 = some job0 ∧ s.pjob 0 7 = some pj ∧ pj.refreshQ = [] ∧ (s.plane 0).tests = [] ∧ pj.fencePend = 0 ∧
    pj.wordFlags.drain = false ∧ (∀ x ∈ (s.plane 0).held, x.frame.hdr.job ≠ 7) ∧
    (s.plane 0).unsent = [] ∧
    (let d : Desc := { frame := frm opDone 0, job := 7, cls := 0 }
     let u := s.updLane (devLane 0 3) fun l => { l with egWait := [d] }
     d ∈ (u.plane 0).unsent ∧ d.frame.hdr.op ≠ opCkpt) ∧
    (∀ b ∈ [true, false], ({ pj with refreshQ := [(0, 0)], refLateSeen := b } : PJob).refreshQ ≠ []) ∧
    ({ pj with wordFlags := { drain := true } } : PJob).wordFlags.drain = true ∧ ({ pj with fencePend := 2 } : PJob).fencePend ≠ 0 := by
  decide +kernel

theorem test_hyps_fences :
    (let s := (withJob job0 pjob0).updPlane 0 fun p => { p with scalarDown := [.fence 7 2] }
     (s.plane 0).scalarDown = [.fence 7 2] ∧ s.findJob 7 = some job0 ∧ s.pjob 0 7 = some pjob0 ∧ pjob0.fs = .run) ∧
    (let j : Job := { job0 with st := .reclaiming }
     (withJob j pjob0).findJob 7 = some j ∧ (withJob j pjob0).ringWaits j = false) ∧
    (let j : Job := { jobB with st := .reclaiming }
     let s := board j { pjob0 with fs := .await, pairSent := true }
     s.findJob 7 = some j ∧ s.ringWaits j = true) ∧
    (let j : Job := { job0 with ringHold := true }
     (withJob j pjob0).findJob 7 = some j ∧ j.st.isActive = true) ∧
    (let j : Job := { job0 with st := .fenced, ended := true }
     (withJob j { pjob0 with fs := .fenced }).findJob 7 = some j ∧ j.closing = none) := by
  decide +kernel

/-! ### Queues, traffic, tests -/

theorem test_hyps_queues :
    (((up.updPlane 0 fun p => { p with qParse := { entries := [entry0] } }).plane 0).queue 0).entries = [entry0] ∧
    ((up.updPlane 0 fun p => { p with qAdmit := { entries := [entry0], waiting := [entry0] } }).plane 0).queue 1 =
      { entries := [entry0], waiting := [entry0] } ∧
    ((up.updPlane 0 fun p => { p with qPublish := { entries := [entry0] } }).plane 0).queue 6 = { entries := [entry0] } ∧
    (up.plane 0).parked = [] ∧ (up.plane 0).obs = [] ∧
    (let o : Obs := { block := 3, unit := 0 }; o.errs + 1 < up.host.obsretire) ∧
    (let x : Desc := { frame := frm opDone 0, job := 7, cls := 0 }
     let s (l : Lane) : State := up.updLane 3 fun _ => l
     ((s { egWait := [x] }).lane (devLane 0 3)).egWait = [x] ∧ ((s { egWait := [x] }).lane (devLane 0 3)).egress.length < 128 ∧
     ((s { egress := [x] }).lane (devLane 0 3)).egress = [x]) ∧
    (withJob job0 pjob0).pjob 0 7 = some pjob0 ∧ pjob0.meterBad = false ∧ ({ pjob0 with meterBad := true } : PJob).meterBad = true ∧
    up.part.gnwin = 0 ∧ ({ up.part with gnwin := 1 } : PartView).gnwin ≠ 0 := by
  decide +kernel

/-- A frame that arrives behind a stalled stage, one that arrives behind a frame that waits, and one that goes on. -/
theorem test_hyps_parked :
    let fr := frm opGrad 64
    let p0 : Parked := { lane := 0, frame := fr, cells := 1 }
    let s (p : Plane → Plane) : State := (withJob job0 pjob0).updPlane 0 p
    let full : State := s fun p => { p with qAdmit := { entries := List.replicate 512 entry0 } }
    let behind : State := s fun p => { p with parked := [p0] }
    (∀ u ∈ [full, behind], (u.lane 0).st = .up ∧ (u.plane (planeOf 0)).ps = .inService ∧
      parseFrame (u.isPeer 0) (u.farDev 0) (settled (rx false fr)) = .ok fr ∧
      ((u.fecCount 0 (settled (rx false fr)).fec).room (planeOf 0) fr).isSome = true) ∧
    (full.plane (planeOf 0)).frontStalled = true ∧ (behind.plane 0).parked = [p0] ∧ (behind.plane 0).frontStalled = false ∧
    (behind.plane 0).qAdmit.entries = [] ∧ p0.later = .none ∧ p0.work = {} := by
  decide +kernel

theorem test_hyps_egress :
    let x (cls : Nat) (waited : Bool) : Desc := { frame := frm opDone 0, job := 7, cls := cls, waited := waited }
    let s (cls : Nat) (waited : Bool) (drr : List DrrEntry) (ts : Nat) : State :=
      up.updLane 0 fun _ => { st := .up, egress := [x cls waited], drr := drr, ts := ts }
    let bytes (cls : Nat) := (x cls false).frame.bytes + ((s cls false [] 0).lane 0).shovh
    (s 0x80 true [] 0).chosen 0 = some (x 0x80 true) ∧ (s 0x80 false [] 0).chosen 0 = none ∧
    (((s 0x80 true [] 0).lane 0).st = .up ∧ servingPick ((s 0x80 false [] 0).lane 0).egress = some (x 0x80 false)) ∧
    (bytes 0x80 ≤ ((s 0x80 false [] (bytes 0x80)).lane 0).ts ∧ ((s 0x80 false [] (bytes 0x80 - 1)).lane 0).ts < bytes 0x80) ∧
    (x 0x80 true).later = .none ∧
    (let u := (s 0 false [] 0).updPlane 0 fun p => { p with window := true }
     servingPick (u.lane 0).egress = none ∧ u.laneOwner 0 = 2 ∧ (u.plane (planeOf 0)).window = true ∧ u.chosen 0 = none) ∧
    (let e : DrrEntry := { job := 7, deficit := 8228, started := true }
     let u := s 0 false [e] (bytes 0)
     u.chosen 0 = none ∧ servingPick (u.lane 0).egress = none ∧ (u.plane (planeOf 0)).window = false ∧ (u.lane 0).drr = [e] ∧
     (u.lane 0).egress.find? (fun y => y.job == 7 && y.cls < 0x80) = some (x 0 false) ∧ (x 0 false).frame.bytes ≤ e.deficit ∧
     u.gateAllows 0 (x 0 false).frame.len = true ∧ bytes 0 ≤ (u.lane 0).ts ∧ (x 0 false).held = false ∧
     (let v : State := { u with part := { u.part with gnwin := 1, gcycle := 10000, gstart := [1], glen := [10] } }
      v.gateAllows 0 (x 0 false).frame.len = false ∧ v.chosen 0 = none)) := by
  decide +kernel

theorem test_hyps_detectorAndTests :
    (up.plane 0).ps = .inService ∧ (up.plane 0).leaked = [] ∧ 5 ∉ (up.plane 0).suspects ∧
    (let s := (withJob job0 pjob0).updPlane 0 fun p => { p with suspects := [5] }
     5 ∈ (s.plane 0).suspects ∧ s.findJob 7 = some job0 ∧ s.pjob 0 7 = some pjob0 ∧ jobEnded job0 pjob0 = false) ∧
    testSegments 4 ≠ 0 ∧ (up.plane 0).tests = [] ∧
    (let t (n : Nat) : TestRun := { block := 5, segsLeft := n }
     let s (n : Nat) : State := up.updPlane 0 fun p => { p with tests := [t n] }
     ((s 2).plane 0).testOf 5 = some (t 2) ∧ 1 < (t 2).segsLeft ∧ ((s 1).plane 0).testOf 5 = some (t 1) ∧ (t 1).repeats = 1 ∧
     (t 1).cmd = none ∧ ((s 1).plane 0).tests.find? (fun t => t.block == 5 && t.cmd.isNone && !t.overdue) = some (t 1) ∧
     (s 1).segmentAllowed 0 5 = true ∧ segPasses 5 0 (.march true) = true ∧ segPasses 5 0 (.march false) = false ∧
     segUnit 5 (testSegments 5 - 1) (32 * (testSegments 5 - 1)) = true ∧ ((s 1).plane 0).testFree 5 (32 * (testSegments 5 - 1)) = true) ∧
    (let s := (withJob job0 pjob0).updPlane 0 fun p => { p with tests := [{ block := 5, segsLeft := 1 }], segSlot := false }
     s.segmentAllowed 0 5 = false) := by
  decide +kernel

theorem test_hyps_watchdogs :
    (up.plane 0).ps = .inService ∧ (withJob job0 pjob0).findJob 7 = some job0 ∧ job0.st.isActive = true ∧ job0.hdr.planes.getLsbD 0 = true ∧
    ((up.updPlane 0 fun p => { p with ps := .restarting }).plane 0).ps = .restarting ∧ up.mod.inReset = false ∧
    up.host.programming = none ∧ up.host.calWriting = none := by
  decide +kernel

/-! ### Lanes and engines -/

theorem test_hyps_lanesDown :
    (up.lane 0).st = .up ∧ (up.plane (planeOf 0)).linksRun = true ∧ up.laneJobs 0 = [] ∧ (withJob job0 pjob0).laneJobs 0 ≠ [] ∧
    (up.lane 0).st ≠ .disabled ∧ (up.lane 0).laserOn = true ∧ ((laneSt {}).lane 0).laserOn = false ∧ ((laneSt {}).lane 0).st ≠ .disabled ∧
    (∀ d ∈ engineLanes 0, (up.lane d).st ≠ .txfault) ∧ (up.plane (enginePlane 0)).linksRun = true ∧ up.isPeer 0 = false ∧
    (up.plane (planeOf 0)).qPublish = {} ∧ up.jobs = [] ∧ (up.plane (planeOf 0)).cnt < ((laneSt { st := .up, sendEnd := 1 }).lane 0).sendEnd := by
  decide +kernel

theorem test_hyps_lanesTrain :
    let x : TrainInfo := { b1 := 0, b2 := 0, b3 := 0, b4 := 0 }
    ((laneSt {}).lane 0).st = .dark ∧ ((laneSt {}).lane 0).los = true ∧ ((laneSt { st := .dormant }).lane 0).st = .dormant ∧
    (let t : Lane := { st := .training, plock := true, echoOk := true, ready := true }
     ((laneSt t).lane 0).st = .training ∧ ((laneSt t).lane 0).plock = true ∧ ((laneSt t).lane 0).echoOk = true ∧
     ((laneSt t).lane 0).ready = true ∧ (0x80 : Byte).getLsbD 7 = true ∧ ((laneSt t).lane 0).holdoff = false ∧ t.st.trains = true ∧
     ((laneSt { t with echoOk := false }).lane 0).echoOk = false ∧ ((laneSt t).plane (planeOf 0)).linksRun = true) ∧
    (let s := (laneSt { st := .training }).updPlane 0 fun p => { p with engines := Vector.replicate 2 { orderSet := true } }
     (s.engine (laneEngine 0)).orderSet = true ∧ s.wired 0 x = true) ∧
    (let s := (board jobB pjob0).updPlane 0 fun p => { p with lanes := p.lanes.set 15 { st := .training },
                                                              engines := Vector.replicate 2 { orderSet := true } }
     (s.lane 15).st = .training ∧ (s.engine (laneEngine 15)).orderSet = true ∧ s.wired 15 x = false) := by
  decide +kernel

theorem test_hyps_engines :
    (let s := up.updPlane 0 fun p => { p with lanes := Vector.replicate 16 {} }
     (s.plane (enginePlane 0)).linksRun = true ∧ (∀ d ∈ engineLanes 0, (s.lane d).los = true ∧ (s.lane d).st ≠ .up ∧ s.corrector d = true) ∧ (s.engine 0).flipping = false ∧
     ∀ d ∈ engineLanes 0, (s.lane d).st = .dark) ∧
    ((up.updPlane 0 fun p => { p with engines := Vector.replicate 2 { flipping := true } }).engine 0).flipping = true ∧
    (let s := up.updPlane 0 fun p => { p with lanes := Vector.replicate 16 { st := .training } }
     0 ∈ engineLanes 0 ∧ (∀ y ∈ engineLanes 0, (s.lane y).st ≠ .up) ∧ (s.lane 0).st = .training ∧ s.corrector 0 = true ∧ (s.engine 0).orderSet = false ∧
     s.echoLane 0 { b1 := 0, b2 := 0, b3 := BitVec.ofNat 8 (128 + s.ownByte1 0), b4 := 7 } = some (8 * ((laneIn 0).val / 8) + (7 - (laneIn 0).val % 8))) := by
  decide +kernel

/-! ### Module, boot, and what planes take -/

theorem test_hyps_power :
    ({ up with mod := { up.mod with inputGood := false, overvolt := true } } : State).mod.inputGood = false ∧ 61000 ≤ 61000 ∧ 49000 ≤ 49000 ∧
    62000 < 62001 ∧ up.mod.inputGood = true := by
  decide

theorem test_hyps_resets :
    (up.mod.standby = true ∧ up.mod.tripLatch = false) ∧
    (let s (t : Int) : State := { up with mod := { up.mod with tripLatch := true, railsOn := false, diodes := List.replicate 9 t } }
     (s 899).mod.tripLatch = true ∧ (s 899).mod.cool = true ∧ (s 900).mod.cool = false) ∧
    (let s : State := { up with mod := { up.mod with inReset := true } }
     s.mod.inReset = true ∧ s.mod.railsOn = true ∧ s.mod.inputGood = true ∧ s.mod.tripLatch = false) ∧
    up.mod.inReset = false ∧ up.mod.railsOn = true := by
  decide

theorem test_hyps_sensors :
    (up.plane 7).railsOn = true ∧ (950 : Int) ≤ 950 ∧ (919 : Int) < 920 ∧ 11500 < 11501 ∧ 10799 < 10800 ∧
    (up.plane 7).railFault = false ∧ (up.plane 7).ps ≠ .held ∧ up.alertOut = false ∧ up.mod.standby = true ∧ 15 < (16 : Byte).toNat ∧
    up.boot.bcode ≠ 255 ∧ State.reset.boot.bcode = 255 ∧ up.mod.inReset = false ∧
    smbusHere { code := 0, strap := 3, addr := 0x53 } = true ∧ smbusHere { code := 0, strap := 3, addr := 0x50 } = false := by
  decide

theorem test_hyps_boot :
    State.reset.booting = true ∧ ({ State.reset with boot := { bootstep := 8 } } : State).booting = true ∧ State.reset.boot.bootstep < 8 ∧ State.reset.boot.recmode = false ∧
    verifyPackage State.reset.nv State.reset.bidx State.reset.nv.slot = none ∧ (pkgHdr factoryPackage).fflags % 2 = 0 ∧
    (let nv : NonVol := { NonVol.delivery with slot := [] }
     let s : State := { State.reset with nv := nv }
     s.booting = true ∧ verifyPackage s.nv s.bidx s.nv.slot = some 1) := by
  exact ⟨by decide, by decide, by decide, by decide, test_factory_package_verifies, by decide +kernel, by decide, by decide +kernel⟩

/-- Plane 0 with a command at the front of its Command in queue, in a device that waits for this plane alone. -/
def taking (s : State) (p : Packet) : State :=
  { s.updPlane 0 fun x => { x with cmdIn := [{ held := 0, pkt := p }] } with
    host := { s.host with held := [{ heldCmd p with phase := .waiting, owes := [0] }] } }

theorem taking_takesNext (s : State) (p : Packet) (h : (s.plane 0).ps = .inService) (hw : s.host.cmdWait = []) :
    (taking s p).TakesNext 0 { held := 0, pkt := p } [] { heldCmd p with phase := .waiting, owes := [0] } := by
  have h0 : (s.updPlane 0 fun x => { x with cmdIn := [{ held := 0, pkt := p }] }).plane 0 =
      { s.plane 0 with cmdIn := [{ held := 0, pkt := p }] } := by simp
  have hp : (taking s p).plane 0 = { s.plane 0 with cmdIn := [{ held := 0, pkt := p }] } := h0
  refine ⟨by rw [hp]; exact h, ⟨[], by rw [hp], ?_⟩, by simp [taking], rfl, rfl, rfl, rfl, ?_⟩
  · simp [State.cmdEntering, taking, heldCmd, hw]
  intro y hy _
  simpa [taking] using hy

theorem test_hyps_planeTakes :
    (up.plane 0).ps = .inService ∧ (withJob job0 pjob0).pjob 0 7 = some pjob0 ∧ lanesOf (pf (cmd 0x0802 [0, 0x80]) 0 2) = [15] ∧
    (up.lane (devLane 0 15)).st = .up ∧ up.laneJobs (devLane 0 15) = [] ∧ ((laneSt { st := .hold }).lane (devLane 0 0)).st = .hold ∧
    ((laneSt { st := .dormant }).lane (devLane 0 0)).st = .dormant ∧ ((laneSt { st := .disabled }).lane (devLane 0 0)).st = .disabled ∧
    (withJob job0 pjob0).laneJobs (devLane 0 0) ≠ [] ∧ ((laneSt {}).lane (devLane 0 0)).st ≠ .up ∧
    ((withJob job0 pjob0).lane (devLane 0 0)).st ∉ [.disabled, .txfault] ∧ ((withJob job0 pjob0).lane (devLane 0 0)).st = .up ∧
    ((laneSt { st := .disabled }).lane (devLane 0 0)).retired = false := by
  decide +kernel

theorem test_hyps_planeJobs :
    (let s : State := { up with jobs := [job0, { job0 with id := 8, st := .defining }] }
     s.findJob 7 = some job0 ∧ s.pjob 0 7 = none ∧ job0.st.isOpen = true ∧ job0.hdr.planes.getLsbD 0 = true ∧
     job0.hdr.planes.getLsbD 1 = false ∧ s.findJob 8 = some { job0 with id := 8, st := .defining } ∧ JState.defining.isOpen = false) ∧
    (withJob job0 pjob0).findJob 7 = some job0 ∧ (withJob job0 pjob0).pjob 0 7 = some pjob0 ∧ jobEnded job0 pjob0 = false := by
  decide +kernel

theorem test_hyps_openTake :
    let j : Job := { job0 with st := .loading }
    let s : State := { up with jobs := [j] }
    (s.plane 0).ps = .inService ∧ s.findJob 7 = some j ∧ j.id = 7 ∧ s.pjob 0 7 = none := by
  decide +kernel

/-! ### Rules of the whole machine -/

theorem test_hyps_words : (1 : W32) ^^^ 0 = 1 ^^^ 0 ∧ (0 : W32) ≠ 1 ∧ (1 : W32) ≠ 2 ∧ (0 : W32) ≠ 2 := by decide

theorem test_hyps_invariant : up.Inv ∧ (up.pending = [] ∧ ∃ t, step up = .next t) := by
  refine ⟨?_, by decide, ⟨_, rfl⟩⟩
  unfold State.Inv; decide

/-- The frames that parse back: a member's and a peer's. -/
theorem test_hyps_frames :
    (let f := frm opGrad 8192
     f.hdr.op ∈ memberOps ∧ f.hdr.op ∈ elemOps ∧ (fmtBits f.hdr.fmt).isSome = true ∧ f.payload.length = 8192 ∧ fixedLen f.hdr.op = none) ∧
    (let h : Hdr := { op := opDone, job := 65535, bucket := 65535, comma := 65535, chunk := 2 ^ 20 - 1, elemoff := 2 ^ 24 - 1,
                      gen := 2 ^ 32 - 1, mask := 65535, cls := 255, memb := 127, srcdev := 7 }
     let f : Frame := { hdr := h }
     f.hdr.op ∈ peerOps ∧ fixedLen f.hdr.op = some f.payload.length ∧ f.hdr.job < 65536 ∧ f.hdr.mask < 65536 ∧ f.hdr.srcdev < 8) := by
  decide +kernel

theorem test_hyps_hostCounters :
    (State.reset.host.raen = false ∧ State.reset.host.catail = 0 ∧ State.reset.host.caexp = 0) ∧
    (let s : State := { up with host := { up.host with caovrun := 0xFFFFFFFF, rptlost := 0xFFFFFFFF, raen := false } }
     s.host.caovrun ≤ 0xFFFFFFFF ∧ s.host.rptlost ≤ 0xFFFFFFFF ∧ s.mod.inReset = false ∧ s.mod.inputGood = true) := by
  decide

/-- A package whose `FSVN` is above `MINSVN`, with `RAISESVN` set, that verifies: the factory package signed anew with that header. -/
def raisingPackage : List Byte := (factoryPackage.set 8 5).set 12 1

theorem test_hyps_minSvn : ∃ nv : NonVol,
    let s : State := { State.reset with nv := nv }
    s.booting = true ∧ verifyPackage s.nv s.bidx s.nv.slot = none ∧ (pkgHdr s.nv.slot).fflags % 2 = 1 ∧ s.nv.minSvn < (pkgHdr s.nv.slot).fsvn := by
  have hp : pkgValid raisingPackage = true := by decide +kernel
  have hs : slice raisingPackage (pkgHdr raisingPackage).fsigoff 4627 = factorySig := by decide +kernel
  have hm : pkgManifest raisingPackage = defaultManifestBody ++ factorySig := by decide +kernel
  have hl : defaultManifestBody.length = 0x1380 := by decide +kernel
  have h2 : fieldAt (defaultManifestBody ++ factorySig) 2 1 = 0 := by decide +kernel
  have hk : (pkgHdr raisingPackage).mkeyoff = 0 := by decide +kernel
  have hv : (pkgHdr raisingPackage).fsvn = 5 := by decide +kernel
  have hf : (pkgHdr raisingPackage).fflags = 1 := by decide +kernel
  refine ⟨{ NonVol.delivery with slot := raisingPackage, validSigs :=
    [(Config.mallinelFirmwareKey, sha3_512 (fwCovered raisingPackage), factorySig),
     (Config.mallinelManifestKey, sha3_512 defaultManifestBody, factorySig)] }, rfl, ?_, ?_, ?_⟩
  · show verifyPackage _ 0 raisingPackage = none
    unfold verifyPackage NonVol.verifies
    simp only [hp, hs, hm, h2, hk, hv]
    simp [NonVol.delivery, ← hl, default_manifest]
  · show (pkgHdr raisingPackage).fflags % 2 = 1
    rw [hf]
  · show 0 < (pkgHdr raisingPackage).fsvn
    rw [hv]; decide

theorem test_hyps_lowSvn :
    (let s : State := { State.reset with nv := { NonVol.delivery with minSvn := 1 } }
     s.booting = true ∧ (pkgHdr s.nv.slot).fsvn < s.nv.minSvn) ∧
    (let s : State := { up with nv := { NonVol.delivery with minSvn := 1 } }
     s.jobsOpen = 0 ∧ s.host.programming = none ∧ (pkgHdr (memReadN s.host.staging 0 (min 64 stagingSize))).fsvn < s.nv.minSvn) ∧
    (up.part.locked = true ∧ up.booting = false) := by
  decide +kernel

end Sys2Proof.Tests
end

/-! ## What sending, answering and reporting leave alone

The operations that put frames on their way out, answer commands and post reports run inside almost every row of the architecture family.  Two
relations say once what they keep: `State.Sends` (frames only) and `State.Calm` (frames, answers, reports and the waits they end). -/

namespace Sys2Proof.Machine

/-! ### Sending frames -/

/-- `t` is `s` with frames put on their way out: of each plane only the lanes and the Publish queue differ. -/
structure State.Sends (s t : State) : Prop where
  planes : t = { s with planes := t.planes }
  plane : ∀ q, t.plane q = { s.plane q with lanes := (t.plane q).lanes, qPublish := (t.plane q).qPublish }

theorem State.Sends.refl (s : State) : s.Sends s := ⟨rfl, fun _ => rfl⟩

theorem State.Sends.trans {s t u : State} (h : s.Sends t) (g : t.Sends u) : s.Sends u where
  planes := by rw [g.planes, h.planes]
  plane q := by rw [g.plane q, h.plane q]

theorem State.Sends.each {α : Type} {f : State → α → State} (h : ∀ (s : State) a, s.Sends (f s a)) : ∀ (l : List α) (s : State), s.Sends (s.each l f)
  | [], s => .refl s
  | a :: l, s => (h s a).trans (State.Sends.each h l (f s a))

theorem State.Sends.updPlane (s : State) (k : PlaneIx) {f : Plane → Plane}
    (h : ∀ p, f p = { p with lanes := (f p).lanes, qPublish := (f p).qPublish }) : s.Sends (s.updPlane k f) where
  planes := rfl
  plane q := by
    rw [plane_updPlane]
    split
    · next e => subst e; exact h _
    · rfl

theorem State.Sends.updLane (s : State) (d : DevLane) (f : Lane → Lane) : s.Sends (s.updLane d f) := .updPlane s _ fun _ => rfl

theorem State.place_sends (s : State) (k : PlaneIx) (l : LaneIx) (d : Desc) : s.Sends (s.place k l d) := by
  unfold State.place
  dsimp only
  split
  · exact .updLane ..
  · split
    · exact .updLane ..
    · exact .updLane ..

theorem State.enqueue_sends (s : State) (k : PlaneIx) (l : LaneIx) (d : Desc) : s.Sends (s.enqueue k l d) := by
  unfold State.enqueue
  split
  · exact .updPlane s k fun _ => rfl
  · exact s.place_sends k l d

theorem State.toDevice_sends (s : State) (k : PlaneIx) (j : Job) (dev : Nat) (f : Frame) (b : Nat) (m : Bool) (kp : Keep) :
    s.Sends (s.toDevice k j dev f b m kp) := by
  unfold State.toDevice
  split
  · exact .refl s
  · exact s.enqueue_sends ..

theorem State.toMember_sends (s : State) (k : PlaneIx) (j : Job) (pj : PJob) (m : Nat) (f : Frame) (u : Bool) :
    s.Sends (s.toMember k j pj m f u) := by
  unfold State.toMember
  split
  · exact s.enqueue_sends ..
  · exact s.toDevice_sends ..

theorem State.toLocal_sends (s : State) (k : PlaneIx) (j : Job) (pj : PJob) (ms : List Nat) (f : Frame) (kp : Keep) :
    s.Sends (s.toLocal k j pj ms f kp) :=
  .each (fun s _ => s.enqueue_sends ..) _ s

theorem State.multicastAll_sends (s : State) (k : PlaneIx) (j : Job) (pj : PJob) (f : Frame) : s.Sends (s.multicastAll k j pj f) :=
  (s.toLocal_sends ..).trans (.each (fun s _ => .each (fun s _ => s.enqueue_sends ..) _ s) _ _)

theorem State.sendArray_sends (s : State) (k : PlaneIx) (j : Job) (dev b code chunk gen : Nat) (ws : List W32) :
    s.Sends (s.sendArray k j dev b code chunk gen ws) :=
  .each (fun s _ => s.toDevice_sends ..) _ s

theorem State.sendCopy_sends (s : State) (k : PlaneIx) (j : Job) (h : Share) (target gen : Nat) : s.Sends (s.sendCopy k j h target gen) :=
  (State.Sends.each (fun s _ => s.sendArray_sends ..) _ s).trans
    ((State.Sends.each (fun s _ => s.toDevice_sends ..) _ _).trans
      (.each (fun s _ => .each (fun s _ => s.sendArray_sends ..) _ s) _ _))

/-! ### What else keeps the planes' records -/

/-- The part of a plane that neither sending, answering nor reporting touches. -/
def Plane.core (p : Plane) : PState × List PJob × Nat × List PlaneCmd × List HeldFrame := (p.ps, p.jobs, p.errSeq, p.cmdIn, p.held)

/-- Every plane keeps its core, and no bit of the error summary falls. -/
structure State.Quiet (s t : State) : Prop where
  core : ∀ q, (t.plane q).core = (s.plane q).core
  errsum : ∀ i, s.host.errsum.getLsbD i = true → t.host.errsum.getLsbD i = true

/-- As `State.Quiet`, and the device's job records stay. -/
structure State.Calm (s t : State) : Prop extends State.Quiet s t where
  jobs : t.jobs = s.jobs

theorem State.Quiet.refl (s : State) : s.Quiet s := ⟨fun _ => rfl, fun _ h => h⟩

theorem State.Quiet.trans {s t u : State} (h : s.Quiet t) (g : t.Quiet u) : s.Quiet u :=
  ⟨fun q => (g.core q).trans (h.core q), fun i e => g.errsum i (h.errsum i e)⟩

theorem State.Quiet.each {α : Type} {f : State → α → State} (h : ∀ (s : State) a, s.Quiet (f s a)) : ∀ (l : List α) (s : State), s.Quiet (s.each l f)
  | [], s => .refl s
  | a :: l, s => (h s a).trans (State.Quiet.each h l (f s a))

theorem State.Quiet.updJob (s : State) (id : Nat) (f : Job → Job) : s.Quiet (s.updJob id f) := ⟨fun _ => rfl, fun _ h => h⟩

theorem State.Calm.refl (s : State) : s.Calm s := ⟨.refl s, rfl⟩

theorem State.Calm.trans {s t u : State} (h : s.Calm t) (g : t.Calm u) : s.Calm u :=
  ⟨h.toQuiet.trans g.toQuiet, g.jobs.trans h.jobs⟩

theorem State.Calm.each {α : Type} {f : State → α → State} (h : ∀ (s : State) a, s.Calm (f s a)) : ∀ (l : List α) (s : State), s.Calm (s.each l f)
  | [], s => .refl s
  | a :: l, s => (h s a).trans (State.Calm.each h l (f s a))

theorem State.Calm.updPlane (s : State) (k : PlaneIx) {f : Plane → Plane} (h : ∀ p, (f p).core = p.core) : s.Calm (s.updPlane k f) where
  core q := by
    rw [plane_updPlane]
    split
    · next e => subst e; exact h _
    · rfl
  errsum _ h := h
  jobs := rfl

theorem State.Calm.setHost (s : State) {h : HostPort} (e : h.errsum = s.host.errsum) : s.Calm { s with host := h } where
  core _ := rfl
  errsum i b := by rw [← e] at b; exact b
  jobs := rfl

theorem State.Calm.updHost (s : State) {f : HostPort → HostPort} (h : (f s.host).errsum = s.host.errsum) : s.Calm (s.updHost f) :=
  .setHost s h

theorem State.Sends.calm {s t : State} (h : s.Sends t) : s.Calm t where
  core q := by rw [h.plane q]; rfl
  errsum i e := by rw [h.planes]; exact e
  jobs := by rw [h.planes]

theorem State.Quiet.errSeq {s t : State} (h : s.Quiet t) (q : PlaneIx) : (t.plane q).errSeq = (s.plane q).errSeq :=
  congrArg (·.2.2.1) (h.core q)

theorem State.Quiet.planeJobs {s t : State} (h : s.Quiet t) (q : PlaneIx) : (t.plane q).jobs = (s.plane q).jobs :=
  congrArg (·.2.1) (h.core q)

theorem State.Quiet.ps {s t : State} (h : s.Quiet t) (q : PlaneIx) : (t.plane q).ps = (s.plane q).ps := congrArg (·.1) (h.core q)

theorem State.Quiet.cmdIn {s t : State} (h : s.Quiet t) (q : PlaneIx) : (t.plane q).cmdIn = (s.plane q).cmdIn :=
  congrArg (·.2.2.2.1) (h.core q)

theorem State.Quiet.held {s t : State} (h : s.Quiet t) (q : PlaneIx) : (t.plane q).held = (s.plane q).held :=
  congrArg (·.2.2.2.2) (h.core q)

theorem State.Quiet.pjob {s t : State} (h : s.Quiet t) (q : PlaneIx) (id : Nat) : t.pjob q id = s.pjob q id := by
  unfold State.pjob Plane.findPJob
  rw [h.planeJobs q]

theorem State.Calm.findJob {s t : State} (h : s.Calm t) (id : Nat) : t.findJob id = s.findJob id := by
  unfold State.findJob
  rw [h.jobs]

/-! ### The error summary and reports -/

@[simp] theorem State.setErrsum_plane (s : State) (b : List Nat) (q : PlaneIx) : (s.setErrsum b).plane q = s.plane q := by
  unfold State.setErrsum State.msixSend
  dsimp only
  split
  · split <;> rfl
  · rfl

@[simp] theorem State.setErrsum_jobs (s : State) (b : List Nat) : (s.setErrsum b).jobs = s.jobs := by
  unfold State.setErrsum State.msixSend
  dsimp only
  split
  · split <;> rfl
  · rfl

theorem State.setErrsum_calm (s : State) (b : List Nat) : s.Calm (s.setErrsum b) where
  core q := by rw [State.setErrsum_plane]
  errsum i h := by simp [h]
  jobs := State.setErrsum_jobs s b

theorem State.report_calm (s : State) (code st job : Nat) (pm : Byte) (pl : List Byte) : s.Calm (s.report code st job pm pl) := by
  unfold State.report
  dsimp only
  split
  · exact .setHost s rfl
  · refine .trans ?_ (State.setErrsum_calm ..)
    exact .setHost s rfl

@[simp] theorem State.report_plane (s : State) (code st job : Nat) (pm : Byte) (pl : List Byte) (q : PlaneIx) :
    (s.report code st job pm pl).plane q = s.plane q := by
  unfold State.report
  dsimp only
  split
  · rfl
  · rw [State.setErrsum_plane]; rfl

/-! ### Answers -/

theorem HostPort.answered_errsum (h : HostPort) (id : Nat) (st : Status) (pm : Byte) (pl : List Byte) :
    (h.complete id st pm pl).barriers.endDrain.errsum = h.errsum := by
  have he (h : HostPort) : h.endDrain.errsum = h.errsum := by unfold HostPort.endDrain; split <;> rfl
  rw [he, HostPort.barriers, HostPort.barriersFuel_eq, HostPort.complete_eq]

theorem State.answer_calm (s : State) (id : Nat) (st : Status) (pl : List Byte) (pm : Byte) : s.Calm (s.answer id st pl pm) :=
  .updHost s (HostPort.answered_errsum ..)

theorem State.updHeld_calm (s : State) (id : Nat) (f : Held → Held) : s.Calm (s.updHeld id f) :=
  .setHost s rfl

theorem State.planeAnswer_calm (s : State) (id : Nat) (k : PlaneIx) (st : Status) (sec : List Byte) : s.Calm (s.planeAnswer id k st sec) := by
  unfold State.planeAnswer State.finishHeld
  split
  · exact .refl s
  · split
    · dsimp only
      split
      · split
        · exact (s.updHeld_calm ..).trans (State.answer_calm ..)
        · exact (s.updHeld_calm ..).trans (State.answer_calm ..)
      · exact s.updHeld_calm ..
    · exact .refl s

/-! ### Waits, reads and commands that end with a job -/

theorem State.endWait_calm (s : State) (k : PlaneIx) (w : Wait) (st : Status) : s.Calm (s.endWait k w st) := by
  have h := State.Calm.updPlane s k (f := fun p => { p with waits := p.waits.filter (·.id != w.id) }) fun _ => rfl
  unfold State.endWait
  dsimp only
  split
  · exact h.trans (State.planeAnswer_calm ..)
  · split
    · exact h.trans (State.toMember_sends ..).calm
    · exact h

theorem State.endWaits_calm (s : State) (k : PlaneIx) (id : Nat) (st : Status) : s.Calm (s.endWaits k id st) :=
  .each (fun s _ => s.endWait_calm ..) _ s

theorem State.endApply_calm (s : State) (k : PlaneIx) (c : PlaneCmd) : s.Calm (s.endApply k c) := by
  unfold State.endApply
  dsimp only
  split <;> exact s.planeAnswer_calm ..

theorem State.endReads_calm (s : State) (k : PlaneIx) (id : Nat) : s.Calm (s.endReads k id) := by
  refine .trans ?_ (.each (fun s _ => s.planeAnswer_calm ..) _ _)
  exact .updPlane s k fun _ => rfl

/-! ### The reports about a job, and its settling -/

theorem State.reclaimReport_calm (s : State) (j : Job) (st : Status) : s.Calm (s.reclaimReport j st) := by
  unfold State.reclaimReport
  split
  · exact .refl s
  · exact s.report_calm ..

theorem State.releaseGroups_calm (s : State) (j : Job) : s.Calm (s.releaseGroups j) := ⟨⟨fun _ => rfl, fun _ h => h⟩, rfl⟩

/-- What `settleJob` returns and posts once a job has ended. -/
theorem State.endReports_calm (s : State) (j j' : Job) (st st' : Status) (cause : Nat) :
    s.Calm (((s.releaseGroups j).jobReport j' st cause).reclaimReport j' st') :=
  (s.releaseGroups_calm j).trans (.trans (State.report_calm ..) (State.reclaimReport_calm ..))

end Sys2Proof.Machine

/-! ## Errors, fences, and planes that leave service -/

namespace Sys2Proof.Machine

/-! ### Masks and counters -/

theorem listMask_testBit (l : List Nat) (i : Nat) : (listMask l).testBit i = l.contains i := by
  have h : ∀ (l : List Nat) (m : Nat), (l.foldl (fun m i => m ||| 2 ^ i) m).testBit i = (m.testBit i || l.contains i) := by
    intro l
    induction l with
    | nil => intro m; simp
    | cons a l ih =>
      intro m
      rw [List.foldl_cons, ih, Nat.testBit_or, Nat.testBit_two_pow, List.contains_cons, Bool.or_assoc]
      by_cases e : a = i
      · simp [e]
      · have : (i == a) = false := by simpa using fun x => e x.symm
        simp [e, this]
  simpa [listMask] using h l 0

@[simp] theorem ctrGet_ctrAdd_same {α : Type} [BEq α] [LawfulBEq α] (cs : List (α × Nat)) (c : α) (n : Nat) :
    ctrGet (ctrAdd cs c n) c = satAdd 32 (ctrGet cs c) n := by
  have hf : (cs.filter fun p => !(p.1 == c)).lookup c = none := by
    rw [List.lookup_eq_none_iff]
    intro p hp
    simpa [beq_eq_false_iff_ne, ne_comm] using (List.mem_filter.1 hp).2
  unfold ctrAdd ctrSet
  generalize satAdd 32 (ctrGet cs c) n = v
  dsimp only
  split
  · next e => simp [ctrGet, hf, e]
  · simp [ctrGet]

theorem ctrGet_ctrAdd_other {α : Type} [BEq α] [LawfulBEq α] (cs : List (α × Nat)) {c d : α} (n : Nat) (h : d ≠ c) :
    ctrGet (ctrAdd cs c n) d = ctrGet cs d := by
  have hd : (d == c) = false := by simpa using h
  have hf : ∀ l : List (α × Nat), (l.filter fun p => !(p.1 == c)).lookup d = l.lookup d := by
    intro l
    induction l with
    | nil => rfl
    | cons p l ih =>
      obtain ⟨a, v⟩ := p
      by_cases e : a = c
      · subst e; simp [List.lookup_cons, ih, hd]
      · simp [List.lookup_cons, ih, e]
  unfold ctrAdd ctrSet
  generalize satAdd 32 (ctrGet cs c) n = v
  dsimp only
  split
  · simp [ctrGet, hf]
  · simp [ctrGet, List.lookup_cons, hf, hd]

/-! ### A record of a plane (R245, R248) -/

/-- `t` is `s` with one record more of plane `k`: its series number moves, and of the plane only the records, the observations, the count of
lost records and the retired units' data differ. -/
structure State.Logs (s t : State) (k : PlaneIx) : Prop where
  own : t.plane k = { s.plane k with
    errLog := (t.plane k).errLog, errSeq := (s.plane k).errSeq + 1, errCounts := (t.plane k).errCounts, ctrs := (t.plane k).ctrs,
    obs := (t.plane k).obs, retHeld := (t.plane k).retHeld }
  ctr : ∀ c, c ≠ .errLost → ctrGet (t.plane k).ctrs c = ctrGet (s.plane k).ctrs c
  other : ∀ q, q ≠ k → t.plane q = s.plane q
  jobs : t.jobs = s.jobs
  errsum : ∀ i, s.host.errsum.getLsbD i = true → t.host.errsum.getLsbD i = true

/-- A record that also shows in the plane's bit of the error summary (R362). -/
structure State.Recorded (s t : State) (k : PlaneIx) : Prop extends State.Logs s t k where
  bit : t.host.errsum.getLsbD k.val = true

/-- What leaves the planes as they are keeps a record one. -/
theorem State.Logs.calm {s t u : State} {k : PlaneIx} (h : s.Logs t k) (g : t.Calm u) (hp : ∀ q, u.plane q = t.plane q) : s.Logs u k where
  own := by rw [hp]; exact h.own
  ctr c hc := by rw [hp]; exact h.ctr c hc
  other q hq := by rw [hp]; exact h.other q hq
  jobs := g.jobs.trans h.jobs
  errsum i e := g.errsum i (h.errsum i e)

/-- Lost records, observations and the data in retired units are part of what a record may change. -/
theorem State.Logs.updPlane {s t : State} {k : PlaneIx} (h : s.Logs t k) {f : Plane → Plane}
    (hf : ∀ p, f p = { p with ctrs := (f p).ctrs, obs := (f p).obs, retHeld := (f p).retHeld })
    (hc : ∀ p c, c ≠ .errLost → ctrGet (f p).ctrs c = ctrGet p.ctrs c) : s.Logs (t.updPlane k f) k where
  own := by rw [plane_updPlane_same, hf, h.own]
  ctr c e := by rw [plane_updPlane_same, hc _ c e, h.ctr c e]
  other q hq := by rw [plane_updPlane_other _ _ _ _ hq, h.other q hq]
  jobs := h.jobs
  errsum := h.errsum

theorem State.setErrsum_bit (s : State) {b : List Nat} {i : Nat} (hb : i ∈ b) (hi : i < 32) :
    (s.setErrsum b).host.errsum.getLsbD i = true := by
  have hc : b.contains i = true := by simpa using hb
  rw [State.setErrsum_errsum, BitVec.getLsbD_or, BitVec.getLsbD_ofNat, listMask_testBit, hc]
  simp [hi]

theorem State.Recorded.calm {s t u : State} {k : PlaneIx} (h : s.Recorded t k) (g : t.Calm u) (hp : ∀ q, u.plane q = t.plane q) :
    s.Recorded u k := ⟨h.toLogs.calm g hp, g.errsum _ h.bit⟩

theorem State.Recorded.updPlane {s t : State} {k : PlaneIx} (h : s.Recorded t k) {f : Plane → Plane}
    (hf : ∀ p, f p = { p with obs := (f p).obs, retHeld := (f p).retHeld }) : s.Recorded (t.updPlane k f) k where
  toLogs := h.toLogs.updPlane (fun p => by rw [hf p]) fun p c _ => by rw [hf p]
  bit := h.bit

/-- The entry of a record into a plane's log, before the summary shows it. -/
theorem State.Logs.enter (s : State) (k : PlaneIx) (n : Nat) {f : Plane → Plane}
    (hf : ∀ p, f p = { p with errLog := (f p).errLog, errSeq := p.errSeq + 1, errCounts := (f p).errCounts }) :
    s.Logs (({ s with fresh := n } : State).updPlane k f) k where
  own := by rw [plane_updPlane_same, hf]; rfl
  ctr c _ := by rw [plane_updPlane_same, hf]; rfl
  other q hq := plane_updPlane_other _ _ _ _ hq
  jobs := rfl
  errsum _ h := h

theorem State.writeRecord_recorded (s : State) (k : PlaneIx) (e : ErrInfo) (disp : Nat) (u : Bool) :
    s.Recorded (s.writeRecord k e disp u) k := by
  have shown {t : State} (h : s.Logs t k) : s.Recorded (t.setErrsum (k.val :: recBits disp)) k :=
    ⟨h.calm (State.setErrsum_calm ..) (State.setErrsum_plane t _), t.setErrsum_bit (by simp) (by omega)⟩
  have counted {t : State} (lost : Bool) (h : s.Logs t k) :
      s.Logs (if lost then (t.planeCtr k .errLost).setErrsum [esErrLost] else t) k := by
    cases lost
    · exact h
    · refine State.Logs.calm ?_ (State.setErrsum_calm ..) (State.setErrsum_plane _ _)
      exact h.updPlane (fun _ => rfl) fun p c hc => ctrGet_ctrAdd_other _ _ hc
  unfold State.writeRecord
  simp only [State.takeFresh]
  split
  · exact shown (counted _ (.enter s k _ fun _ => rfl))
  · exact (shown (counted _ (.enter s k _ fun _ => rfl))).calm (State.report_calm ..) fun q => State.report_plane ..

/-- No unit that `e` names is due for retirement by it (R253). -/
def State.Spares (s : State) (k : PlaneIx) (e : ErrInfo) : Prop :=
  ∀ o ∈ (s.plane k).obs, o.block = e.block → o.errs + 1 < s.host.obsretire

/-- What an error leaves: the record, and where it retires the unit that it names, that retirement. -/
theorem State.error_cases (s : State) (k : PlaneIx) (e : ErrInfo) :
    s.Recorded (s.error k e) k ∨
    ¬ s.Spares k e ∧ ∃ u, s.Recorded u k ∧ s.error k e = u.retireUnit k e.block e.index e.job := by
  unfold State.error
  dsimp only
  split
  · next h =>
    refine .inr ⟨fun hs => ?_, _, .updPlane (.updPlane (s.writeRecord_recorded ..) fun _ => rfl) fun _ => rfl, rfl⟩
    unfold obsError at h
    split at h
    · cases h
    · next o ho =>
      have hb := List.find?_some ho
      simp only [Bool.and_eq_true, beq_iff_eq] at hb
      have hlt := hs o (List.mem_of_find?_eq_some ho) hb.1
      exact absurd hlt (by simpa using h)
  · exact .inl (.updPlane (s.writeRecord_recorded ..) fun _ => rfl)

/-- An error that retires nothing leaves its record alone. -/
theorem State.error_recorded {s : State} {k : PlaneIx} {e : ErrInfo} (h : s.Spares k e) : s.Recorded (s.error k e) k :=
  (s.error_cases k e).resolve_right fun g => g.1 h

/-! ### Fences (R101, R150) -/

theorem findJob_updJob_other (s : State) {id i : Nat} (f : Job → Job) (hf : ∀ j, (f j).id = j.id) (h : i ≠ id) :
    (s.updJob id f).findJob i = s.findJob i := by
  have hp (j : Job) : ((if j.id == id then f j else j).id == i) = (j.id == i) := by split <;> simp [hf]
  have hn (j : Job) (hj : (j.id == i) = true) : (if j.id == id then f j else j) = j := if_neg fun e => h (by simp_all)
  simp only [State.findJob, State.updJob, List.find?_map, Function.comp_def, hp]
  cases hj : s.jobs.find? fun j => j.id == i with
  | none => rfl
  | some j => rw [Option.map_some, hn j (List.find?_some (p := fun j : Job => j.id == i) hj)]

theorem findJob_congr {s t : State} (h : t.jobs = s.jobs) (id : Nat) : t.findJob id = s.findJob id := by
  unfold State.findJob
  rw [h]

/-- The record of a job that has ended on every plane: a job that was not fenced becomes `RECLAIMED` (R148). -/
def Job.settled (j : Job) : Job := if j.st = .fenced then { j with ended := true } else { j with ended := true, st := .reclaimed }

/-- Settling a job leaves the job records, or marks this one's as ended. -/
theorem State.settleJob_findJob (s : State) (id : Nat) :
    (∀ i, (s.settleJob id).findJob i = s.findJob i) ∨
    (∀ i, i ≠ id → (s.settleJob id).findJob i = s.findJob i) ∧ (s.settleJob id).findJob id = (s.findJob id).map Job.settled := by
  have marked (f : Job → Job) (hf : ∀ j, (f j).id = j.id) {t : State} (h : (s.updJob id f).Calm t)
      (he : (s.findJob id).map f = (s.findJob id).map Job.settled) :
      (∀ i, i ≠ id → t.findJob i = s.findJob i) ∧ t.findJob id = (s.findJob id).map Job.settled :=
    ⟨fun i hi => (h.findJob i).trans (findJob_updJob_other s f hf hi), ((h.findJob id).trans (findJob_updJob s id f hf)).trans he⟩
  unfold State.settleJob
  split
  · exact .inl fun _ => rfl
  · next j hj =>
    dsimp only
    split
    · exact .inl fun _ => rfl
    · split
      · next hf =>
        split
        · exact .inr (marked (fun j => { j with ended := true }) (fun _ => rfl) (State.endReports_calm ..) (by simp [hj, Job.settled, hf]))
        · exact .inl fun _ => rfl
      · next hf =>
        split
        · exact .inr (marked (fun j => { j with ended := true, st := .reclaimed }) (fun _ => rfl)
            ((State.releaseGroups_calm ..).trans (State.reclaimReport_calm ..)) (by simp [hj, Job.settled, hf]))
        · exact .inl fun _ => rfl

theorem State.settleJob_findJob_other (s : State) {id i : Nat} (h : i ≠ id) : (s.settleJob id).findJob i = s.findJob i :=
  (s.settleJob_findJob id).elim (· i) (·.1 i h)

/-- The job has been fenced with this cause. -/
def State.FencedBy (s : State) (id cause : Nat) : Prop := ∃ j, s.findJob id = some j ∧ j.st = .fenced ∧ j.fcause = cause

theorem State.Calm.fencedBy {s t : State} (h : s.Calm t) {id cause : Nat} (g : s.FencedBy id cause) : t.FencedBy id cause := by
  unfold State.FencedBy
  rw [h.findJob]
  exact g

theorem State.FencedBy.settleJob {s : State} {i cause : Nat} (h : s.FencedBy i cause) (id : Nat) : (s.settleJob id).FencedBy i cause := by
  obtain ⟨j, hj, hst, hc⟩ := h
  obtain e | ⟨e, e'⟩ := s.settleJob_findJob id
  · exact ⟨j, (e i).trans hj, hst, hc⟩
  · by_cases hi : i = id
    · subst hi
      refine ⟨{ j with ended := true }, ?_, hst, hc⟩
      rw [e', hj, Option.map_some, Job.settled, if_pos hst]
    · exact ⟨j, (e i hi).trans hj, hst, hc⟩

theorem State.settleJob_quiet (s : State) (id : Nat) : s.Quiet (s.settleJob id) := by
  unfold State.settleJob
  split
  · exact .refl s
  · dsimp only
    split
    · exact .refl s
    · split
      · split
        · exact .trans (.updJob ..) (State.endReports_calm ..).toQuiet
        · exact .refl s
      · split
        · exact .trans (.updJob ..) ((State.releaseGroups_calm ..).trans (State.reclaimReport_calm ..)).toQuiet
        · exact .refl s

/-- The fence orders that go to the planes of a job. -/
theorem State.pushFences_calm (s : State) (ks : List PlaneIx) (w : DownWord) :
    s.Calm (s.each ks fun s k => s.updPlane k fun p => p.pushDown w) :=
  .each (fun s k => .updPlane s k fun p => by unfold Plane.pushDown; split <;> rfl) ks s

theorem State.fenceJob_quiet (s : State) (id cause : Nat) : s.Quiet (s.fenceJob id cause) := by
  unfold State.fenceJob
  split
  · exact .refl s
  · split
    · exact .refl s
    · refine .trans (.trans ?_ (State.pushFences_calm ..).toQuiet) (State.settleJob_quiet ..)
      exact ⟨fun _ => rfl, fun _ h => h⟩

theorem State.fenceJob_findJob_other (s : State) {id i : Nat} (cause : Nat) (h : i ≠ id) :
    (s.fenceJob id cause).findJob i = s.findJob i := by
  unfold State.fenceJob
  split
  · rfl
  · split
    · rfl
    · rw [State.settleJob_findJob_other _ h, (State.pushFences_calm ..).findJob]
      exact findJob_updJob_other s _ (fun _ => rfl) h

/-- A fence cause fences a job whose operations still run (R150). -/
theorem State.fenceJob_fencedBy {s : State} {id : Nat} {j : Job} (hj : s.findJob id = some j) (ha : j.st.isActive = true) (cause : Nat) :
    (s.fenceJob id cause).FencedBy id cause := by
  unfold State.fenceJob
  simp only [hj, ha, Bool.not_true, Bool.false_eq_true, if_false]
  refine .settleJob ((State.pushFences_calm ..).fencedBy ⟨{ j with st := .fenced, fcause := cause, ringHold := false }, ?_, rfl, rfl⟩) id
  have h := findJob_updJob s id (fun j => { j with st := .fenced, fcause := cause, ringHold := false }) fun _ => rfl
  rw [hj] at h
  exact h

/-- A fenced job keeps its cause. -/
theorem State.FencedBy.fenceJob {s : State} {i cause : Nat} (h : s.FencedBy i cause) (id c : Nat) : (s.fenceJob id c).FencedBy i cause := by
  by_cases e : i = id
  · subst e
    obtain ⟨j, hj, hst, hc⟩ := h
    refine ⟨j, ?_, hst, hc⟩
    unfold State.fenceJob
    simp [hj, hst, JState.isActive]
  · obtain ⟨j, hj, hst⟩ := h
    exact ⟨j, (s.fenceJob_findJob_other c e).trans hj, hst⟩

/-- One cause after another, each job that still runs when its turn comes is fenced with it. -/
theorem State.each_fenceJob_fencedBy (cause i : Nat) : ∀ (js : List Job) (s : State),
    (s.FencedBy i cause ∨ (∃ j ∈ js, j.id = i) ∧ ∃ j, s.findJob i = some j ∧ j.st.isActive = true) →
    (s.each js fun s j => s.fenceJob j.id cause).FencedBy i cause
  | [], s, h => h.resolve_right (by simp)
  | a :: js, s, h => by
    refine State.each_fenceJob_fencedBy cause i js _ ?_
    obtain h | ⟨⟨x, hx, rfl⟩, j, hj, ha⟩ := h
    · exact .inl (h.fenceJob ..)
    · by_cases e : x.id = a.id
      · exact .inl (e ▸ State.fenceJob_fencedBy hj ha cause)
      · refine .inr ⟨⟨x, (List.mem_cons.1 hx).resolve_left fun g => e (by rw [g]), rfl⟩, j, ?_, ha⟩
        exact (s.fenceJob_findJob_other cause e).trans hj

end Sys2Proof.Machine

/-! ## Planes that leave service (R11, R253, R276) -/

namespace Sys2Proof.Machine

/-- Plane `k` has lost what it kept of its jobs, and every job that named it and still ran is fenced with the cause; no plane's record series
moves. -/
structure State.LeavesService (s t : State) (k : PlaneIx) (cause : Nat) : Prop where
  errSeq : ∀ q, (t.plane q).errSeq = (s.plane q).errSeq
  errsum : ∀ i, s.host.errsum.getLsbD i = true → t.host.errsum.getLsbD i = true
  jobs : (t.plane k).jobs = []
  cmdIn : (t.plane k).cmdIn = []
  fenced : ∀ id j, s.findJob id = some j → j.st.isActive = true → j.hdr.planes.getLsbD k.val = true → t.FencedBy id cause

theorem State.LeavesService.calm {s t u : State} {k : PlaneIx} {cause : Nat} (h : s.LeavesService t k cause) (g : t.Calm u) :
    s.LeavesService u k cause where
  errSeq q := (g.errSeq q).trans (h.errSeq q)
  errsum i e := g.errsum i (h.errsum i e)
  jobs := (g.planeJobs k).trans h.jobs
  cmdIn := (g.cmdIn k).trans h.cmdIn
  fenced id j hj ha hk := g.fencedBy (h.fenced id j hj ha hk)

/-- What went before, so long as it left the record series and the job records, does not matter. -/
theorem State.LeavesService.after {s t u : State} {k : PlaneIx} {cause : Nat} (h : t.LeavesService u k cause)
    (hq : ∀ q, (t.plane q).errSeq = (s.plane q).errSeq)
    (he : ∀ i, s.host.errsum.getLsbD i = true → t.host.errsum.getLsbD i = true) (hj : t.jobs = s.jobs) : s.LeavesService u k cause where
  errSeq q := (h.errSeq q).trans (hq q)
  errsum i e := h.errsum i (he i e)
  jobs := h.jobs
  cmdIn := h.cmdIn
  fenced id j f := h.fenced id j ((findJob_congr hj id).trans f)

theorem JState.isOpen_of_isActive {st : JState} (h : st.isActive = true) : st.isOpen = true := by
  cases st <;> simp_all [JState.isActive, JState.isOpen]

/-- The jobs that lose what the plane kept. -/
theorem State.keepLost_findJob (b : Byte) (i : Nat) : ∀ (js : List Job) (s : State) (j : Job), s.findJob i = some j → j.st.isActive = true →
    ∃ j', (s.each js fun s j => s.updJob j.id fun j => { j with keptLost := j.keptLost ||| b }).findJob i = some j' ∧ j'.st.isActive = true
  | [], _, j, hj, ha => ⟨j, hj, ha⟩
  | a :: js, s, j, hj, ha => by
    by_cases e : i = a.id
    · refine State.keepLost_findJob b i js _ { j with keptLost := j.keptLost ||| b } ?_ ha
      have h := findJob_updJob s i (fun j => { j with keptLost := j.keptLost ||| b }) fun _ => rfl
      rw [hj] at h
      exact e ▸ h
    · exact State.keepLost_findJob b i js _ j
        ((findJob_updJob_other s (fun j => { j with keptLost := j.keptLost ||| b }) (fun _ => rfl) e).trans hj) ha

theorem State.keepLost_quiet (b : Byte) (js : List Job) (s : State) :
    s.Quiet (s.each js fun s j => s.updJob j.id fun j => { j with keptLost := j.keptLost ||| b }) :=
  .each (fun s j => .updJob s j.id _) js s

/-- The fences of the jobs that a plane's contents belonged to. -/
theorem State.fenceNamed (s : State) (k : PlaneIx) (cause : Nat) (b : Byte) (hj : (s.plane k).jobs = []) (hc : (s.plane k).cmdIn = [])
    {js : List Job} (hjs : js = s.jobs.filter fun j => j.st.isOpen && j.hdr.planes.getLsbD k.val) :
    let t := ((s.each js fun s j => s.updJob j.id fun j => { j with keptLost := j.keptLost ||| b }).each js fun s j => s.fenceJob j.id cause).each
      js fun s j => s.settleJob j.id
    s.LeavesService t k cause ∧ s.Quiet t := by
  intro t
  have hq : s.Quiet t := (State.keepLost_quiet b js s).trans
    ((State.Quiet.each (fun s j => s.fenceJob_quiet j.id cause) js _).trans (.each (fun s j => s.settleJob_quiet j.id) js _))
  have settled (i : Nat) : ∀ (js : List Job) (s : State), s.FencedBy i cause → (s.each js fun s j => s.settleJob j.id).FencedBy i cause := by
    intro js
    induction js with
    | nil => exact fun _ h => h
    | cons a js ih => exact fun s h => ih _ (h.settleJob a.id)
  refine ⟨⟨hq.errSeq, hq.errsum, (hq.planeJobs k).trans hj, (hq.cmdIn k).trans hc, fun id j h ha hk => ?_⟩, hq⟩
  refine settled id js _ (State.each_fenceJob_fencedBy cause id js _ (.inr ⟨⟨j, ?_, ?_⟩, State.keepLost_findJob b id js s j h ha⟩))
  · rw [hjs, List.mem_filter]
    exact ⟨List.mem_of_find?_eq_some h, by simp [JState.isOpen_of_isActive ha, hk]⟩
  · simpa using List.find?_some h

/-- Everything of the jobs on a plane is lost (R11, R151, R276). -/
theorem State.dropPlaneJobs_leaves (s : State) (k : PlaneIx) (cause : Nat) :
    s.LeavesService (s.dropPlaneJobs k cause) k cause ∧ ((s.dropPlaneJobs k cause).plane k).ps = (s.plane k).ps := by
  unfold State.dropPlaneJobs
  extract_lets named s1 s2 s3 s4 s5 s6 s7
  -- every command and wait on the plane is answered
  have h1 : s.Calm s1 := .each (fun s _ => s.endReads_calm ..) _ s
  have h2 : s1.Calm s2 := .each (fun s _ => s.endWait_calm ..) _ s1
  have h3 : s2.Calm s3 := .each (fun s _ => s.endApply_calm ..) _ s2
  have h4 : s3.Calm s4 := .each (fun s _ => s.planeAnswer_calm ..) _ s3
  have h5 : s4.Calm s5 := .updHost s4 rfl
  have h6 : s5.Calm s6 := .each (fun s _ => (s.updHeld_calm ..).trans (State.planeAnswer_calm ..)) _ s5
  replace h6 : s.Calm s6 := h1.trans (h2.trans (h3.trans (h4.trans (h5.trans h6))))
  clear_value s6
  -- what it kept goes
  have hp (q : PlaneIx) : (s7.plane q).errSeq = (s6.plane q).errSeq ∧ (s7.plane q).ps = (s6.plane q).ps := by
    simp only [s7, plane_updPlane]
    split
    · next e => subst e; exact ⟨rfl, rfl⟩
    · exact ⟨rfl, rfl⟩
  have hn : named = s7.jobs.filter fun j => j.st.isOpen && j.hdr.planes.getLsbD k.val := by
    rw [show s7.jobs = s6.jobs from rfl, h6.jobs]
  have hk : s7.plane k = _ := plane_updPlane_same s6 k _
  have h7 := s7.fenceNamed k cause (planeBit k) (by rw [hk]) (by rw [hk]) hn
  exact ⟨h7.1.after (fun q => (hp q).1.trans (h6.errSeq q)) h6.errsum h6.jobs, (h7.2.ps k).trans ((hp k).2.trans (h6.ps k))⟩

theorem State.reportLost_calm (s : State) (k : PlaneIx) : s.Calm (s.reportLost k) := by
  refine .each (fun s pj => ?_) _ s
  split
  · exact .refl s
  · exact .each (fun s _ => State.report_calm ..) _ s

theorem State.setHpFault_calm (s : State) (b : Nat) : s.Calm (s.setHpFault b) := by
  unfold State.setHpFault
  split
  · exact .refl s
  · refine .trans ?_ (State.setErrsum_calm ..)
    exact .setHost s rfl

/-- A retired plane has left service, and its jobs' cause is 4 (R150, R253). -/
theorem State.retirePlane_leaves (s : State) (k : PlaneIx) (rail : Bool) :
    s.LeavesService (s.retirePlane k rail) k 4 ∧ ((s.retirePlane k rail).plane k).ps = .retired := by
  unfold State.retirePlane
  extract_lets t s1 s2 cmds s3 s4
  have h1 : s.Calm s1 := s.reportLost_calm k
  have h2 (q : PlaneIx) : (s2.plane q).errSeq = (s1.plane q).errSeq := by
    simp only [s2, plane_updPlane]
    split
    · next e => subst e; rfl
    · rfl
  have h4 : s2.Calm s4 := by
    refine .trans (t := s3) ?_ (.each (fun s _ => s.planeAnswer_calm ..) _ _)
    exact .updPlane s2 k fun _ => rfl
  obtain ⟨h, hp⟩ := s4.dropPlaneJobs_leaves k 4
  refine ⟨(h.after (fun q => (h4.errSeq q).trans ((h2 q).trans (h1.errSeq q))) (fun i e => h4.errsum i (h1.errsum i e))
    (h4.jobs.trans h1.jobs)).calm (State.setHpFault_calm ..), ?_⟩
  have h5 : (s2.plane k).ps = .retired := congrArg Plane.ps (plane_updPlane_same s1 k _)
  exact ((State.setHpFault_calm ..).ps k).trans (hp.trans ((h4.ps k).trans h5))

/-- An error of the general cores (block 0x0B), which are one unit: its record alone, or with it the plane's retirement (R250, R253). -/
theorem State.coreError_cases (s : State) (k : PlaneIx) {e : ErrInfo} (hb : e.block = 0x0B) :
    s.Recorded (s.error k e) k ∨
    ∃ u, s.Recorded u k ∧ u.LeavesService (s.error k e) k 4 ∧ ((s.error k e).plane k).ps = .retired := by
  obtain h | ⟨-, u, hu, he⟩ := s.error_cases k e
  · exact .inl h
  · refine .inr ?_
    rw [he, hb]
    unfold State.retireUnit
    split
    · exact ⟨u, hu, u.retirePlane_leaves k false⟩
    · exact ⟨_, hu.updPlane (f := fun p => { p with retHeld := (11, e.index, e.job) :: p.retHeld }) fun _ => rfl, State.retirePlane_leaves ..⟩

end Sys2Proof.Machine

/-! ## The watchdogs (R11, R276, R336) -/

namespace Sys2Proof.Machine

/-- What the expiry of a plane's watchdog leaves (R11, R150, R253, R276): one record of the plane, and the plane out of service, restarting with
its jobs fenced by cause 3, or retired by the record with cause 4. -/
theorem State.watchdog_leaves {s : State} {k : PlaneIx} (core : Fin 4) (h : (s.plane k).ps = .inService) :
    ∃ u, s.Recorded u k ∧ ∃ c, u.LeavesService (s.watchdog k core) k c ∧
      (((s.watchdog k core).plane k).ps = .restarting ∧ c = 3 ∨ ((s.watchdog k core).plane k).ps = .retired ∧ c = 4) := by
  generalize ht : s.watchdog k core = t
  unfold State.watchdog at ht
  rw [if_neg (by simp [h])] at ht
  extract_lets u cmds s1 s2 s3 at ht
  obtain hr | ⟨v, hv, hl, hp⟩ : s.Recorded u k ∨ ∃ v, s.Recorded v k ∧ v.LeavesService u k 4 ∧ (u.plane k).ps = .retired :=
    s.coreError_cases k rfl
  · rw [if_neg (by rw [hr.own]; simp [h])] at ht
    subst ht
    have h1 : u.Calm s1 := u.reportLost_calm k
    have h2 (q : PlaneIx) : (s2.plane q).errSeq = (s1.plane q).errSeq := by
      simp only [s2, plane_updPlane]
      split
      · next e => subst e; rfl
      · rfl
    have h3 : s2.Calm s3 := .each (fun s _ => s.planeAnswer_calm ..) _ s2
    have hk : (s2.plane k).ps = .restarting := congrArg Plane.ps (plane_updPlane_same s1 k _)
    obtain ⟨hl, hp⟩ := s3.dropPlaneJobs_leaves k 3
    exact ⟨u, hr, 3, hl.after (fun q => (h3.errSeq q).trans ((h2 q).trans (h1.errSeq q))) (fun i e => h3.errsum i (h1.errsum i e))
      (h3.jobs.trans h1.jobs), .inl ⟨hp.trans ((h3.ps k).trans hk), rfl⟩⟩
  · rw [if_pos (by rw [hp]; rfl)] at ht
    exact ⟨v, hv, 4, ht ▸ hl, .inr ⟨ht ▸ hp, rfl⟩⟩

/-- A write of the slot or the calibration set that no reset cuts short stands (R336). -/
theorem State.keptNv_eq {s : State} (hp : s.host.programming = none) (hc : s.host.calWriting = none) : s.keptNv = s.nv := by
  simp [State.keptNv, hp, hc]

theorem State.holdReset_plane (s : State) (k : PlaneIx) : s.holdReset.plane k = Plane.reset := by
  simp [State.plane, State.holdReset, State.reset]

end Sys2Proof.Machine

section
open Sys2Proof Sys2Proof.Machine

/-- Settles O39: the record of the general cores, the plane's contents dropped, and each job fenced in its turn. -/
theorem watchdogsRestart : Obligations.WatchdogsRestart := by
  refine ⟨fun k core s h => ?_, fun k s h => ?_, fun s h => ?_⟩
  · obtain ⟨u, hu, c, hl, hc⟩ := State.watchdog_leaves core h
    refine ⟨_, rfl, hc.imp And.left And.left, hl.jobs, hl.cmdIn, ?_, fun id j hj ha hk => ?_⟩
    · rw [hl.errSeq, hu.own]
    · obtain ⟨j', hj', hst, hf⟩ := hl.fenced id j ((findJob_congr hu.jobs id).trans hj) ha hk
      refine ⟨j', hj', hst, ?_⟩
      obtain ⟨hp, rfl⟩ | ⟨hp, rfl⟩ := hc
      · rw [hf, if_pos hp]
      · rw [hf, if_neg (by rw [hp]; decide)]
  · exact ⟨_, rfl, by rw [if_pos h]; rfl⟩
  · refine ⟨s.holdReset, by simp [exec, execDeviceWatchdogExpiry, h], rfl, rfl, rfl, s.holdReset_plane, rfl, rfl, fun hp hc => ?_⟩
    exact State.keptNv_eq hp hc

end

/-! ## Stage queues, credits and the frames that wait for them (R19, R20, R236) -/

namespace Sys2Proof.Machine

/-! ### Reads of planes and lanes after an update -/

@[simp] theorem planeOf_devLane (k : PlaneIx) (l : LaneIx) : planeOf (devLane k l) = k :=
  Fin.ext (by simp only [planeOf, devLane]; omega)

@[simp] theorem laneIn_devLane (k : PlaneIx) (l : LaneIx) : laneIn (devLane k l) = l :=
  Fin.ext (by simp only [laneIn, devLane]; omega)

theorem State.lane_devLane (s : State) (k : PlaneIx) (l : LaneIx) : s.lane (devLane k l) = (s.plane k).lanes[l] := by
  simp [State.lane]

@[simp] theorem lane_updLane_same (s : State) (d : DevLane) (f : Lane → Lane) : (s.updLane d f).lane d = f (s.lane d) := by
  simp [State.lane, State.updLane, Plane.updLane]

@[simp] theorem setPlane_self (s : State) (k : PlaneIx) : s.setPlane k (s.plane k) = s := by
  simp [State.setPlane, State.plane]

/-! ### The queues -/

theorem StageQ.credit_cons {q : StageQ} {e : QEntry} {es : List QEntry} (h : q.entries = e :: es) :
    q.credit = { entries := es ++ q.waiting.take 1, waiting := q.waiting.drop 1, taken := q.taken ++ [e] } := by
  unfold StageQ.credit StageQ.letIn
  rw [h]
  cases q.waiting <;> simp

theorem StageQ.credit_nil {q : StageQ} (h : q.entries = []) : q.credit = q := by
  unfold StageQ.credit
  rw [h]

theorem StageQ.dropHead_cons {q : StageQ} {e : QEntry} {es : List QEntry} (h : q.entries = e :: es) :
    q.dropHead = { entries := es ++ q.waiting.take 1, waiting := q.waiting.drop 1, taken := q.taken } := by
  unfold StageQ.dropHead StageQ.letIn
  rw [h]
  cases q.waiting <;> simp

theorem Plane.queue_setQueue (p : Plane) (x : StageQ) : ∀ q, (p.setQueue q x).queue q = x
  | 0 | 1 | 2 | 3 | 4 | 5 | _ + 6 => rfl

/-- Putting a queue changes the queues alone. -/
theorem Plane.setQueue_eq (p : Plane) (x : StageQ) : ∀ q, p.setQueue q x = { p with
    qParse := (p.setQueue q x).qParse, qAdmit := (p.setQueue q x).qAdmit, qGather := (p.setQueue q x).qGather,
    qSpill := (p.setQueue q x).qSpill, qComplete := (p.setQueue q x).qComplete, qResult := (p.setQueue q x).qResult,
    qPublish := (p.setQueue q x).qPublish }
  | 0 | 1 | 2 | 3 | 4 | 5 | _ + 6 => rfl

theorem State.resume_nil {s : State} {k : PlaneIx} (h : (s.plane k).parked = []) : s.resume k = s := by
  unfold State.resume
  rw [h, State.each_nil]

/-- What a dropped entry named was a contribution, a gather or a frame behind the policer (R236). -/
theorem State.loseEntry_plane (s : State) (k : PlaneIx) (q : Nat) (e : QEntry) : (s.loseEntry k q e).plane k = { s.plane k with
    jobs := ((s.loseEntry k q e).plane k).jobs, gathers := ((s.loseEntry k q e).plane k).gathers,
    parked := ((s.loseEntry k q e).plane k).parked } := by
  unfold State.loseEntry
  split
  · rw [State.updShare, State.updPJob, plane_updPlane_same]; rfl
  · split
    · rw [plane_updPlane_same]
    · split
      · rw [plane_updPlane_same]
      · rfl

theorem State.loseEntry_parked {s : State} {k : PlaneIx} (h : (s.plane k).parked = []) (q : Nat) (e : QEntry) :
    ((s.loseEntry k q e).plane k).parked = [] := by
  unfold State.loseEntry
  split
  · rw [State.updShare, State.updPJob, plane_updPlane_same]; exact h
  · split
    · rw [plane_updPlane_same]; exact h
    · split
      · rw [plane_updPlane_same]; simp [h]
      · exact h

theorem State.loseEntry_host (s : State) (k : PlaneIx) (q : Nat) (e : QEntry) : (s.loseEntry k q e).host = s.host := by
  unfold State.loseEntry
  split
  · rfl
  · split
    · rfl
    · split <;> rfl

theorem State.frmDrop_plane (s : State) (k : PlaneIx) :
    (s.frmDrop k).plane k = { s.plane k with ctrs := ctrAdd (s.plane k).ctrs .frmDrop 1 } := plane_updPlane_same ..

/-- A dropped entry or descriptor is counted in `FRMDROP` and recorded, with nothing retired by it (R236). -/
theorem State.frmDrop_error {s : State} {k : PlaneIx} {e : ErrInfo} (h : s.Spares k e) :
    let t := (s.frmDrop k).error k e
    (s.frmDrop k).Recorded t k ∧ (t.plane k).errSeq = (s.plane k).errSeq + 1 ∧
    ctrGet (t.plane k).ctrs .frmDrop = satAdd 32 (ctrGet (s.plane k).ctrs .frmDrop) 1 := by
  intro t
  have hp := s.frmDrop_plane k
  have hs : (s.frmDrop k).Spares k e := by
    intro o ho
    rw [hp] at ho
    exact h o ho
  have hr : (s.frmDrop k).Recorded t k := State.error_recorded hs
  refine ⟨hr, by rw [hr.own, hp], ?_⟩
  rw [hr.ctr _ (by decide), hp]
  exact ctrGet_ctrAdd_same ..

/-- A credit lets the first waiting entry in, and the stage takes the head (R19). -/
theorem creditReturn_takes {k : PlaneIx} {q : Fin 8} (l : LaneIx) {e : QEntry} {es : List QEntry} {s : State} (hq : q.val ∈ [1, 2, 4])
    (hp : (s.plane k).parked = []) (he : ((s.plane k).queue q.val).entries = e :: es) :
    Runs (.creditReturn k q l false) s fun t => t = { s with planes := t.planes } ∧
      let x := (s.plane k).queue q.val
      (t.plane k).queue q.val = { entries := es ++ x.waiting.take 1, waiting := x.waiting.drop 1, taken := x.taken ++ [e] } := by
  have hc : s.creditReturn k q l false = s.updPlane k fun p => p.setQueue q.val ((s.plane k).queue q.val).credit := by
    have h7 : q.val ≠ 7 := by rintro h; simp [h] at hq
    have h : (decide (q.val = 0) || decide (q.val = 3) || decide (q.val = 5) || decide (q.val = 6)) = false := by
      simp only [List.mem_cons, List.not_mem_nil, or_false] at hq
      simp only [Bool.or_eq_false_iff, decide_eq_false_iff_not]
      omega
    simp only [State.creditReturn, h7, h, if_false, Bool.false_eq_true]
  refine ⟨_, rfl, ?_⟩
  rw [hc, State.resume_nil (by rw [plane_updPlane_same, Plane.setQueue_eq]; exact hp)]
  refine ⟨rfl, ?_⟩
  rw [plane_updPlane_same, Plane.queue_setQueue, StageQ.credit_cons he]

/-- The heads of the other queues have left by themselves: a removal there finds nothing left to do (notes/assumptions 53). -/
theorem creditReturn_idle {k : PlaneIx} {q : Fin 8} (l : LaneIx) {s : State} (hq : q.val ∈ [0, 3, 5, 6]) (hp : (s.plane k).parked = []) :
    Runs (.creditReturn k q l false) s fun t => t = s := by
  have hc : s.creditReturn k q l false = s := by
    have h7 : q.val ≠ 7 := by rintro h; simp [h] at hq
    have h : (decide (q.val = 0) || decide (q.val = 3) || decide (q.val = 5) || decide (q.val = 6)) = true := by
      simpa [or_assoc] using hq
    simp only [State.creditReturn, h7, h, if_true, if_false, Bool.false_eq_true]
  refine ⟨_, rfl, ?_⟩
  rw [hc, State.resume_nil hp]

/-- An entry whose parity fails is dropped, counted and recorded (R236). -/
theorem creditReturn_drops {k : PlaneIx} {q : Fin 8} (l : LaneIx) {e : QEntry} {es : List QEntry} {s : State} (h7 : q.val < 7)
    (hp : (s.plane k).parked = []) (he : ((s.plane k).queue q.val).entries = e :: es)
    (ho : ∀ o ∈ (s.plane k).obs, o.block = 3 → o.errs + 1 < s.host.obsretire) :
    Runs (.creditReturn k q l true) s fun t => t.host.errsum.getLsbD k.val = true ∧ (t.plane k).errSeq = (s.plane k).errSeq + 1 ∧
      ctrGet (t.plane k).ctrs .frmDrop = satAdd 32 (ctrGet (s.plane k).ctrs .frmDrop) 1 ∧
      let x := (s.plane k).queue q.val
      (t.plane k).queue q.val = { entries := es ++ x.waiting.take 1, waiting := x.waiting.drop 1, taken := x.taken } := by
  refine ⟨_, rfl, ?_⟩
  unfold State.creditReturn
  rw [if_neg (by omega)]
  simp only [if_true, he]
  set s1 := s.updPlane k fun p => p.setQueue q.val ((s.plane k).queue q.val).dropHead with h1
  set s2 := s1.loseEntry k q.val e with h2
  have hk : s1.plane k = (s.plane k).setQueue q.val ((s.plane k).queue q.val).dropHead := plane_updPlane_same ..
  have hl := s1.loseEntry_plane k q.val e
  have hpark : (s2.plane k).parked = [] := State.loseEntry_parked (by rw [hk, Plane.setQueue_eq]; exact hp) ..
  generalize hx : ({ block := 3, cls := 2, index := q.val, job := e.job, bucket := e.bucket, chunk := e.chunk, pass := e.pass } : ErrInfo) = x
  have hs : s2.Spares k x := by
    subst hx
    intro o h hb
    rw [hl, hk, Plane.setQueue_eq] at h
    rw [State.loseEntry_host]
    exact ho o h hb
  obtain ⟨hr, hseq, hctr⟩ := State.frmDrop_error hs
  have hd := s2.frmDrop_plane k
  rw [State.resume_nil (by rw [hr.own, hd]; exact hpark)]
  refine ⟨hr.bit, ?_, ?_, ?_⟩
  · rw [hseq, hl, hk, Plane.setQueue_eq]
  · rw [hctr, hl, hk, Plane.setQueue_eq]
  · rw [← StageQ.dropHead_cons he, hr.own, hd]
    exact (congrArg (Plane.queue · q.val) hl).trans ((congrArg (Plane.queue · q.val) hk).trans (Plane.queue_setQueue ..))

/-- A credit of an Egress queue lets the descriptor that waits before it in (R19). -/
theorem creditReturn_egress {k : PlaneIx} {l : LaneIx} {x : Desc} {xs : List Desc} {s : State} (hp : (s.plane k).parked = [])
    (hw : (s.lane (devLane k l)).egWait = x :: xs) (hn : (s.lane (devLane k l)).egress.length < 128) :
    Runs (.creditReturn k 7 l false) s fun t =>
      (t.lane (devLane k l)).egress = (s.lane (devLane k l)).egress ++ [x] ∧ (t.lane (devLane k l)).egWait = xs := by
  refine ⟨_, rfl, ?_⟩
  unfold State.creditReturn
  rw [if_pos (by rfl)]
  simp only [Bool.false_eq_true, if_false]
  rw [State.resume_nil, lane_updLane_same, hw]
  · simp only [if_pos hn]
    exact ⟨trivial, trivial⟩
  · unfold State.updLane
    rw [planeOf_devLane, plane_updPlane_same]
    exact hp

/-- A descriptor whose parity fails is dropped, counted and recorded (R236). -/
theorem creditReturn_egress_drops {k : PlaneIx} {l : LaneIx} {x : Desc} {xs : List Desc} {s : State} (hp : (s.plane k).parked = [])
    (hw : (s.lane (devLane k l)).egress = x :: xs) (ho : ∀ o ∈ (s.plane k).obs, o.block = 3 → o.errs + 1 < s.host.obsretire) :
    Runs (.creditReturn k 7 l true) s fun t => (t.plane k).errSeq = (s.plane k).errSeq + 1 ∧ (t.lane (devLane k l)).egress = xs ∧
      ctrGet (t.plane k).ctrs .frmDrop = satAdd 32 (ctrGet (s.plane k).ctrs .frmDrop) 1 := by
  refine ⟨_, rfl, ?_⟩
  unfold State.creditReturn
  rw [if_pos (by rfl)]
  simp only [if_true, hw]
  set s1 := s.updLane (devLane k l) fun n => n.leave x xs with h1
  have hk : s1.plane k = (s.plane k).updLane l fun n => n.leave x xs := by
    rw [h1, State.updLane, planeOf_devLane, laneIn_devLane, plane_updPlane_same]
  generalize hx : ({ block := 3, cls := 2, index := 7, job := x.job, op := x.frame.hdr.op, opk := 2 } : ErrInfo) = e
  have hs : s1.Spares k e := by
    subst hx
    intro o h hb
    rw [hk] at h
    exact ho o h hb
  obtain ⟨hr, hseq, hctr⟩ := State.frmDrop_error hs
  have hd := s1.frmDrop_plane k
  rw [State.resume_nil (by rw [hr.own, hd, hk]; exact hp)]
  refine ⟨by rw [hseq, hk]; rfl, ?_, by rw [hctr, hk]; rfl⟩
  rw [State.lane_devLane, hr.own, hd]
  have := lane_updLane_same s (devLane k l) fun n => n.leave x xs
  rw [← h1, State.lane_devLane] at this
  exact congrArg Lane.egress this

end Sys2Proof.Machine

/-! ## The policer's queue, the refill and the gates (R19, R20, R200 to R209) -/

namespace Sys2Proof.Machine

@[simp] theorem settled_later (f : RxFrame) : (settled f).later = f.later := by
  unfold settled
  split <;> rfl

@[simp] theorem settled_work (f : RxFrame) : (settled f).work = f.work := by
  unfold settled
  split <;> rfl

/-- The lane layer's counters leave every plane's jobs, queues and parked frames. -/
theorem State.fecCount_plane (s : State) (lane : DevLane) (x : FecInfo) (q : PlaneIx) :
    (s.fecCount lane x).plane q = { s.plane q with lanes := ((s.fecCount lane x).plane q).lanes } := by
  unfold State.fecCount State.updLane
  rw [plane_updPlane]
  split
  · next e => subst e; rfl
  · rfl

/-- A frame that finds the stages behind the policer stalled, or other frames waiting there, waits with its meter untouched (R19, R20). -/
theorem gradFrame_parks {lane : DevLane} {f : RxFrame} {fr : Frame} {s : State} (hl : (s.lane lane).st = .up)
    (hs : (s.plane (planeOf lane)).ps = .inService) (hf : parseFrame (s.isPeer lane) (s.farDev lane) (settled f) = .ok fr)
    (hop : fr.hdr.op = opGrad) (hr : ((s.fecCount lane (settled f).fec).room (planeOf lane) fr).isSome = true)
    (hw : (s.plane (planeOf lane)).frontStalled = true ∨ (s.plane (planeOf lane)).parked ≠ []) :
    Runs (.gradFrame lane f) s fun t =>
      (∃ x, (t.plane (planeOf lane)).parked = (s.plane (planeOf lane)).parked ++ [x] ∧ x.lane = lane ∧ x.frame = fr) ∧
      t.pjob (planeOf lane) fr.hdr.job = s.pjob (planeOf lane) fr.hdr.job := by
  set u := s.fecCount lane (settled f).fec with hu
  have hstall : ((s.plane (planeOf lane)).frontStalled || !(s.plane (planeOf lane)).parked.isEmpty) = true := by simpa using hw
  have hin : s.receive lane f [opGrad] (fun x s => s.handle x) =
      u.updPlane (planeOf lane) fun p => p.park (u.parkedOf lane fr (settled f).later (settled f).work) := by
    unfold State.receive
    simp [hl, hs, hf, hop, ← hu, Option.isNone_eq_false_iff.2 hr, hstall]
  refine ⟨_, rfl, ?_⟩
  rw [hin]
  have hp := s.fecCount_plane lane (settled f).fec (planeOf lane)
  rw [← hu] at hp
  refine ⟨⟨u.parkedOf lane fr (settled f).later (settled f).work, ?_, rfl, rfl⟩, ?_⟩
  · rw [plane_updPlane_same, Plane.park, hp]
  · unfold State.pjob Plane.findPJob
    rw [plane_updPlane_same, Plane.park, hp]

/-- A frame that waited behind the policer goes on once the stages have credits, and is metered then (R19, R20). -/
theorem creditReturn_goesOn {k : PlaneIx} (l : LaneIx) {x : Parked} {s : State} (hp : (s.plane k).parked = [x])
    (hs : (s.plane k).frontStalled = false) (hq : (s.plane k).qAdmit.entries = []) (hx : x.later = .none) (hw : x.work = {}) :
    let u := s.setPlane k { s.plane k with parked := [], qParse := (s.plane k).qParse.dropHead }
    let v := u.police x.lane x.frame.hdr.job (x.frame.hdr.len + 36)
    Runs (.creditReturn k 1 l false) s fun t => t = if v.1 = true then v.2.handle x else v.2 := by
  intro u v
  have hc : s.creditReturn k 1 l false = s := by
    have : s.creditReturn k 1 l false = s.updPlane k fun p => { p with qAdmit := (s.plane k).qAdmit.credit } := rfl
    rw [this, StageQ.credit_nil hq]
    exact setPlane_self s k
  refine ⟨_, rfl, ?_⟩
  rw [hc]
  simp only [State.resume, State.resumeOne, hp, hs, State.each_cons, State.each_nil, Bool.false_eq_true, if_false, hx, bne_self_eq_false, hw]
  rfl

/-! ### The refill -/

theorem PJob.refill_rate (j : PJob) : j.refill.rate = j.pendRate.getD j.rate ∧ j.refill.pendRate = none := by
  unfold PJob.refill
  dsimp only
  split <;> exact ⟨rfl, rfl⟩

theorem PJob.refill_good {j : PJob} (h : j.meterBad = false) :
    j.refill.tc = min (j.tc + j.refill.rate.cir) j.refill.rate.cbs ∧ j.refill.tp = min (j.tp + j.refill.rate.pir) j.refill.rate.pbs := by
  simp [PJob.refill, h]

theorem PJob.refill_bad {j : PJob} (h : j.meterBad = true) :
    j.refill.tc = j.refill.rate.cbs ∧ j.refill.tp = j.refill.rate.pbs ∧ j.refill.meterBad = false := by
  simp [PJob.refill, h]

theorem PJob.refill_id (j : PJob) : j.refill.id = j.id := by
  unfold PJob.refill
  dsimp only
  split <;> rfl

theorem Lane.refill_spec (x : Lane) :
    (x.refill.shrate, x.refill.shburst, x.refill.shovh) = x.pendShape.getD (x.shrate, x.shburst, x.shovh) ∧ x.refill.pendShape = none ∧
    x.refill.ts = (if x.shapeBad then x.refill.shburst else min (x.ts + x.refill.shrate) x.refill.shburst) ∧ x.refill.shapeBad = false ∧
    x.refill.egress = x.egress := by
  unfold Lane.refill
  rcases x.pendShape.getD (x.shrate, x.shburst, x.shovh) with ⟨a, b, c⟩
  exact ⟨rfl, rfl, rfl, rfl, rfl⟩

/-- A plane after a refill. -/
theorem State.refill_plane (s : State) (k : PlaneIx) : (s.refill k none).plane k = { s.plane k with
    jobs := (s.plane k).jobs.map PJob.refill, lanes := (s.plane k).lanes.map Lane.refill
    tokLend := min ((s.plane k).tokLend + s.part.lend.partceil) s.part.lend.partburst
    tokServe := min ((s.plane k).tokServe + s.part.serve.partceil) s.part.serve.partburst } := plane_updPlane_same ..

theorem State.refill_pjob (s : State) (k : PlaneIx) (id : Nat) : (s.refill k none).pjob k id = (s.pjob k id).map PJob.refill := by
  unfold State.pjob Plane.findPJob
  rw [s.refill_plane k, List.find?_map]
  simp only [Function.comp_def, PJob.refill_id]

theorem State.refill_lane (s : State) (k : PlaneIx) (l : LaneIx) : (s.refill k none).lane (devLane k l) = (s.lane (devLane k l)).refill := by
  rw [State.lane_devLane, State.lane_devLane, s.refill_plane k]
  exact Vector.getElem_map ..

/-- A job's buckets whose parity fails at the refill: one record of this plane, and no other plane's (R236). -/
theorem refill_records {k : PlaneIx} {id : Nat} {pj : PJob} {s : State} (h : s.pjob k id = some pj) :
    Runs (.refill k (some id)) s fun t => (t.plane k).errSeq = (s.plane k).errSeq + 1 ∧ t.host.errsum.getLsbD k.val = true ∧
      ∀ q, q ≠ k → (t.plane q).errSeq = (s.plane q).errSeq := by
  set u := (s.refill k none).updPJob k id fun j => { j with meterBad := true } with hu
  have hk : (u.plane k).errSeq = (s.plane k).errSeq := by
    rw [hu, State.updPJob, plane_updPlane_same, Plane.updPJob, s.refill_plane k]
  have hq (q : PlaneIx) (hne : q ≠ k) : u.plane q = s.plane q :=
    (plane_updPlane_other _ _ _ _ hne).trans (plane_updPlane_other _ _ _ _ hne)
  have hr : s.refill k (some id) = u.error k { block := 0x0B, cls := 2, job := id } := by
    have hp := s.refill_pjob k id
    rw [h] at hp
    unfold State.refill at hp ⊢
    simp only [hp, Option.map_some]
    rfl
  refine ⟨_, rfl, ?_⟩
  rw [hr]
  obtain hv | ⟨v, hv, hl, -⟩ := u.coreError_cases k (e := { block := 0x0B, cls := 2, job := id }) rfl
  · exact ⟨by rw [hv.own, hk], hv.bit, fun q hne => by rw [hv.other q hne, hq q hne]⟩
  · exact ⟨by rw [hl.errSeq, hv.own, hk], hl.errsum _ hv.bit, fun q hne => by rw [hl.errSeq, hv.other q hne, hq q hne]⟩

end Sys2Proof.Machine

section
open Sys2Proof Sys2Proof.Machine

/-- Settles O36: the queues' rules, the frame behind the policer, the refill of jobs and lanes, and the gates. -/
theorem queuesRefillsAndGates : Obligations.QueuesRefillsAndGates := by
  refine ⟨⟨?_, fun k l x xs s hp => ⟨?_, ?_⟩, ?_, ?_⟩, fun k s => ⟨?_, ?_⟩, fun k s => ⟨?_, ?_, ?_, ?_⟩⟩
  · intro k q l e es s h7 hp x he
    exact ⟨fun hq => creditReturn_takes l hq hp he, fun hq => creditReturn_idle l hq hp, creditReturn_drops l h7 hp he⟩
  · exact creditReturn_egress hp
  · exact creditReturn_egress_drops hp
  · exact fun lane f fr s hl hs hf hop hr hw => gradFrame_parks hl hs hf hop hr hw
  · exact fun k l x s hp hs hq hx hw => creditReturn_goesOn l hp hs hq hx hw
  · refine ⟨s.refill k none, rfl, rfl, by rw [s.refill_plane k], by rw [s.refill_plane k], fun id pj h => ?_, fun l => ?_⟩
    · refine ⟨pj.refill, by rw [s.refill_pjob, h, Option.map_some], pj.refill_rate.1, pj.refill_rate.2, PJob.refill_good, PJob.refill_bad⟩
    · rw [s.refill_lane k l]
      exact Lane.refill_spec _
  · exact fun id pj h => refill_records h
  · exact fun h => ⟨_, if_neg h, rfl⟩
  · exact fun h => ⟨_, if_pos h, rfl⟩
  · exact ⟨_, rfl, rfl⟩
  · simp only [Runs, exec, execGateCycleStart]
    split
    · refine ⟨_, rfl, rfl, ?_, ?_, fun q hq => plane_updPlane_other _ _ _ _ hq⟩ <;> rw [plane_updPlane_same]
    · refine ⟨_, rfl, rfl, ?_, ?_, fun q hq => plane_updPlane_other _ _ _ _ hq⟩ <;> rw [plane_updPlane_same]

end

/-! ## The scalar combiner (R12, R90, R242) -/

namespace Sys2Proof.Machine

/-! ### A combine whose chains agree -/

@[simp] theorem Flags.ofBits_bits (f : Flags) : Flags.ofBits f.bits = f := by
  obtain ⟨a, b, c, d⟩ := f
  cases a <;> cases b <;> cases c <;> cases d <;> rfl

theorem chainWords_zero (w bits : Nat) : chainWords w bits 0 = (w, w, w) := by simp [chainWords]

/-- Chains that are not disturbed settle on the plain total and flags (R242). -/
theorem State.settleCombine_undisturbed (s : State) (job : Nat) (tot : W32) (fl : Flags) :
    s.settleCombine job tot fl 0 0 = (tot, fl, { s with fresh := s.fresh + 1 }) := by
  simp [State.settleCombine, chainWords_zero, majority3, State.chainError, State.takeFresh]

/-- The pairs of two planes, in ascending plane order whichever came last (R12). -/
theorem pairs_ascending {a b : PlaneIx} (h : a < b) {α : Type} (l : List (Nat × α)) (y z : α)
    (hl : ∀ i, l.lookup i = if i = a.val then some y else if i = b.val then some z else none) :
    (List.range 8).filterMap (fun i => l.lookup i) = [y, z] := by
  have hab : ∀ a b : PlaneIx, a < b → (List.range 8).filter (fun i => i == a.val || i == b.val) = [a.val, b.val] := by decide
  have hne : b.val ≠ a.val := (Nat.ne_of_gt h)
  have hf : (fun i => l.lookup i) = fun i => if (i == a.val || i == b.val) = true then l.lookup i else none := by
    funext i
    by_cases ha : i = a.val
    · simp [ha]
    · by_cases hb : i = b.val
      · simp [hb]
      · simp [hl, ha, hb]
  rw [hf, ← List.filterMap_filter, hab a b h]
  simp [hl, hne]

/-! ### Words and pairs in the scalar queues -/

theorem Plane.pushDown_wordDown {p p' : Plane} (hd : p'.scalarDown = p.scalarDown) (hw : p'.downWait = p.downWait) (w : DownWord) :
    p.WordDown (p'.pushDown w) w := by
  unfold Plane.WordDown Plane.pushDown
  simp only [hd, hw, Bool.and_eq_true, decide_eq_true_eq, List.isEmpty_iff]
  split
  · next h => exact ⟨rfl, h.2⟩
  · exact ⟨rfl, rfl⟩

@[simp] theorem Plane.pushDown_scalarUp (p : Plane) (w : DownWord) : (p.pushDown w).scalarUp = p.scalarUp := by
  unfold Plane.pushDown
  split <;> rfl

theorem State.popUp_calm (s : State) (k : PlaneIx) : s.Calm (s.updPlane k Plane.popUp) := .updPlane s k fun _ => rfl

theorem State.popUp_down (s : State) (k q : PlaneIx) : ((s.updPlane k Plane.popUp).plane q).scalarDown = (s.plane q).scalarDown ∧
    ((s.updPlane k Plane.popUp).plane q).downWait = (s.plane q).downWait := by
  rw [plane_updPlane]
  split
  · next e => subst e; exact ⟨rfl, rfl⟩
  · exact ⟨rfl, rfl⟩

theorem State.popUp_scalarUp {s : State} {k : PlaneIx} {x : Pair} {xs : List Pair} (h : (s.plane k).scalarUp = x :: xs) :
    ((s.updPlane k Plane.popUp).plane k).scalarUp = xs ++ (s.plane k).upWait.take 1 := by
  rw [plane_updPlane_same, Plane.popUp, h]
  rfl

theorem State.Quiet.heldPlanes {s t : State} (h : s.Quiet t) (j : Job) : t.heldPlanes j = s.heldPlanes j := by
  unfold State.heldPlanes
  simp only [h.pjob]

/-- The word of a combine goes down to both planes of the job (R12). -/
theorem State.combine_two {s : State} {j : Job} {a b : PlaneIx} {step : Nat} {pairs : List (Nat × W32 × Flags)} {y z : W32 × Flags}
    (hab : a < b) (hh : s.heldPlanes j = [a, b]) (hr : j.ringHold = false)
    (hl : ∀ i, pairs.lookup i = if i = a.val then some y else if i = b.val then some z else none) (q : PlaneIx) :
    (s.combine j step pairs 0 0).plane q =
      if q = a ∨ q = b then (s.plane q).pushDown (.combined j.id step (fadd y.1 z.1).1 ((({} : Flags).or y.2).or z.2)) else s.plane q := by
  have hne : a ≠ b := Fin.ne_of_lt hab
  have hc (n : Nat) (c : Combiner) : ({ s with fresh := n, comb := c } : State).heldPlanes j = [a, b] := hh
  unfold State.combine
  rw [pairs_ascending hab pairs y z hl]
  simp only [List.foldl_cons, List.foldl_nil, State.settleCombine_undisturbed, hr, Bool.false_eq_true, if_false]
  rw [hc]
  simp only [State.each_cons, State.each_nil, State.updJob_plane]
  rw [plane_updPlane, plane_updPlane, plane_updPlane]
  by_cases ha : q = a
  · subst ha
    simp [hne, State.plane]
  · by_cases hb : q = b
    · subst hb
      simp [ha, State.plane]
    · simp [ha, hb, State.plane]

theorem Job.mem_planes {j : Job} {k : PlaneIx} : k ∈ j.planes ↔ j.hdr.planes.getLsbD k.val = true := by
  simp [Job.planes, planesOf, allPlanes, BitVec.testBit_toNat]

/-- A pair that completes a step of a job on two planes (R12, R90): `o` is the plane whose pair came before. -/
theorem State.takePair_completes {s : State} {k o : PlaneIx} {x : Pair} {j : Job} {w : W32 × Flags} (hj : s.findJob x.job = some j)
    (ha : j.st.isActive = true) (hd : (x.job, x.step) ∉ s.comb.dropped) (hc : j.lastComb < (x.step : Int)) (hk : k ∈ j.planes)
    (hp : ∀ q ∈ j.planes, q = k ∨ q = o) (hne : o ≠ k) (hw : s.comb.pairsOf x.job x.step = [(o.val, w.1, w.2)]) :
    s.takePair k x 0 0 = s.combine j x.step [(k.val, x.norm, x.flags), (o.val, w)] 0 0 := by
  have hov : o.val ≠ k.val := fun h => hne (Fin.ext h)
  have hall : (j.planes.all fun q => k.val == q.val || o.val == q.val) = true := by
    simp only [List.all_eq_true]
    intro q hq
    obtain rfl | rfl := hp q hq <;> simp
  unfold State.takePair
  simp only [hj, JState.isOpen_of_isActive ha, ha, hw, Job.mem_planes.1 hk, Bool.not_true, Bool.false_eq_true, if_false,
    List.any_cons, List.any_nil, Bool.or_false, Bool.false_or]
  rw [if_neg (by simpa using hd), if_neg (by simp [hov]; omega), if_pos hall]

/-- A pair of a plane outside the job is dropped (R90). -/
theorem State.takePair_foreign {s : State} {k : PlaneIx} {x : Pair} {j : Job} (tf ff : Nat) (hj : s.findJob x.job = some j)
    (ha : j.st.isActive = true) (hd : (x.job, x.step) ∉ s.comb.dropped) (hk : j.hdr.planes.getLsbD k.val = false) :
    s.takePair k x tf ff = s.pairDrop := by
  unfold State.takePair
  simp only [hj, JState.isOpen_of_isActive ha, ha, hk, Bool.not_true, Bool.not_false, Bool.true_or, Bool.false_eq_true, if_false, if_true,
    Bool.false_or]
  rw [if_neg (by simpa using hd)]

/-- A dropped pair is counted in `PAIRDROP`, with its bit of the summary (R90, R362). -/
theorem State.pairDrop_spec (s : State) : s.pairDrop.comb = s.comb ∧ s.pairDrop.host.pairdrop = satAdd 32 s.host.pairdrop 1 ∧
    s.pairDrop.host.errsum = s.host.errsum ||| BitVec.ofNat 32 (2 ^ esPairDrp) ∧ ∀ q, s.pairDrop.plane q = s.plane q := by
  refine ⟨?_, ?_, (State.setErrsum_errsum ..).trans ?_, fun q => State.setErrsum_plane ..⟩
  · unfold State.pairDrop State.setErrsum State.msixSend
    dsimp only
    split
    · split <;> rfl
    · rfl
  · unfold State.pairDrop State.setErrsum State.msixSend
    dsimp only
    split
    · split <;> rfl
    · rfl
  · rfl

theorem lookup_two {α : Type} (k o i : Nat) (x w : α) :
    [(k, x), (o, w)].lookup i = if i = k then some x else if i = o then some w else none := by
  by_cases hk : i = k
  · simp [hk]
  · have hb : (i == k) = false := by simpa using hk
    by_cases ho : i = o
    · subst ho; simp [List.lookup_cons, hb, hk]
    · have hc : (i == o) = false := by simpa using ho
      simp [List.lookup_cons, hb, hc, hk, ho]

/-- Both orders in which the two pairs of a step may come: the last one finds the other, and the planes get the total. -/
theorem scalarPair_completes {k o a b : PlaneIx} {x : Pair} {xs : List Pair} {w y z : W32 × Flags} {j : Job} {s : State}
    (hx : (s.plane k).scalarUp = x :: xs) (hj : s.findJob x.job = some j) (ha : j.st.isActive = true)
    (hd : (x.job, x.step) ∉ s.comb.dropped) (hc : j.lastComb < (x.step : Int)) (hr : j.ringHold = false) (hab : a < b)
    (hp : j.planes = [a, b]) (hh : s.heldPlanes j = [a, b]) (hw : s.comb.pairsOf x.job x.step = [(o.val, w.1, w.2)])
    (hko : k = a ∧ o = b ∧ y = (x.norm, x.flags) ∧ z = w ∨ k = b ∧ o = a ∧ y = w ∧ z = (x.norm, x.flags)) :
    Runs (.scalarPair k 0 0) s fun t => (t.plane k).scalarUp = xs ++ (s.plane k).upWait.take 1 ∧ ∀ q,
      if q = a ∨ q = b then (s.plane q).WordDown (t.plane q)
          (.combined x.job x.step (fadd y.1 z.1).1 ((({} : Flags).or y.2).or z.2))
      else (t.plane q).scalarDown = (s.plane q).scalarDown ∧ (t.plane q).downWait = (s.plane q).downWait := by
  have hne : a.val ≠ b.val := Nat.ne_of_lt hab
  set u := s.updPlane k Plane.popUp with hu
  have hcalm : s.Calm u := s.popUp_calm k
  have hid : j.id = x.job := by simpa using List.find?_some hj
  have ht : u.takePair k x 0 0 = u.combine j x.step [(k.val, x.norm, x.flags), (o.val, w)] 0 0 := by
    refine State.takePair_completes ((hcalm.findJob _).trans hj) ha hd hc ?_ ?_ ?_ hw
    · rw [hp]; obtain ⟨rfl, -⟩ | ⟨rfl, -⟩ := hko <;> simp
    · rw [hp]; obtain ⟨rfl, rfl, -⟩ | ⟨rfl, rfl, -⟩ := hko <;> simp [or_comm]
    · obtain ⟨rfl, rfl, -⟩ | ⟨rfl, rfl, -⟩ := hko
      · exact (Fin.ne_of_lt hab).symm
      · exact Fin.ne_of_lt hab
  have hplane := State.combine_two (s := u) (step := x.step) (pairs := [(k.val, x.norm, x.flags), (o.val, w)]) (y := y) (z := z) hab
    ((hcalm.toQuiet.heldPlanes j).trans hh) hr (fun i => by
      obtain ⟨rfl, rfl, rfl, rfl⟩ | ⟨rfl, rfl, rfl, rfl⟩ := hko
      · exact lookup_two ..
      · rw [lookup_two]
        by_cases h : i = k.val
        · rw [if_pos h, if_neg (by omega), if_pos h]
        · simp only [if_neg h])
  refine ⟨u.takePair k x 0 0, by simp [exec, execScalarPair, hx, ← hu], ?_, fun q => ?_⟩
  · rw [ht, hplane]
    have hup : (u.plane k).scalarUp = _ := State.popUp_scalarUp hx
    split
    · rw [Plane.pushDown_scalarUp, hup]
    · exact hup
  · rw [ht, hplane, hid]
    obtain ⟨h1, h2⟩ := s.popUp_down k q
    split
    · exact Plane.pushDown_wordDown h1 h2 _
    · exact ⟨h1, h2⟩

end Sys2Proof.Machine

section
open Sys2Proof Sys2Proof.Machine
/-- Settles O31: the two pairs stand in ascending plane order whichever came last, and a foreign pair is only counted. -/
theorem combinerAddsInPlaneOrder : Obligations.CombinerAddsInPlaneOrder := by
  refine ⟨fun k a b x y z xs j s hx hj ha hd hc hr hab hp hh hy hz hk => ?_, fun k tf ff x xs j s hx hj ha hd hk => ?_⟩
  · obtain ⟨rfl, rfl, hw⟩ | ⟨rfl, rfl, hw⟩ := hk
    · exact scalarPair_completes (w := (z.norm, z.flags)) (y := (x.norm, x.flags)) (z := (z.norm, z.flags)) hx hj ha hd hc hr hab hp hh hw
        (.inl ⟨rfl, rfl, rfl, rfl⟩)
    · exact scalarPair_completes (w := (y.norm, y.flags)) (y := (y.norm, y.flags)) (z := (x.norm, x.flags)) hx hj ha hd hc hr hab hp hh hw
        (.inr ⟨rfl, rfl, rfl, rfl⟩)
  · have ht := State.takePair_foreign (s := s.updPlane k Plane.popUp) tf ff hj ha hd hk
    obtain ⟨hcomb, hdrop, hsum, hplane⟩ := (s.updPlane k Plane.popUp).pairDrop_spec
    refine ⟨_, by simp only [exec, execScalarPair, hx, ht], ?_, hcomb, hdrop, hsum⟩
    rw [hplane]
    exact State.popUp_scalarUp hx

end

/-! ## Frames that a receiver takes (R178, R199, R218) -/

namespace Sys2Proof.Machine

/-! ### From the fibre to the handling -/

theorem State.police_planes (s : State) (d : DevLane) (job n : Nat) : (s.police d job n).2 = { s with planes := (s.police d job n).2.planes } := by
  unfold State.police
  dsimp only
  split
  · split
    · rfl
    · split <;> rfl
  · rfl

/-- A frame that lands changes the planes alone: the lane layer's counters, and the policer's tokens and counters. -/
theorem State.landed_planes (s : State) (lane : DevLane) (f : RxFrame) (fr : Frame) :
    s.landed lane f fr = { s with planes := (s.landed lane f fr).planes } := by
  unfold State.landed
  rw [State.police_planes]
  rfl

/-- A frame taken whole is handled, in the state in which it landed. -/
theorem State.frameIn_receives {s : State} {lane : DevLane} {f : RxFrame} {ops : List Nat} {fr : Frame} (h : s.Receives lane f ops fr) :
    ∃ x : Parked, x.lane = lane ∧ x.frame = fr ∧ x.later = .none ∧ x.work = {} ∧
      s.frameIn lane f ops = .next ((s.landed lane f fr).handle x) := by
  obtain ⟨hst, hps, hparse, hop, hroom, hfront, hparked, hlater, hwork, hpol⟩ := h
  refine ⟨(s.fecCount lane (settled f).fec).parkedOf lane fr f.later f.work, rfl, rfl, hlater, hwork, ?_⟩
  unfold State.frameIn State.receive
  simp [hst, hps, hparse, hop, Option.isNone_eq_false_iff.2 hroom, hfront, hparked, hpol, hwork]
  rfl

theorem State.handle_eq_handleBy (s : State) {x : Parked} (h : x.work = {}) : s.handle x = s.handleBy x := by
  unfold State.handle
  rw [h]

theorem State.handleBy_grad (s : State) {x : Parked} (h : x.frame.hdr.op = opGrad) : s.handleBy x = s.grad x.lane x.frame x.later := by
  unfold State.handleBy
  rw [h]
  rfl

theorem State.handleBy_norm (s : State) {x : Parked} (h : x.frame.hdr.op = opNorm) : s.handleBy x = s.normIn x.lane x.frame := by
  have ha : aboutCopy x.frame = false := by simp [aboutCopy, h, opNorm, opStatus]
  unfold State.handleBy
  rw [h, ha]
  rfl

theorem State.handleBy_jdig (s : State) {x : Parked} (h : x.frame.hdr.op = opJdig) : s.handleBy x = s.jdigIn x.lane x.frame := by
  have ha : aboutCopy x.frame = false := by simp [aboutCopy, h, opJdig, opStatus]
  unfold State.handleBy
  rw [h, ha]
  rfl

/-! ### Shares of a job on a plane -/

theorem PJob.findShare_updShare (j : PJob) (b : Nat) (f : Share → Share) (hf : ∀ h, (f h).bucket = h.bucket) :
    (j.updShare b f).findShare b = (j.findShare b).map f :=
  find?_map_same _ f (fun h e => by rw [hf]; exact e) j.shares

theorem share_updShare (s : State) (k : PlaneIx) (id b : Nat) (f : Share → Share) (hf : ∀ h, (f h).bucket = h.bucket) :
    (s.updShare k id b f).share k id b = (s.share k id b).map f := by
  unfold State.share State.updShare
  rw [pjob_updPJob_same s k id (fun j => j.updShare b f) fun _ => rfl]
  cases s.pjob k id with
  | none => rfl
  | some pj => exact pj.findShare_updShare b f hf

theorem share_updShare_some {s : State} {k : PlaneIx} {id b : Nat} {f : Share → Share} {h : Share} (hs : s.share k id b = some h)
    (hf : ∀ h, (f h).bucket = h.bucket) : (s.updShare k id b f).share k id b = some (f h) := by
  rw [share_updShare s k id b f hf, hs, Option.map_some]

theorem State.Quiet.share {s t : State} (h : s.Quiet t) (k : PlaneIx) (id b : Nat) : t.share k id b = s.share k id b := by
  unfold State.share
  rw [h.pjob]

theorem State.share_of_findShare {s : State} {k : PlaneIx} {id b : Nat} {pj : PJob} {h : Share} (hp : s.pjob k id = some pj)
    (hh : pj.findShare b = some h) : s.share k id b = some h := by
  unfold State.share
  rw [hp]
  exact hh

end Sys2Proof.Machine

/-! ## Gradient frames (R17, R51, R52) -/

namespace Sys2Proof.Machine

theorem State.schedule_calm (s : State) (k : PlaneIx) : s.Calm (s.schedule k) := by
  unfold State.schedule
  dsimp only
  split
  · exact .refl s
  · split
    · exact .refl s
    · exact .updPlane s k fun _ => rfl

/-- What a contribution is, wherever it waits. -/
def Contrib.what (x : Contrib) : Nat × Nat × Nat × List W32 := (x.chunk, x.pass, x.member, x.vals)

/-- A chunk set that enters the staging area leaves what was contributed and added as it was (R165). -/
theorem State.stageSet_share {s : State} {k : PlaneIx} {id b : Nat} {h : Share} (hs : s.share k id b = some h) (c q : Nat) :
    ∃ h', (s.stageSet k id b c q).share k id b = some h' ∧ h'.contribs.map Contrib.what = h.contribs.map Contrib.what ∧
      h'.sums = h.sums ∧ h'.added = h.added := by
  unfold State.stageSet
  split
  · extract_lets need used there t
    split
    · exact ⟨h, hs, rfl, rfl, rfl⟩
    · have ht : s.Calm t := by
        unfold t
        split
        · exact .refl s
        · exact .updPlane s k fun _ => rfl
      refine ⟨_, share_updShare_some ((ht.toQuiet.share ..).trans hs) fun _ => rfl, ?_, rfl, rfl⟩
      rw [List.map_map]
      refine List.map_congr_left fun x _ => ?_
      simp only [Function.comp_apply]
      split <;> rfl
  · exact ⟨h, hs, rfl, rfl, rfl⟩

/-- An admitted contribution is kept with its values, and nothing is added yet (R52 row 12). -/
theorem State.admitContrib_share {s : State} {k : PlaneIx} {j : Job} {d : BucketDesc} {h : Share} (hs : s.share k j.id d.bucket = some h)
    (f : Frame) (m : Nat) (later : StoredFault) :
    ∃ h', (s.admitContrib k j d f m later).share k j.id d.bucket = some h' ∧
      h'.contribs.map Contrib.what = h.contribs.map Contrib.what ++
        [(f.hdr.chunk, f.hdr.comma % 64, m, decodeVals f.hdr.fmt (d.chunkRange f.hdr.chunk).2 f.payload)] ∧
      h'.sums = h.sums ∧ h'.added = h.added := by
  unfold State.admitContrib
  extract_lets p c s1 s2
  have h1 : s1.share k j.id d.bucket = some { h.touch p with contribs := h.contribs ++ [c] } :=
    share_updShare_some hs fun _ => rfl
  have h2 : s1.Calm s2 := .updPlane s1 k fun _ => rfl
  obtain ⟨h', hh, hc, hsum, hadd⟩ := State.stageSet_share ((h2.toQuiet.share ..).trans h1) c.chunk p
  exact ⟨h', ((State.schedule_calm ..).toQuiet.share ..).trans hh, by rw [hc]; simp [Contrib.what, c, p], hsum, hadd⟩

/-- A gradient frame that passes rows 1 to 8 of R52 goes by the step that its `COMMA` names (R51). -/
theorem State.grad_admitted {s : State} {lane : DevLane} {f : Frame} {j : Job} {pj : PJob} {m : Nat} {d : BucketDesc}
    (ha : s.admitSender lane f true = .ok (j, pj, m)) (hd : j.bucketDesc f.hdr.bucket = some d) (hc : j.chunkOk (planeOf lane) d f = true)
    (hf : fmtFloat f.hdr.fmt = true) (later : StoredFault) :
    (stepOf pj f.hdr.comma = .stale → s.grad lane f later = (s.jobCtr (planeOf lane) j.id .frmStale).frmDrop (planeOf lane)) ∧
    (stepOf pj f.hdr.comma = .next → s.grad lane f later = s.holdFrame lane f false (some m) later) ∧
    (stepOf pj f.hdr.comma = .current → s.grad lane f later = s.gradStep lane f j pj d m later) := by
  unfold State.grad
  refine ⟨fun hs => ?_, fun hs => ?_, fun hs => ?_⟩ <;>
    simp only [ha, hd, hc, hf, hs, Bool.not_true, Bool.false_eq_true, if_false]

/-- A frame that is only counted, in one of the job's counters and in `FRMDROP` (R179). -/
theorem State.countDrop_spec {s : State} {k : PlaneIx} {id : Nat} {pj : PJob} (h : s.pjob k id = some pj) (c : JCtr) :
    let t := (s.jobCtr k id c).frmDrop k
    t = { s with planes := t.planes } ∧ t.pjob k id = some { pj with ctrs := ctrAdd pj.ctrs c 1 } ∧
    ctrGet (t.plane k).ctrs .frmDrop = satAdd 32 (ctrGet (s.plane k).ctrs .frmDrop) 1 := by
  intro t
  have hp : (s.jobCtr k id c).pjob k id = some { pj with ctrs := ctrAdd pj.ctrs c 1 } := by
    unfold State.jobCtr
    rw [pjob_updPJob_same s k id (fun j => { j with ctrs := ctrAdd j.ctrs c 1 }) fun _ => rfl, h, Option.map_some]
  have hk : t.plane k = _ := State.frmDrop_plane ..
  refine ⟨rfl, ?_, ?_⟩
  · rw [← hp]
    unfold State.pjob Plane.findPJob
    rw [hk]
  · rw [hk, State.jobCtr, State.updPJob, plane_updPlane_same]
    exact ctrGet_ctrAdd_same ..

theorem State.Sends.ctrs {s t : State} (h : s.Sends t) (q : PlaneIx) : (t.plane q).ctrs = (s.plane q).ctrs := by rw [h.plane q]

/-- A contribution that is present already, or whose bucket has completed, is counted; the share stays, and a completion frame may go back to
its member (R52 row 10, R61). -/
theorem State.gradStep_again {s : State} {lane : DevLane} {f : Frame} {j : Job} {pj : PJob} {m : Nat} {d : BucketDesc} {h : Share}
    (hp : f.hdr.comma % 64 < j.hdr.passes) (hh : pj.findShare d.bucket = some h)
    (hd : h.commaDone = true ∨ h.present f.hdr.chunk (f.hdr.comma % 64) m = true) (later : StoredFault) :
    ((s.jobCtr (planeOf lane) j.id .dupChunk).frmDrop (planeOf lane)).Sends (s.gradStep lane f j pj d m later) := by
  unfold State.gradStep
  simp only [Nat.not_le.2 hp, if_false, hh]
  rw [if_pos (by simpa using hd)]
  split
  · exact State.toMember_sends ..
  · exact .refl _

/-- A contribution to an open bucket is admitted (R52 row 12). -/
theorem State.gradStep_admits {s : State} {lane : DevLane} {f : Frame} {j : Job} {pj : PJob} {m : Nat} {d : BucketDesc} {h : Share}
    (hp : f.hdr.comma % 64 < j.hdr.passes) (hh : pj.findShare d.bucket = some h) (hc : h.commaDone = false)
    (hn : h.present f.hdr.chunk (f.hdr.comma % 64) m = false) (ho : h.isOpen = true) (later : StoredFault) :
    s.gradStep lane f j pj d m later = s.admitContrib (planeOf lane) j d f m later := by
  unfold State.gradStep
  simp [Nat.not_le.2 hp, hh, hc, hn, ho]

end Sys2Proof.Machine

section
open Sys2Proof Sys2Proof.Machine

/-- Settles O21: the frame reaches row 9 of R52, and the step its `COMMA` names decides. -/
theorem gradientFrameIsAdmitted : Obligations.GradientFrameIsAdmitted := by
  intro lane f fr j pj m d s hr k u p ha hpj hd _ hc hf
  obtain ⟨x, hl, hx, hlat, hw, hin⟩ := State.frameIn_receives hr
  have hop : x.frame.hdr.op = opGrad := by rw [hx]; simpa using hr.2.2.2.1
  have hrun : exec (.gradFrame lane f) s = .next (u.grad lane fr .none) := by
    refine hin.trans ?_
    rw [State.handle_eq_handleBy _ hw, State.handleBy_grad _ hop, hl, hx, hlat]
  obtain ⟨hstale, hnext, hcur⟩ := State.grad_admitted ha hd hc hf .none
  refine ⟨fun h hs hp hh hcd hn ho => ?_, fun h hs hp hh hcd => ?_, fun hs => ?_, fun hs => ?_⟩
  · rw [hcur hs, State.gradStep_admits hp hh hcd hn ho] at hrun
    obtain ⟨h', hh', hcon, hsum, hadd⟩ := State.admitContrib_share (State.share_of_findShare hpj hh) fr m .none
    exact ⟨_, hrun, h', hh', hcon, hsum, hadd⟩
  · rw [hcur hs] at hrun
    have hsend : _ := State.gradStep_again (s := u) (lane := lane) (later := .none) hp hh hcd
    obtain ⟨he, hpj', hctr⟩ := State.countDrop_spec hpj .dupChunk
    have hq := (hsend.calm.toQuiet.pjob k j.id).trans hpj'
    refine ⟨_, hrun, ?_, State.share_of_findShare hq hh, (congrArg (ctrGet · _) (hsend.ctrs k)).trans hctr, _, hq, rfl, ctrGet_ctrAdd_same ..⟩
    rw [hsend.planes, he]
  · rw [hnext hs] at hrun
    refine ⟨_, hrun, rfl, _, congrArg Plane.held (plane_updPlane_same ..), rfl, rfl, rfl⟩
  · rw [hstale hs] at hrun
    obtain ⟨he, hpj', hctr⟩ := State.countDrop_spec hpj .frmStale
    exact ⟨_, hrun, he, hctr, _, hpj', rfl, ctrGet_ctrAdd_same ..⟩

end

/-! ## What devices of a board exchange: norms and description digests (R13, R167, R188) -/

namespace Sys2Proof.Machine

theorem State.openOn_findJob {s : State} {k : PlaneIx} {id : Nat} {j : Job} {pj : PJob} (h : s.openOn k id = some (j, pj)) :
    s.findJob id = some j := by
  unfold State.openOn at h
  split at h
  · next hj _ =>
    split at h
    · obtain ⟨rfl, -⟩ := Prod.mk.inj (Option.some.inj h)
      exact hj
    · cases h
  · cases h

theorem State.landed_bidx (s : State) (lane : DevLane) (f : RxFrame) (fr : Frame) : (s.landed lane f fr).bidx = s.bidx := by
  rw [State.landed_planes]; rfl

theorem State.landed_farDev (s : State) (lane : DevLane) (f : RxFrame) (fr : Frame) (d : DevLane) :
    (s.landed lane f fr).farDev d = s.farDev d := by
  rw [State.landed_planes]; rfl

/-- The flags of arithmetic go into the plane's `ASTAT` and into the records of its jobs (R43). -/
theorem State.arith_plane (s : State) (k : PlaneIx) (id : Nat) (unit fl : W32) : (s.arith k id unit fl).plane k = { s.plane k with
    jobs := ((s.arith k id unit fl).plane k).jobs, astat := ((s.arith k id unit fl).plane k).astat } := by
  unfold State.arith
  rw [plane_updPlane_same]
  rfl

/-- Who can be reached depends on the lanes and on the lanes a plane's jobs have given up (R193), and on nothing else of a plane. -/
theorem State.unreachable_updPlane {s : State} {k : PlaneIx} {f : Plane → Plane} (hl : ∀ p, (f p).lanes = p.lanes)
    (hj : ∀ p, (f p).jobs = p.jobs) (m : PlaneIx) (j : Job) (dev : Nat) : (s.updPlane k f).unreachable m j dev = s.unreachable m j dev := by
  have hlane (d : DevLane) : (s.updPlane k f).lane d = s.lane d := by
    unfold State.lane
    rw [plane_updPlane]
    split
    · next h => simp only [hl, h]
    · rfl
  have hjob (id : Nat) : (s.updPlane k f).pjob m id = s.pjob m id := by
    unfold State.pjob Plane.findPJob
    rw [plane_updPlane]
    split
    · next h => rw [hj, h]
    · rfl
  unfold State.unreachable State.deadPeer
  simp only [hlane, hjob]

/-! ### The norm exchange -/

theorem Plane.pushUp_pairUp {p p' : Plane} (hu : p'.scalarUp = p.scalarUp) (hw : p'.upWait = p.upWait) (x : Pair) :
    p.PairUp (p'.pushUp x) x := by
  unfold Plane.PairUp Plane.pushUp
  simp only [hu, hw, Bool.and_eq_true, decide_eq_true_eq, List.isEmpty_iff]
  split
  · next h => exact ⟨rfl, h.2⟩
  · exact ⟨rfl, rfl⟩

@[simp] theorem Plane.pushUp_norms (p : Plane) (x : Pair) : (p.pushUp x).norms = p.norms := by
  unfold Plane.pushUp
  split <;> rfl

/-- Without this device's own pair of the step nothing is combined (R188). -/
theorem State.normCheck_waits {s : State} {k : PlaneIx} {id step : Nat}
    (h : ∀ x ∈ (s.plane k).norms, x.job = id → x.step = step → x.dev ≠ s.bidx) : s.normCheck k id step = s := by
  unfold State.normCheck
  split
  · rfl
  · extract_lets devs here
    have hno : here.any (fun x => x.dev == s.bidx) = false := by
      simp only [here, List.any_eq_false, List.mem_filter, Bool.and_eq_true, beq_iff_eq]
      exact fun x hx => h x hx.1 hx.2.1 hx.2.2
    rw [if_neg (by simp [hno])]

/-- The pairs of the two devices of a job, `a` of the lower board index and `b` of the higher, are added in that order (R13, R188). -/
theorem State.normCheck_adds {s : State} {k : PlaneIx} {j : Job} {id step : Nat} {a b : NormPair} (hj : s.findJob id = some j)
    (hn : ∀ x, x ∈ (s.plane k).norms → x.job = id ∧ x.step = step) (hdev : s.jobDevs j = [a.dev, b.dev])
    (hr : ∀ d ∈ [a.dev, b.dev], d = s.bidx ∨ s.unreachable k j d = false) (hme : s.bidx ∈ [a.dev, b.dev])
    (ha : (s.plane k).norms.find? (fun x => x.dev == a.dev) = some a) (hb : (s.plane k).norms.find? (fun x => x.dev == b.dev) = some b) :
    ((s.normCheck k id step).plane k).norms = [] ∧ (s.plane k).PairUp ((s.normCheck k id step).plane k)
      { job := id, step := step, norm := (fadd a.norm b.norm).1, flags := (({} : Flags).or a.flags).or b.flags } := by
  have hall : (s.plane k).norms.filter (fun n => n.job == id && n.step == step) = (s.plane k).norms :=
    List.filter_eq_self.2 fun x hx => by simp [hn x hx]
  have hnone : (s.plane k).norms.filter (fun n => !(n.job == id && n.step == step)) = [] :=
    List.filter_eq_nil_iff.2 fun x hx => by simp [hn x hx]
  have hdevs : (s.jobDevs j).filter (fun d => d == s.bidx || !s.unreachable k j d) = [a.dev, b.dev] := by
    rw [hdev]
    exact List.filter_eq_self.2 fun d hd => by simpa using hr d hd
  have here (c : NormPair) (hc : (s.plane k).norms.find? (fun x => x.dev == c.dev) = some c) :
      (s.plane k).norms.any (fun x => x.dev == c.dev) = true :=
    List.any_eq_true.2 ⟨c, List.mem_of_find?_eq_some hc, by simp⟩
  have hown : (s.plane k).norms.any (fun x => x.dev == s.bidx) = true := by
    obtain h | h : s.bidx = a.dev ∨ s.bidx = b.dev := by simpa using hme
    · rw [h]; exact here a ha
    · rw [h]; exact here b hb
  unfold State.normCheck
  simp only [hj, hall, hdevs, hown, List.all_cons, List.all_nil, here a ha, here b hb, Bool.and_self, if_true, List.filterMap_cons,
    List.filterMap_nil, ha, hb, List.foldl_cons, List.foldl_nil]
  rw [plane_updPlane_same]
  have hp := s.arith_plane k id uVec ((0 : W32) ||| (fadd a.norm b.norm).2)
  refine ⟨?_, Plane.pushUp_pairUp ?_ ?_ _⟩
  · rw [Plane.pushUp_norms, hp]
    exact hnone
  · rw [hp]
  · rw [hp]

/-- A peer's pair is kept by step, and the exchange looks whether it is the last (R188). -/
theorem State.normIn_keeps {s : State} {lane : DevLane} {f : Frame} {j : Job} {pj : PJob}
    (ho : s.openOn (planeOf lane) f.hdr.job = some (j, pj)) (he : jobEnded j pj = false)
    (hn : ∀ x ∈ (s.plane (planeOf lane)).norms, x.job = j.id → x.step = fieldAt f.payload 8 8 → x.dev ≠ s.farDev lane) :
    s.normIn lane f = (s.updPlane (planeOf lane) fun p => { p with
      norms := p.norms ++ [{ job := j.id, step := fieldAt f.payload 8 8, dev := s.farDev lane, norm := wordAt f.payload 16,
                             flags := Flags.ofBits (fieldAt f.payload 2 2) }] }).normCheck (planeOf lane) j.id (fieldAt f.payload 8 8) := by
  have hno : (s.plane (planeOf lane)).norms.any (fun x => x.job == j.id && x.step == fieldAt f.payload 8 8 && x.dev == s.farDev lane) = false := by
    simp only [List.any_eq_false, Bool.and_eq_true, beq_iff_eq]
    exact fun x hx h => hn x hx h.1.1 h.1.2 h.2
  unfold State.normIn
  simp only [ho, he, hno, Bool.or_self, Bool.false_eq_true, if_false]

/-- A peer's pair `n` joins this device's own: the two are added, the one of the lower board index first (R13, R188). -/
theorem State.normCheck_two {u : State} {k : PlaneIx} {j : Job} {own n : NormPair} (hj : u.findJob n.job = some j)
    (hown : (u.plane k).norms = [own]) (hoj : own.job = n.job) (hos : own.step = n.step) (hod : own.dev = u.bidx) (hne : n.dev ≠ u.bidx)
    (hr : u.unreachable k j n.dev = false) :
    let t := (u.updPlane k fun p => { p with norms := p.norms ++ [n] }).normCheck k n.job n.step
    (u.jobDevs j = [u.bidx, n.dev] → (t.plane k).norms = [] ∧ (u.plane k).PairUp (t.plane k)
      { job := n.job, step := n.step, norm := (fadd own.norm n.norm).1, flags := (({} : Flags).or own.flags).or n.flags }) ∧
    (u.jobDevs j = [n.dev, u.bidx] → (t.plane k).norms = [] ∧ (u.plane k).PairUp (t.plane k)
      { job := n.job, step := n.step, norm := (fadd n.norm own.norm).1, flags := (({} : Flags).or n.flags).or own.flags }) := by
  have hk : (u.updPlane k fun p => { p with norms := p.norms ++ [n] }).plane k = { u.plane k with norms := (u.plane k).norms ++ [n] } :=
    plane_updPlane_same ..
  have hvr : (u.updPlane k fun p => { p with norms := p.norms ++ [n] }).unreachable k j n.dev = false :=
    (State.unreachable_updPlane (f := fun p => { p with norms := p.norms ++ [n] }) (fun _ => rfl) (fun _ => rfl) k j n.dev).trans hr
  have hvj : (u.updPlane k fun p => { p with norms := p.norms ++ [n] }).findJob n.job = some j := hj
  have hvd : (u.updPlane k fun p => { p with norms := p.norms ++ [n] }).jobDevs j = u.jobDevs j := rfl
  have hvb : (u.updPlane k fun p => { p with norms := p.norms ++ [n] }).bidx = u.bidx := rfl
  generalize (u.updPlane k fun p => { p with norms := p.norms ++ [n] }) = v at hk hvr hvj hvd hvb ⊢
  have hnorms : (v.plane k).norms = [own, n] := by rw [hk, hown]; rfl
  have hup {t : Plane} {x : Pair} (h : (v.plane k).PairUp t x) : (u.plane k).PairUp t x := by rw [hk] at h; exact h
  have hown : own.dev = v.bidx := hod.trans hvb.symm
  have hall : ∀ x, x ∈ (v.plane k).norms → x.job = n.job ∧ x.step = n.step := by
    simp [hnorms, hoj, hos]
  have hfo : (v.plane k).norms.find? (fun x => x.dev == own.dev) = some own := by simp [hnorms]
  have hfn : (v.plane k).norms.find? (fun x => x.dev == n.dev) = some n := by
    have : (own.dev == n.dev) = false := by simpa [hod] using Ne.symm hne
    simp [hnorms, this]
  refine ⟨fun hdev => ?_, fun hdev => ?_⟩
  · obtain ⟨h0, h1⟩ := State.normCheck_adds (a := own) (b := n) hvj hall (by rw [hvd, hdev, hod])
      (by simp [hown, hvr]) (by simp [hown]) hfo hfn
    exact ⟨h0, hup h1⟩
  · obtain ⟨h0, h1⟩ := State.normCheck_adds (a := n) (b := own) hvj hall (by rw [hvd, hdev, hod])
      (by simp [hown, hvr]) (by simp [hown]) hfn hfo
    exact ⟨h0, hup h1⟩

/-- A norm frame that a receiver takes. -/
theorem normFrame_runs {lane : DevLane} {f : RxFrame} {fr : Frame} {s : State} (h : s.Receives lane f [opNorm] fr) :
    exec (.normFrame lane f) s = .next ((s.landed lane f fr).normIn lane fr) := by
  obtain ⟨x, hl, hx, -, hw, hin⟩ := State.frameIn_receives h
  have hop : x.frame.hdr.op = opNorm := by rw [hx]; simpa using h.2.2.2.1
  refine hin.trans ?_
  rw [State.handle_eq_handleBy _ hw, State.handleBy_norm _ hop, hl, hx]

/-! ### Description digests -/

/-- A description digest frame that a receiver takes. -/
theorem jdigFrame_runs {lane : DevLane} {f : RxFrame} {fr : Frame} {s : State} (h : s.Receives lane f [opJdig] fr) :
    exec (.jdigFrame lane f) s = .next ((s.landed lane f fr).jdigIn lane fr) := by
  obtain ⟨x, hl, hx, -, hw, hin⟩ := State.frameIn_receives h
  have hop : x.frame.hdr.op = opJdig := by rw [hx]; simpa using h.2.2.2.1
  refine hin.trans ?_
  rw [State.handle_eq_handleBy _ hw, State.handleBy_jdig _ hop, hl, hx]

/-- A peer's digest is recorded, and one that differs from this device's own fences the job (R150, R167). -/
theorem State.jdigIn_compares {s : State} {lane : DevLane} {f : Frame} {j : Job} {pj : PJob}
    (ho : s.openOn (planeOf lane) f.hdr.job = some (j, pj)) (hid : j.id = f.hdr.job) (ha : j.st.isActive = true)
    (hd : ∀ y ∈ j.jdigs, y.2 = j.descDigest) :
    let x := ((planeOf lane).val * 8 + s.farDev lane, slice f.payload 8 8)
    let t := s.updJob j.id fun j => { j with jdigs := x :: j.jdigs }
    t.findJob j.id = some { j with jdigs := x :: j.jdigs } ∧
    s.jdigIn lane f = if x.2 = j.descDigest then t else t.fenceJob j.id 6 := by
  intro x t
  have hj : t.findJob j.id = some { j with jdigs := x :: j.jdigs } := by
    have h := findJob_updJob s j.id (fun j => { j with jdigs := x :: j.jdigs }) fun _ => rfl
    rw [show s.findJob j.id = some j from hid ▸ s.openOn_findJob ho] at h
    exact h
  refine ⟨hj, ?_⟩
  have hold : j.jdigs.any (fun y => y.2 != j.descDigest) = false := by
    simp only [List.any_eq_false]
    exact fun y hy => by simp [hd y hy]
  have hcheck : t.jdigCheck j.id = if x.2 = j.descDigest then t else t.fenceJob j.id 6 := by
    unfold State.jdigCheck
    rw [hj]
    have hsame : ({ j with jdigs := x :: j.jdigs } : Job).descDigest = j.descDigest := rfl
    simp only [hsame, List.any_cons, hold, Bool.or_false]
    by_cases hx : x.2 = j.descDigest <;> simp [hx]
  rw [← hcheck]
  unfold State.jdigIn
  simp only [ho, ha, if_true]
  rfl

end Sys2Proof.Machine

section
open Sys2Proof Sys2Proof.Machine

/-- Settles O29: a peer's pair joins those held, in ascending board index once this device's own is there; a digest is compared as it comes. -/
theorem boardExchanges : Obligations.BoardExchanges := by
  refine ⟨?_, ?_⟩
  · intro lane f fr j pj s hr k u dev step n ho hid he
    have hfar : u.farDev lane = dev := s.landed_farDev ..
    have hme : u.bidx = s.bidx := s.landed_bidx ..
    have hj : u.findJob j.id = some j := hid ▸ u.openOn_findJob ho
    have hrun (hn : ∀ x ∈ (u.plane k).norms, x.job = j.id → x.step = step → x.dev ≠ dev) :
        exec (.normFrame lane f) s = .next ((u.updPlane k fun p => { p with norms := p.norms ++ [n] }).normCheck k j.id step) := by
      rw [normFrame_runs hr, State.normIn_keeps ho he (hfar ▸ hn), hfar]
    have hk : (u.updPlane k fun p => { p with norms := p.norms ++ [n] }).plane k = { u.plane k with norms := (u.plane k).norms ++ [n] } :=
      plane_updPlane_same ..
    refine ⟨fun hno hne => ?_, fun own hown hoj hos hod hne hreach => ?_⟩
    · have hw := State.normCheck_waits (s := u.updPlane k fun p => { p with norms := p.norms ++ [n] }) (k := k) (id := j.id) (step := step)
        (by
          intro x hx h1 h2
          rw [hk, List.mem_append, List.mem_singleton] at hx
          obtain hx | rfl := hx
          · exact absurd ⟨h1, h2⟩ (hno x hx)
          · exact fun h => hne (h.trans hme))
      refine ⟨_, hrun fun x hx h1 h2 => absurd ⟨h1, h2⟩ (hno x hx), ?_⟩
      rw [hw]
      exact ⟨rfl, congrArg Plane.norms hk, (congrArg Plane.scalarUp hk).trans rfl⟩
    · have hrun := hrun fun x hx _ _ => by
        rw [hown, List.mem_singleton] at hx
        rw [hx, hod]
        exact fun h => hne h.symm
      have hdevs : u.jobDevs j = s.jobDevs j := by unfold State.jobDevs; rw [hme]
      obtain ⟨hlow, hhigh⟩ := State.normCheck_two (n := n) hj hown hoj hos (hod.trans hme.symm) (hme ▸ hne) hreach
      rw [hme, hdevs] at hlow hhigh
      exact ⟨fun h => ⟨_, hrun, hlow h⟩, fun h => ⟨_, hrun, hhigh h⟩⟩
  · intro lane f fr j pj s hr k u x ho hid ha hd
    have hfar : u.farDev lane = s.farDev lane := s.landed_farDev ..
    obtain ⟨hj, hin⟩ := State.jdigIn_compares (f := fr) ho hid ha hd
    rw [hfar] at hj hin
    refine ⟨fun hx => ⟨_, (jdigFrame_runs hr).trans (congrArg _ hin), ?_⟩, fun hx => ⟨_, (jdigFrame_runs hr).trans (congrArg _ hin), ?_⟩⟩
    · rw [if_pos hx]
      exact ⟨rfl, hj⟩
    · rw [if_neg hx]
      exact State.fenceJob_fencedBy hj ha 6

end

/-! ## The drain (R17, R91, R101, R117, R160)

Once nothing holds the drain up it empties the step, and what it does afterwards (roots, reads, rebuilds, the next step's pair) keeps the job's
shares empty.  `State.Drains` says what all those operations keep of the job on its plane. -/

namespace Sys2Proof.Machine

theorem State.pjob_id {s : State} {k : PlaneIx} {id : Nat} {pj : PJob} (h : s.pjob k id = some pj) : pj.id = id := by
  simpa using List.find?_some h

theorem State.findJob_id {s : State} {id : Nat} {j : Job} (h : s.findJob id = some j) : j.id = id := by
  simpa using List.find?_some h

/-! ### What stays of a job whose step has been emptied -/

/-- Nothing of a step is left in the share's slots. -/
def Share.Emptied (h : Share) : Prop := h.bst = .closed ∧ h.slots = [] ∧ h.contribs = [] ∧ h.sums = [] ∧ h.poisoned = false

/-- A job's record of a plane after a part of the drain: the same record of its copies, and no share filled again. -/
structure PJob.Still (a b : PJob) : Prop where
  id : b.id = a.id
  orec : b.orec = a.orec
  subgen : b.subgen = a.subgen
  slotMax : b.slotMax = a.slotMax
  fs : b.fs = a.fs ∨ b.fs = .await
  shares : (∀ h ∈ a.shares, h.Emptied) → ∀ h ∈ b.shares, h.Emptied

theorem PJob.Still.refl (a : PJob) : a.Still a := ⟨rfl, rfl, rfl, rfl, .inl rfl, fun h => h⟩

theorem PJob.Still.trans {a b c : PJob} (h : a.Still b) (g : b.Still c) : a.Still c where
  id := g.id.trans h.id
  orec := g.orec.trans h.orec
  subgen := g.subgen.trans h.subgen
  slotMax := g.slotMax.trans h.slotMax
  fs := g.fs.elim (fun e => h.fs.imp e.trans e.trans) .inr
  shares := g.shares ∘ h.shares

theorem PJob.Still.mapShares (a : PJob) {f : Share → Share} (hf : ∀ h : Share, h.Emptied → (f h).Emptied) :
    a.Still { a with shares := a.shares.map f } where
  id := rfl
  orec := rfl
  subgen := rfl
  slotMax := rfl
  fs := .inl rfl
  shares ha := List.forall_mem_map.2 fun h hm => hf h (ha h hm)

/-- Plane `k` keeps the job, its copies' record and its emptied shares, and the held frames. -/
structure State.Drains (s t : State) (k : PlaneIx) (id : Nat) : Prop where
  pjob : ∀ a, s.pjob k id = some a → ∃ b, t.pjob k id = some b ∧ a.Still b
  held : (t.plane k).held = (s.plane k).held
  job : (s.findJob id).isSome → (t.findJob id).isSome

section
variable {s t u : State} {k : PlaneIx} {id : Nat}

theorem State.Drains.trans (h : s.Drains t k id) (g : t.Drains u k id) : s.Drains u k id where
  pjob a ha := by
    obtain ⟨b, hb, hab⟩ := h.pjob a ha
    obtain ⟨c, hc, hbc⟩ := g.pjob b hb
    exact ⟨c, hc, hab.trans hbc⟩
  held := g.held.trans h.held
  job := g.job ∘ h.job

theorem State.Calm.drains (h : s.Calm t) (k : PlaneIx) (id : Nat) : s.Drains t k id where
  pjob a ha := ⟨a, (h.toQuiet.pjob k id).trans ha, .refl a⟩
  held := h.toQuiet.held k
  job hs := by rw [h.findJob]; exact hs

theorem State.Drains.core (s : State) (k m : PlaneIx) (id : Nat) {f : Plane → Plane} (h : ∀ p, (f p).core = p.core) :
    s.Drains (s.updPlane m f) k id := (State.Calm.updPlane s m h).drains k id

theorem State.Drains.refl (s : State) (k : PlaneIx) (id : Nat) : s.Drains s k id := (State.Calm.refl s).drains k id

theorem State.Drains.each {α : Type} {f : State → α → State} (h : ∀ (s : State) a, s.Drains (f s a) k id) : ∀ (l : List α) (s : State),
    s.Drains (s.each l f) k id
  | [], s => .refl s k id
  | a :: l, s => (h s a).trans (State.Drains.each h l (f s a))

/-- Any job's record may be brought up to date so, this job's too. -/
theorem State.Drains.updPlane (s : State) (k m : PlaneIx) (id i : Nat) {f : Plane → Plane} {g : PJob → PJob}
    (hj : ∀ p, (f p).jobs = (p.updPJob i g).jobs) (hh : ∀ p, (f p).held = p.held) (hg : ∀ a : PJob, a.Still (g a)) :
    s.Drains (s.updPlane m f) k id where
  pjob a ha := by
    have hstill (x : PJob) : x.Still (if x.id == i then g x else x) := by
      split
      · exact hg x
      · exact .refl x
    by_cases hk : k = m
    · subst hk
      refine ⟨_, ?_, hstill a⟩
      have hp : ((fun x : PJob => x.id == id) ∘ fun x => if x.id == i then g x else x) = fun x => x.id == id :=
        funext fun x => congrArg (· == id) (hstill x).id
      unfold State.pjob Plane.findPJob at *
      rw [plane_updPlane_same, hj]
      unfold Plane.updPJob
      rw [List.find?_map, hp, ha, Option.map_some]
    · refine ⟨a, ?_, .refl a⟩
      unfold State.pjob
      rw [plane_updPlane_other _ _ _ _ hk]
      exact ha
  held := by
    rw [plane_updPlane]
    split
    · next hk => rw [hh, hk]
    · rfl
  job h := h

theorem State.Drains.updPJob (s : State) (k m : PlaneIx) (id i : Nat) {f : PJob → PJob} (hf : ∀ a : PJob, a.Still (f a)) :
    s.Drains (s.updPJob m i f) k id :=
  .updPlane s k m id i (fun _ => rfl) (fun _ => rfl) hf

theorem State.Drains.updShare (s : State) (k m : PlaneIx) (id i b : Nat) {f : Share → Share} (hf : ∀ h : Share, h.Emptied → (f h).Emptied) :
    s.Drains (s.updShare m i b f) k id :=
  .updPJob s k m id i fun a => .mapShares a fun h hh => by
    split
    · exact hf h hh
    · exact hh

theorem State.jobCtr_drains (s : State) (k m : PlaneIx) (id i : Nat) (c : JCtr) (n : Nat) : s.Drains (s.jobCtr m i c n) k id :=
  .updPJob s k m id i fun _ => ⟨rfl, rfl, rfl, rfl, .inl rfl, fun h => h⟩

theorem State.arith_drains (s : State) (k m : PlaneIx) (id i : Nat) (unit fl : W32) : s.Drains (s.arith m i unit fl) k id := by
  unfold State.arith
  exact .updPlane s k m id i (g := fun j => { j with histNow := { j.histNow with sflags := j.histNow.sflags ||| unitFlags unit fl } })
    (fun _ => rfl) (fun _ => rfl) fun _ => ⟨rfl, rfl, rfl, rfl, .inl rfl, fun h => h⟩

end

/-! ### The parts of the drain -/

theorem State.installShare_drains (s : State) (k : PlaneIx) (id b : Nat) : s.Drains (s.installShare k id b) k id := by
  unfold State.installShare
  split
  · exact .refl s k id
  · refine .trans (.trans ?_ (State.jobCtr_drains ..)) (State.jobCtr_drains ..)
    exact .updShare s k k id id b fun _ h => h

theorem State.installRecvShare_drains (s : State) (k : PlaneIx) (id b edge gen : Nat) : s.Drains (s.installRecvShare k id b edge gen) k id := by
  unfold State.installRecvShare
  split
  · exact .refl s k id
  · refine .trans ?_ (State.jobCtr_drains ..)
    exact .updShare s k k id id b fun _ h => h

theorem State.installRoots_drains (s : State) (k : PlaneIx) (j : Job) (pj : PJob) : s.Drains (s.installRoots k j pj) k j.id := by
  unfold State.installRoots
  dsimp only
  split
  · exact .refl s k j.id
  · split
    · exact .updPJob s k k j.id j.id fun a => .mapShares a fun _ h => h
    · refine .each (fun s h => ?_) _ s
      split
      · split
        · exact .refl s k j.id
        · exact s.installRecvShare_drains ..
      · refine (s.installShare_drains ..).trans (.each (fun s x => .each (fun s d => .each (fun s y => ?_) _ s) _ s) _ _)
        exact (s.sendArray_sends ..).calm.drains k j.id

theorem State.updJob_drains (s : State) (k : PlaneIx) (id : Nat) {f : Job → Job} (hf : ∀ j, (f j).id = j.id) : s.Drains (s.updJob id f) k id where
  pjob a ha := ⟨a, ha, .refl a⟩
  held := rfl
  job h := by rw [findJob_updJob s id f hf, Option.isSome_map]; exact h

theorem State.applyReform_drains (s : State) (k : PlaneIx) (j : Job) (pj : PJob) : s.Drains (s.applyReform k j pj) k j.id := by
  unfold State.applyReform
  split
  · exact .refl s k j.id
  · next rec' ms _ =>
    split
    · exact .refl s k j.id
    · extract_lets s1 s2
      have h1 : s.Drains s1 k j.id := .updPJob s k k j.id j.id fun _ => ⟨rfl, rfl, rfl, rfl, .inl rfl, fun h => h⟩
      have h2 : s1.Calm s2 := ⟨⟨fun _ => rfl, fun _ h => h⟩, rfl⟩
      split
      · exact (h1.trans (h2.drains k j.id)).trans (s2.updJob_drains k j.id fun _ => rfl)
      · exact h1

theorem State.prefetchFirst_drains (s : State) (k : PlaneIx) (id : Nat) : s.Drains (s.prefetchFirst k id) k id := by
  unfold State.prefetchFirst
  split
  · split
    · split
      · exact .refl s k id
      · unfold State.prefetchLayer
        dsimp only
        split
        · exact .refl s k id
        · split
          · exact .refl s k id
          · refine .trans ?_ (.each (fun s x => s.jobCtr_drains ..) _ _)
            exact .core s k k id fun _ => rfl
    · exact .refl s k id
  · exact .refl s k id

theorem State.normCheck_drains (s : State) (k : PlaneIx) (id i step : Nat) : s.Drains (s.normCheck k i step) k id := by
  unfold State.normCheck
  split
  · exact .refl s k id
  · dsimp only
    split
    · refine (s.arith_drains ..).trans ((State.Calm.updPlane _ k fun p => ?_).drains k id)
      unfold Plane.pushUp
      split <;> rfl
    · exact .refl s k id

theorem State.sendPair_drains (s : State) (k : PlaneIx) (j : Job) (pj : PJob) (norm : W32) (fl : Flags) :
    s.Drains (s.sendPair k j pj norm fl) k j.id := by
  unfold State.sendPair
  extract_lets step s1 s2 s3 s4
  have h1 : s.Drains s1 k j.id := .each (fun s _ => (s.toDevice_sends ..).calm.drains k j.id) _ s
  have h2 : s1.Drains s2 k j.id := .core s1 k k j.id fun _ => rfl
  have h3 : s2.Drains s3 k j.id := .updPJob s2 k k j.id j.id fun _ => ⟨rfl, rfl, rfl, rfl, .inr rfl, fun h => h⟩
  have h4 : s3.Drains s4 k j.id := by
    unfold s4
    split
    · exact s3.updJob_drains k j.id fun _ => rfl
    · exact .refl s3 k j.id
  exact (h1.trans (h2.trans (h3.trans h4))).trans (State.normCheck_drains ..)

theorem State.checkPair_drains (s : State) (k : PlaneIx) (id : Nat) : s.Drains (s.checkPair k id) k id := by
  unfold State.checkPair
  split
  · next j pj hj _ =>
    obtain rfl := State.findJob_id hj
    dsimp only
    split
    · exact .refl s k j.id
    · split
      · exact s.sendPair_drains ..
      · split
        · exact (s.arith_drains ..).trans (State.sendPair_drains ..)
        · exact .refl s k j.id
  · exact .refl s k id

theorem State.startReads_drains (s : State) (k : PlaneIx) (id : Nat) : s.Drains (s.startReads k id) k id := by
  unfold State.startReads
  split
  · exact .refl s k id
  · refine .each (fun s c => ?_) _ s
    unfold State.startRead
    split
    · extract_lets xs _ j' s1 done
      have h1 : s.Sends s1 := .each (fun s _ => s.toMember_sends ..) _ s
      refine (h1.calm.drains k id).trans ?_
      exact .core s1 k k id fun _ => rfl
    · exact .refl s k id

theorem State.startRebuilds_drains (s : State) (k : PlaneIx) (id : Nat) : s.Drains (s.startRebuilds k id) k id := by
  unfold State.startRebuilds
  split
  · refine .each (fun s h => ?_) _ s
    extract_lets due s1 s2
    have h1 : s.Drains s1 k id := .updShare s k k id id h.bucket fun _ h => h
    have h2 : s1.Drains s2 k id := by
      unfold s2
      split
      · exact .updShare s1 k k id id h.bucket fun _ h => h
      · exact .refl s1 k id
    exact (h1.trans h2).trans (.each (fun s _ => (s.sendCopy_sends ..).calm.drains k id) _ s2)
  · exact .refl s k id

/-! ### The end of a job on a plane -/

/-- The plane's record of a job whose resources R151 has released. -/
def PJob.released (a : PJob) : PJob :=
  { a with shares := a.shares.map Share.clearStep, stashCur := [], stashRet := [], retGen := none, syncs := [], syncPhys := [],
           refreshQ := [], pendOpt := [], pendPrec := [] }

theorem Plane.releaseJob_jobs (p : Plane) (id : Nat) : (p.releaseJob id).jobs = (p.updPJob id PJob.released).jobs := rfl

theorem State.releaseJob_pjob (s : State) (k : PlaneIx) (id : Nat) :
    (s.updPlane k fun p => p.releaseJob id).pjob k id = (s.pjob k id).map PJob.released := by
  unfold State.pjob
  rw [plane_updPlane_same, ← findPJob_updPJob _ _ PJob.released fun _ => rfl]
  unfold Plane.findPJob
  rw [Plane.releaseJob_jobs]

/-- A plane that has released a job is marked with its state of the end, and the job settles. -/
theorem State.endsAs {s t u : State} {k : PlaneIx} {id : Nat} {pj : PJob} (hp : s.pjob k id = some pj) (hs : s.Calm t)
    (hu : (t.updPlane k fun p => p.releaseJob id).Calm u) {f : PJob → PJob} (hi : ∀ a, (f a).id = a.id) (ho : ∀ a, (f a).orec = a.orec) :
    ∃ a, ((u.updPJob k id f).settleJob id).pjob k id = some (f a) ∧ (f a).orec = pj.orec := by
  refine ⟨pj.released, ?_, ho _⟩
  rw [(State.settleJob_quiet ..).pjob, pjob_updPJob_same _ _ _ _ hi, hu.toQuiet.pjob, State.releaseJob_pjob, hs.toQuiet.pjob, hp,
    Option.map_some, Option.map_some]

theorem State.fencePlane_pjob {s : State} {k : PlaneIx} {id : Nat} {pj : PJob} (hj : (s.findJob id).isSome) (hp : s.pjob k id = some pj)
    (hf : pj.fs ≠ .fenced) (hr : pj.fs ≠ .reclaimed) :
    ∃ pj', (s.fencePlane k id).pjob k id = some pj' ∧ pj'.fs = .fenced ∧ pj'.orec = pj.orec := by
  obtain ⟨j, hj⟩ := Option.isSome_iff_exists.1 hj
  unfold State.fencePlane
  rw [hj, hp]
  simp -zeta only [hf, hr]
  extract_lets published s1 s2 s3 s4 s5 s6 s7
  have h12 : s1.Calm s2 := .updPlane s1 k fun _ => rfl
  have h4 : s.Calm s4 := (s.endReads_calm k id).trans (h12.trans ((s2.endWaits_calm ..).trans (.each (fun s _ => s.endApply_calm ..) _ s3)))
  have h6 : s5.Calm s6 := by
    unfold s6
    split
    · exact (State.multicastAll_sends ..).calm
    · exact .refl s5
  obtain ⟨a, ha, ho⟩ := State.endsAs hp h4 h6 (f := fun pj => { pj with
    fs := .fenced, fencePend := 0, waitWord := none,
    cutStep := pj.fs == .run || pj.fs == .await || pj.fs == .commit || pj.fs == .rescale || pj.fs == .discard }) (fun _ => rfl) fun _ => rfl
  exact ⟨_, ha, rfl, ho⟩

theorem State.reclaimPlane_pjob {s : State} {k : PlaneIx} {id : Nat} {pj : PJob} (hp : s.pjob k id = some pj) :
    ∃ pj', (s.reclaimPlane k id).pjob k id = some pj' ∧ pj'.fs = .reclaimed ∧ pj'.orec = pj.orec := by
  unfold State.reclaimPlane
  extract_lets s1 s2 cs s3 s4 s5 s6
  have h3 : s2.Calm s3 := .updPlane s2 k fun _ => rfl
  have h4 : s.Calm s4 := (s.endWaits_calm k id .fenced).trans ((State.Calm.each (fun s _ => s.endApply_calm ..) _ s1).trans
    (h3.trans (.each (fun s _ => s.planeAnswer_calm ..) _ s3)))
  obtain ⟨a, ha, ho⟩ := State.endsAs hp h4 (.refl s5) (f := fun pj => { pj with fs := .reclaimed }) (fun _ => rfl) fun _ => rfl
  exact ⟨_, ha, rfl, ho⟩

/-! ### The next step -/

theorem State.setPJob_pjob {s : State} {k : PlaneIx} {id : Nat} {pj a : PJob} (hp : s.pjob k id = some pj) (ha : a.id = id) :
    (s.updPJob k id fun _ => a).pjob k id = some a := by
  unfold State.pjob State.updPJob Plane.findPJob Plane.updPJob at *
  rw [plane_updPlane_same, find?_map_same _ _ fun _ _ => by simpa using ha]
  rw [hp, Option.map_some]

/-- A step begins under the next subjunctive number; the job runs, or awaits the combined word where its pair is sent at once (R86, R12). -/
theorem State.beginStep_pjob {s : State} {k : PlaneIx} {id : Nat} {pj : PJob} (hj : (s.findJob id).isSome) (hp : s.pjob k id = some pj) :
    ∃ (t : State) (a : PJob), t.Drains (s.beginStep k id) k id ∧ (t.plane k).held = (s.plane k).held ∧ t.pjob k id = some a ∧
      a.fs = .run ∧ a.subgen = pj.orec.nextgen ∧ a.orec = pj.orec ∧ a.slotMax = pj.slotMax ∧ a.shares = pj.shares := by
  obtain ⟨j, hj⟩ := Option.isSome_iff_exists.1 hj
  generalize hb : s.beginStep k id = b
  unfold State.beginStep at hb
  simp -zeta only [hj, hp] at hb
  extract_lets o q p1 hdr n u p2 cs p3 s1 at hb
  subst hb
  refine ⟨s.updPJob k id fun _ => p3, p3, (State.arith_drains ..).trans (State.checkPair_drains ..), ?_, State.setPJob_pjob hp (State.pjob_id hp :), rfl, rfl, rfl, rfl, rfl⟩
  unfold State.updPJob
  rw [plane_updPlane_same]
  rfl

/-- The held frames are taken again: where none is of the job, its record stays. -/
theorem State.admitHeld_pjob {s : State} {k : PlaneIx} {id : Nat} (h : ∀ x ∈ (s.plane k).held, x.frame.hdr.job ≠ id) :
    (s.admitHeld k id).pjob k id = s.pjob k id := by
  unfold State.admitHeld
  extract_lets mine hs s1
  have hnil : hs = [] := List.filter_eq_nil_iff.2 fun x hx => by simp [mine, h x hx]
  rw [hnil, State.each_nil]
  unfold s1 State.pjob
  rw [plane_updPlane_same]
  rfl

/-- On plane `k` the job's record is `a`, with nothing of a step in its slots. -/
structure State.EmptyAt (s : State) (k : PlaneIx) (id : Nat) (a : PJob) : Prop where
  pjob : s.pjob k id = some a
  slotMax : a.slotMax = 0
  shares : ∀ h ∈ a.shares, h.Emptied
  job : (s.findJob id).isSome

theorem State.Drains.emptyAt {s t : State} {k : PlaneIx} {id : Nat} {a : PJob} (h : s.Drains t k id) (ha : s.EmptyAt k id a) :
    ∃ b, t.EmptyAt k id b ∧ a.Still b := by
  obtain ⟨b, hb, hs⟩ := h.pjob a ha.pjob
  exact ⟨b, ⟨hb, hs.slotMax.trans ha.slotMax, hs.shares ha.shares, h.job ha.job⟩, hs⟩

theorem Share.clearStep_emptied (h : Share) : h.clearStep.Emptied := ⟨rfl, rfl, rfl, rfl, rfl⟩

/-- The plane's record of a job whose step's slots are released (R17). -/
def PJob.emptied (a : PJob) : PJob :=
  { a with shares := a.shares.map Share.clearStep, ctrs := ctrSet a.ctrs .slotHwm a.slotMax, slotMax := 0 }

/-- Slots and contributions of the step are released (R17). -/
theorem State.emptyStep_emptyAt {s : State} {k : PlaneIx} {id : Nat} {pj : PJob} (hj : (s.findJob id).isSome) (hp : s.pjob k id = some pj) :
    ((s.emptyStep k id).plane k).held = (s.plane k).held ∧ (s.emptyStep k id).EmptyAt k id pj.emptied := by
  have hrun : ∃ t, s.Calm t ∧ s.emptyStep k id = t.updPJob k id PJob.emptied := by
    unfold State.emptyStep
    refine ⟨_, ?_, rfl⟩
    exact .updPlane s k fun _ => rfl
  obtain ⟨t, ht, he⟩ := hrun
  rw [he]
  refine ⟨?_, ?_, rfl, List.forall_mem_map.2 fun h _ => h.clearStep_emptied, ?_⟩
  · unfold State.updPJob
    rw [plane_updPlane_same]
    exact ht.toQuiet.held k
  · rw [pjob_updPJob_same t k id PJob.emptied fun _ => rfl, ht.toQuiet.pjob, hp, Option.map_some]
  · exact (ht.findJob id).symm ▸ hj

/-- A job whose step is empty begins the next one (R17, R86). -/
theorem State.nextStep_pjob {s : State} {k : PlaneIx} {id : Nat} {a : PJob} (ha : s.EmptyAt k id a)
    (hh : ∀ x ∈ (s.plane k).held, x.frame.hdr.job ≠ id) :
    ∃ b, (s.nextStep k id).pjob k id = some b ∧ (b.fs = .run ∨ b.fs = .await) ∧ b.subgen = a.orec.nextgen ∧ b.orec = a.orec ∧
      b.slotMax = 0 ∧ ∀ h ∈ b.shares, h.Emptied := by
  obtain ⟨t, c, hd, hheld, hc, hfs, hsub, ho, hm, hs⟩ := State.beginStep_pjob ha.job ha.pjob
  have hd := hd.trans ((State.startReads_drains _ k id).trans (State.startRebuilds_drains _ k id))
  obtain ⟨b, hb, hcb⟩ := hd.pjob c hc
  refine ⟨b, ?_, hfs ▸ hcb.fs, hcb.subgen.trans hsub, hcb.orec.trans ho, hcb.slotMax.trans (hm.trans ha.slotMax),
    hcb.shares (hs ▸ ha.shares)⟩
  unfold State.nextStep
  rw [(State.schedule_calm ..).toQuiet.pjob, State.admitHeld_pjob, hb]
  rw [hd.held, hheld]
  exact hh

/-! ### What the drain waits for -/

section
variable {s : State} {k : PlaneIx} {id : Nat} {j : Job} {pj : PJob}

theorem State.drainWaits_unsent {d : Desc} (hd : d ∈ (s.plane k).unsent) (hj : d.job = pj.id) (ho : d.frame.hdr.op ≠ opCkpt) :
    s.drainWaits k pj = some s := by
  unfold State.drainWaits
  rw [if_pos (List.any_eq_true.2 ⟨d, hd, by simp [hj, ho]⟩)]

theorem State.drainWaits_refresh (h : ∀ d ∈ (s.plane k).unsent, d.job ≠ pj.id) (hq : pj.refreshQ ≠ []) :
    s.drainWaits k pj = some (if pj.refLateSeen then s else
      (s.jobCtr k pj.id .refLate).updPJob k pj.id fun pj => { pj with refLateSeen := true }) := by
  have hany : ¬ (s.plane k).unsent.any (fun d => d.job == pj.id && d.frame.hdr.op != opCkpt) = true := by
    simp only [List.any_eq_true, not_exists, not_and]
    exact fun d hd => by simp [h d hd]
  unfold State.drainWaits
  rw [if_neg hany, if_pos (by simpa using hq)]

theorem State.drainWaits_none (h : ∀ d ∈ (s.plane k).unsent, d.job ≠ pj.id) (hq : pj.refreshQ = []) (ht : (s.plane k).tests = []) :
    s.drainWaits k pj = none := by
  have hany : ¬ (s.plane k).unsent.any (fun d => d.job == pj.id && d.frame.hdr.op != opCkpt) = true := by
    simp only [List.any_eq_true, not_exists, not_and]
    exact fun d hd => by simp [h d hd]
  unfold State.drainWaits
  rw [if_neg hany, if_neg (by simp [hq]), if_neg (by simp [ht])]

/-- While there is something to wait for, the drain does that alone. -/
theorem State.drainComplete_waits (hj : s.findJob id = some j) (hp : s.pjob k id = some pj) (hf : pj.fs = .drain) {t : State}
    (hw : s.drainWaits k pj = some t) : s.drainComplete k id = t := by
  unfold State.drainComplete
  simp -zeta only [hj, hp, hf, hw]
  rfl

/-- The wait for a refresh is counted once, in `REFLATE` (R117). -/
theorem State.refLate_pjob (hp : s.pjob k id = some pj) :
    ((s.jobCtr k id .refLate).updPJob k id fun pj => { pj with refLateSeen := true }).pjob k id =
      some { pj with ctrs := ctrAdd pj.ctrs .refLate 1, refLateSeen := true } := by
  rw [pjob_updPJob_same _ k id (fun pj => { pj with refLateSeen := true }) fun _ => rfl]
  unfold State.jobCtr
  rw [pjob_updPJob_same _ k id (fun j => { j with ctrs := ctrAdd j.ctrs .refLate 1 }) fun _ => rfl, hp, Option.map_some, Option.map_some]

end

/-- What ends a step on a plane once nothing holds the drain up (R17). -/
theorem State.drainComplete_ends {s : State} {k : PlaneIx} {id : Nat} {j : Job} {pj : PJob} (hj : s.findJob id = some j)
    (hp : s.pjob k id = some pj) (hf : pj.fs = .drain) (hw : s.drainWaits k pj = none) :
    ∃ (u : State) (a : PJob), u.EmptyAt k id a ∧ (a.fs = .drain ∨ a.fs = .await) ∧ a.orec = pj.orec ∧ (u.plane k).held = (s.plane k).held ∧
      s.drainComplete k id = if pj.fencePend != 0 then u.fencePlane k id else if pj.wordFlags.drain then u.reclaimPlane k id
        else (u.prefetchFirst k id).nextStep k id := by
  obtain rfl := State.findJob_id hj
  obtain ⟨hheld, ha⟩ := State.emptyStep_emptyAt (by rw [hj]; rfl) hp
  have hd : (s.emptyStep k j.id).Drains ((((s.emptyStep k j.id).installRoots k j pj).applyReform k j pj).updPJob k j.id fun x => { x with
      histLast := x.histLast.map fun h => if h.step == x.histNow.step then { h with sflags := x.histNow.sflags } else h }) k j.id := by
    refine (State.installRoots_drains _ k j pj).trans ((State.applyReform_drains _ k j pj).trans ?_)
    exact .updPJob _ k k j.id j.id fun _ => ⟨rfl, rfl, rfl, rfl, .inl rfl, fun h => h⟩
  obtain ⟨b, hb, hab⟩ := hd.emptyAt ha
  refine ⟨_, b, hb, hf ▸ hab.fs, hab.orec, hd.held.trans hheld, ?_⟩
  unfold State.drainComplete
  simp -zeta only [hj, hp, hf, hw]
  rfl

end Sys2Proof.Machine

section
open Sys2Proof Sys2Proof.Machine

/-- Settles O34: by what the drain waits for, and then by what ends the step: a fence pending, `DRAIN`, or neither. -/
theorem drainEndsTheStep : Obligations.DrainEndsTheStep := by
  intro k id j pj s hj hp hfs
  obtain rfl : pj.id = id := State.pjob_id hp
  have hrun {t : State} (h : s.drainComplete k pj.id = t) : exec (.drainComplete k pj.id) s = .next t := congrArg _ h
  refine ⟨fun d hd hdj hop => ?_, fun hun => ⟨fun hq hseen => ?_, fun hq hseen => ?_, fun hq htests => ?_⟩⟩
  · exact ⟨s, hrun (State.drainComplete_waits hj hp hfs (State.drainWaits_unsent hd hdj hop)), rfl⟩
  · have hw := State.drainWaits_refresh hun hq
    rw [hseen] at hw
    exact ⟨_, hrun (State.drainComplete_waits hj hp hfs hw), State.refLate_pjob hp⟩
  · have hw := State.drainWaits_refresh hun hq
    rw [hseen] at hw
    exact ⟨s, hrun (State.drainComplete_waits hj hp hfs hw), rfl⟩
  obtain ⟨u, a, ha, hafs, ho, hheld, hend⟩ := State.drainComplete_ends hj hp hfs (State.drainWaits_none hun hq htests)
  refine ⟨fun hf hd hh => ?_, fun hf hd => ?_, fun hf => ?_⟩
  · have hnext : s.drainComplete k pj.id = (u.prefetchFirst k pj.id).nextStep k pj.id := by simpa [hf, hd] using hend
    have hpre := u.prefetchFirst_drains k pj.id
    obtain ⟨b, hb, hab⟩ := hpre.emptyAt ha
    obtain ⟨c, hc, hcfs, hsub, hco, hcm, hcs⟩ := State.nextStep_pjob hb (by rw [hpre.held, hheld]; exact hh)
    have hbo : b.orec = pj.orec := hab.orec.trans ho
    exact ⟨_, hrun hnext, c, hc, hcfs, hsub.trans (congrArg OptRec.nextgen hbo), hco.trans hbo, hcm,
      fun _ h' hb' => hcs h' (List.mem_of_find?_eq_some hb')⟩
  · have hrec : s.drainComplete k pj.id = u.reclaimPlane k pj.id := by simpa [hf, hd] using hend
    obtain ⟨b, hb, hbfs, hbo⟩ := State.reclaimPlane_pjob ha.pjob
    exact ⟨_, hrun hrec, b, hb, hbfs, hbo.trans ho⟩
  · have hfence : s.drainComplete k pj.id = u.fencePlane k pj.id := by simpa [hf] using hend
    have hopen : a.fs ≠ .fenced ∧ a.fs ≠ .reclaimed := by obtain h | h := hafs <;> simp [h]
    obtain ⟨b, hb, hbfs, hbo⟩ := State.fencePlane_pjob ha.job ha.pjob hopen.1 hopen.2
    exact ⟨_, hrun hfence, b, hb, hbfs, hbo.trans ho⟩

end

/-! ## Sums with special terms (R38 to R40) -/

namespace Sys2Proof.Machine

/-! ### Words that are infinities, and what an addition with a special operand gives -/

theorem isNaN_iff {w : W32} : isNaN w = true ↔ (fx w).cls = .nan := by simp [isNaN]

theorem isInf_iff {w : W32} : isInf w = true ↔ (fx w).cls = .inf := by simp [isInf]

theorem isNaN_qNaN : isNaN qNaN = true := by decide +kernel

theorem isInf_infWord (n : Bool) : isInf (infWord n) = true := by cases n <;> decide +kernel

theorem isNaN_infWord (n : Bool) : isNaN (infWord n) = false := by cases n <;> decide +kernel

theorem neg_fx_infWord (n : Bool) : (fx (infWord n)).neg = n := by cases n <;> decide +kernel

theorem not_isInf_of_isFinite {w : W32} (h : isFinite w = true) : isInf w = false := by
  unfold isFinite at h
  unfold isInf
  split at h
  · next e => rw [e]; rfl
  · next e => rw [e]; rfl
  · cases h

/-- A code that decodes to an infinity has all exponent bits set, no fraction, and the sign of its top bit (R26). -/
theorem decodeCode_inf {eb fb c : Nat} {bias : Int} (h : (decodeCode eb fb bias false c).cls = .inf) :
    c / 2 ^ fb % 2 ^ eb = 2 ^ eb - 1 ∧ c % 2 ^ fb = 0 ∧ (decodeCode eb fb bias false c).neg = c.testBit (eb + fb) := by
  unfold decodeCode at h ⊢
  dsimp only at h ⊢
  split at h
  · next he =>
    rw [if_pos he]
    split at h
    · next hf =>
      rw [if_pos hf]
      exact ⟨by simpa using he, hf, rfl⟩
    · cases h
  · split at h
    · split at h <;> cases h
    · cases h

/-- Each sign has one infinity. -/
theorem eq_infWord_of_isInf {w : W32} (h : isInf w = true) : w = infWord (fx w).neg := by
  obtain ⟨he, hf, hn⟩ := decodeCode_inf (isInf_iff.1 h)
  have hw := w.isLt
  have hs : (fx w).neg = decide (w.toNat / 2 ^ 31 % 2 = 1) := hn.trans Nat.testBit_eq_decide_div_mod_eq
  rw [hs]
  unfold infWord
  split
  · next h1 => exact BitVec.eq_of_toNat_eq (by simp at h1 ⊢; omega)
  · next h0 => exact BitVec.eq_of_toNat_eq (by simp at h0 ⊢; omega)

theorem fadd_nan_left {a : W32} (b : W32) (h : isNaN a = true) : fadd a b = frNaN := by
  simp [fadd, addFx, isNaN_iff.1 h]

theorem fadd_nan_right (a : W32) {b : W32} (h : isNaN b = true) : fadd a b = frNaN := by
  unfold fadd addFx
  rw [isNaN_iff.1 h]
  cases (fx a).cls <;> rfl

/-- An infinity on the left of an addition stays, or gives way to the canonical NaN (R39). -/
theorem fadd_inf_left {a : W32} (b : W32) (h : isInf a = true) : (fadd a b).1 = qNaN ∨ (fadd a b).1 = infWord (fx a).neg := by
  unfold fadd addFx
  rw [isInf_iff.1 h]
  cases (fx b).cls with
  | nan => exact .inl rfl
  | inf => by_cases e : (fx a).neg = (fx b).neg <;> simp [e, frNaN]
  | zero => exact .inr rfl
  | fin => exact .inr rfl

/-- An infinity on the right of an addition is the result, or the canonical NaN is (R39). -/
theorem fadd_inf_right (a : W32) {b : W32} (h : isInf b = true) : (fadd a b).1 = qNaN ∨ (fadd a b).1 = infWord (fx b).neg := by
  unfold fadd addFx
  rw [isInf_iff.1 h]
  cases (fx a).cls with
  | nan => exact .inl rfl
  | inf => by_cases e : (fx a).neg = (fx b).neg <;> simp [e, frNaN]
  | zero => exact .inr rfl
  | fin => exact .inr rfl

/-! ### The running sum -/

/-- What one term brings about in a running sum, and every addition keeps, holds at the end wherever that term stands. -/
theorem foldl_faccum_of_mem {P : FR → Prop} {w : W32} (bring : ∀ r, P (faccum r w)) (keep : ∀ r x, P r → P (faccum r x)) :
    ∀ {ws : List W32}, w ∈ ws → ∀ r, P (ws.foldl faccum r)
  | x :: ws, hw, r => by
    obtain rfl | hw := List.mem_cons.1 hw
    · exact List.foldlRecOn ws faccum (bring r) fun r h x _ => keep r x h
    · exact foldl_faccum_of_mem bring keep hw (faccum r x)

theorem foldl_faccum_fst (ws : List W32) (r : FR) : (ws.foldl faccum r).1 = ws.foldl (fun s w => (fadd s w).1) r.1 :=
  (List.foldl_hom Prod.fst fun _ _ => rfl).symm

/-- The canonical NaN with `INVALID` set. -/
def FR.Invalid (r : FR) : Prop := r.1 = qNaN ∧ r.2.getLsbD 0 = true

theorem faccum_invalid {r : FR} {w : W32} (h : isNaN r.1 = true ∨ isNaN w = true) : (faccum r w).Invalid := by
  have hf : fadd r.1 w = frNaN := h.elim (fadd_nan_left w) (fadd_nan_right r.1)
  simp [FR.Invalid, faccum, hf, frNaN, fInvalid]

/-- A NaN term makes the running sum the canonical NaN with `INVALID` set. -/
theorem foldl_faccum_nan {w : W32} {ws : List W32} (hw : w ∈ ws) (hn : isNaN w = true) (r : FR) : (ws.foldl faccum r).Invalid :=
  foldl_faccum_of_mem (P := FR.Invalid) (fun _ => faccum_invalid (.inr hn))
    (fun _ _ h => faccum_invalid (.inl (by rw [h.1]; exact isNaN_qNaN))) hw r

/-- A term that is an infinity makes the running sum that infinity, or the canonical NaN. -/
theorem foldl_faccum_inf {n : Bool} {ws : List W32} (hw : infWord n ∈ ws) (r : FR) :
    (ws.foldl faccum r).1 = qNaN ∨ (ws.foldl faccum r).1 = infWord n := by
  refine foldl_faccum_of_mem (P := fun r => r.1 = qNaN ∨ r.1 = infWord n) (fun r => ?_) (fun r x h => ?_) hw r
  · have h := fadd_inf_right r.1 (isInf_infWord n)
    rwa [neg_fx_infWord] at h
  · obtain h | h := h
    · exact .inl (faccum_invalid (.inl (by rw [h]; exact isNaN_qNaN))).1
    · simpa [faccum, h, neg_fx_infWord] using fadd_inf_left x (isInf_infWord n)

/-! ### The rules of R40 on the terms -/

theorem specialSum_of_nan {terms : List W32} {w : W32} (hw : w ∈ terms) (hn : isNaN w = true) (r : FR) : specialSum terms r = r := by
  have : terms.any isNaN = true := List.any_eq_true.2 ⟨w, hw, hn⟩
  simp [specialSum, this]

theorem specialSum_of_not_isInf {terms : List W32} (h : ∀ w ∈ terms, isInf w = false) (r : FR) : specialSum terms r = r := by
  have : terms.find? isInf = none := List.find?_eq_none.2 fun w hw => by simp [h w hw]
  simp [specialSum, this]

theorem specialSum_of_two_infs {terms : List W32} {v w : W32} (hv : v ∈ terms) (hw : w ∈ terms) (iv : isInf v = true)
    (iw : isInf w = true) (ne : v ≠ w) (r : FR) : specialSum terms r = r := by
  have hall (x : W32) : (terms.all fun y => !isInf y || y == x) = false := by
    by_contra h
    simp only [Bool.not_eq_false, List.all_eq_true, Bool.or_eq_true, Bool.not_eq_true', beq_iff_eq] at h
    have ev := h v hv
    have ew := h w hw
    simp only [iv, iw, Bool.true_eq_false, false_or] at ev ew
    exact ne (ev.trans ew.symm)
  unfold specialSum
  split
  · split
    · rw [if_neg (by simp [hall])]
    · rfl
  · rfl

/-- Infinities of one sign give that infinity where the additions gave it or a NaN, and no term is a NaN. -/
theorem specialSum_of_one_inf {terms : List W32} {w : W32} (hw : w ∈ terms) (iw : isInf w = true)
    (hn : ∀ x ∈ terms, isNaN x = false) (h1 : ∀ x ∈ terms, isInf x = true → x = w) {r : FR} (hr : r.1 = qNaN ∨ r.1 = w) :
    (specialSum terms r).1 = w := by
  have hany : terms.any isNaN = false := by simpa using hn
  have hall : (terms.all fun x => !isInf x || x == w) = true := by
    simp only [List.all_eq_true, Bool.or_eq_true, Bool.not_eq_true', beq_iff_eq]
    exact fun x hx => (Bool.eq_false_or_eq_true (isInf x)).symm.imp_right (h1 x hx)
  have hfind : terms.find? isInf = some w := by
    obtain ⟨x, hx⟩ := Option.isSome_iff_exists.1 (List.find?_isSome.2 ⟨w, hw, iw⟩)
    rw [hx, h1 x (List.mem_of_find?_eq_some hx) (List.find?_some hx)]
  unfold specialSum
  obtain hr | hr := hr
  · simp [hr, isNaN_qNaN, hany, hfind, hall]
  · split
    · simp [hfind, hall]
    · exact hr

/-! ### Sums from +0, and dot products -/

theorem isNaN_zero : isNaN 0 = false := by decide +kernel

theorem isInf_zero : isInf 0 = false := by decide +kernel

/-- A NaN among the terms: the canonical NaN, with `INVALID` set. -/
theorem fsum_nan {ws : List W32} {w : W32} (hw : w ∈ ws) (hn : isNaN w = true) : (fsum ws).Invalid := by
  rw [fsum, sumFrom, specialSum_of_nan (List.mem_cons_of_mem _ hw) hn]
  exact foldl_faccum_nan hw hn _

/-- Infinities of both signs: the canonical NaN. -/
theorem fsum_two_infs {ws : List W32} (hp : infWord false ∈ ws) (hm : infWord true ∈ ws) : (fsum ws).1 = qNaN := by
  have hne : infWord false ≠ infWord true := by decide
  rw [fsum, sumFrom, specialSum_of_two_infs (List.mem_cons_of_mem _ hp) (List.mem_cons_of_mem _ hm) (isInf_infWord _) (isInf_infWord _) hne]
  obtain h | h := foldl_faccum_inf hp (0, 0)
  · exact h
  · exact (foldl_faccum_inf hm (0, 0)).resolve_right fun e => hne (h.symm.trans e)

/-- Infinities of one sign and no NaN: that infinity. -/
theorem fsum_one_inf {n : Bool} {ws : List W32} (hn : ∀ w ∈ ws, isNaN w = false) (hi : infWord n ∈ ws) (ho : infWord (!n) ∉ ws) :
    (fsum ws).1 = infWord n := by
  refine specialSum_of_one_inf (List.mem_cons_of_mem _ hi) (isInf_infWord n) (List.forall_mem_cons.2 ⟨isNaN_zero, hn⟩)
    (List.forall_mem_cons.2 ⟨fun h => absurd h (Bool.eq_false_iff.1 isInf_zero), fun x hx ix => ?_⟩) (foldl_faccum_inf hi _)
  have e := eq_infWord_of_isInf ix
  by_cases hs : (fx x).neg = n
  · rwa [hs] at e
  · exact absurd (by rwa [e, Bool.eq_not_of_ne hs] at hx) ho

/-- Finite terms: the sum rounded addition by addition. -/
theorem fsum_finite {ws : List W32} (h : ∀ w ∈ ws, isFinite w = true) : (fsum ws).1 = ws.foldl (fun s w => (fadd s w).1) 0 := by
  have hi : ∀ w ∈ 0 :: ws, isInf w = false :=
    List.forall_mem_cons.2 ⟨isInf_zero, fun w hw => not_isInf_of_isFinite (h w hw)⟩
  rw [fsum, sumFrom, specialSum_of_not_isInf hi, foldl_faccum_fst]

/-- A flag of a dot product is one of its sum or of one of its products. -/
theorem getLsbD_foldl_flags (i : Nat) : ∀ (ps : List FR) (f : W32),
    (ps.foldl (fun f p => f ||| p.2) f).getLsbD i = (f.getLsbD i || ps.any fun p => p.2.getLsbD i)
  | [], f => by simp
  | p :: ps, f => by simp [getLsbD_foldl_flags i ps, Bool.or_assoc]

end Sys2Proof.Machine

section
open Sys2Proof Sys2Proof.Machine

/-- Settles O59: by the first rule of R40 that applies to the terms; a dot product is the sum of its products. -/
theorem specialTermsDecideSums : Obligations.SpecialTermsDecideSums := by
  refine ⟨fun r c => ⟨rfl, fun ⟨p, hp, hn⟩ => ?_⟩, fun ws => ⟨fun ⟨w, hw, hn⟩ => (fsum_nan hw hn).1, fun _ => fsum_two_infs,
    fsum_one_inf (n := false), fsum_one_inf (n := true), fsum_finite⟩⟩
  obtain ⟨hq, hf⟩ := fsum_nan (List.mem_map_of_mem hp) hn
  refine ⟨hq, ?_, fun ⟨p, hp, h1⟩ => ?_⟩
  · rw [dot, getLsbD_foldl_flags, hf, Bool.true_or]
  · rw [dot, getLsbD_foldl_flags, List.any_eq_true.2 ⟨p, hp, h1⟩, Bool.or_true]

end

/-! ## A command that a plane takes, and its answer (R21, R291, R308) -/

namespace Sys2Proof.Machine

/-! ### The record that waits for one plane -/

/-- The record of command `o` waits in `s` for plane `k` alone, and no other record has its number. -/
def State.WaitsFor (s : State) (k : PlaneIx) (o : Held) : Prop :=
  ∃ c ∈ s.host.held, c.id = o.id ∧ c.pkt = o.pkt ∧ c.owes = [k.val] ∧ c.answers = [] ∧ c.extra = o.extra ∧
    ∀ y ∈ s.host.held, y.id = o.id → y = c

/-- Changing what records have left to hand out leaves the record waiting. -/
theorem State.WaitsFor.deliverLeft {s : State} {k : PlaneIx} {o : Held} (h : s.WaitsFor k o) (q : PlaneIx) (i : Nat) :
    (s.deliverLeft q i).WaitsFor k o := by
  obtain ⟨c, hc, hid, hpkt, howes, hans, hextra, huniq⟩ := h
  have hheld : (s.deliverLeft q i).host.held =
      s.host.held.map fun y => if y.id == i then { y with left := y.left.filter (· != q.val) } else y := rfl
  unfold State.WaitsFor
  rw [hheld]
  refine ⟨_, List.mem_map_of_mem hc, ?_, ?_, ?_, ?_, ?_, fun y hy hyo => ?_⟩
  -- every field but `left` is the record's own
  iterate 5 split <;> assumption
  obtain ⟨z, hz, rfl⟩ := List.mem_map.1 hy
  rw [huniq z hz (by split at hyo <;> exact hyo)]

/-! ### The plane's answer -/

theorem planePayload_single (k : PlaneIx) (st : Status) (sec : List Byte) : planePayload [(k.val, st, sec)] = statusBlock k st ++ sec := by
  obtain ⟨k, hk⟩ := k
  have hlook (i : Nat) : [(k, st, sec)].lookup i = if i = k then some (st, sec) else none := by
    by_cases h : i = k
    · simp [h]
    · simp [List.lookup, beq_false_of_ne h, h]
  unfold planePayload statusBlock
  simp only [hlook]
  congr 1
  · congr 1
    funext i
    by_cases h : i = k <;> simp [h]
  · interval_cases k <;> simp [List.range_succ]

theorem planeStatus_single (k : PlaneIx) (st : Status) (sec : List Byte) : planeStatus [(k.val, st, sec)] = st := by
  obtain ⟨k, hk⟩ := k
  have hst : ([st].find? (· != .ok)).getD .ok = st := by cases st <;> rfl
  have hone : ((List.range 8).filterMap fun i => ([(k, st, sec)].lookup i).map (·.1)) = [st] := by
    interval_cases k <;> rfl
  rw [planeStatus, hone, hst]

/-- An answer says the same of a record of the same number and packet. -/
theorem State.Answered.congr {t : State} {c o : Held} {st : Status} {pl : List Byte} (h : t.Answered c st pl) (hid : c.id = o.id)
    (hpkt : c.pkt = o.pkt) : t.Answered o st pl := by
  unfold State.Answered at h ⊢
  rwa [hid, hpkt] at h

/-- A plane's answer changes the host port block alone. -/
theorem State.planeAnswer_host (s : State) (id : Nat) (k : PlaneIx) (st : Status) (sec : List Byte) :
    s.planeAnswer id k st sec = { s with host := (s.planeAnswer id k st sec).host } := by
  unfold State.planeAnswer State.finishHeld
  split
  · rfl
  · split
    · dsimp only
      split
      · split <;> rfl
      · rfl
    · rfl

@[simp] theorem State.planeAnswer_plane (s : State) (id : Nat) (k q : PlaneIx) (st : Status) (sec : List Byte) :
    (s.planeAnswer id k st sec).plane q = s.plane q := by rw [State.planeAnswer_host]; rfl

@[simp] theorem State.planeAnswer_lane (s : State) (id : Nat) (k : PlaneIx) (d : DevLane) (st : Status) (sec : List Byte) :
    (s.planeAnswer id k st sec).lane d = s.lane d := by rw [State.planeAnswer_host]; rfl

@[simp] theorem State.planeAnswer_pjob (s : State) (id job : Nat) (k q : PlaneIx) (st : Status) (sec : List Byte) :
    (s.planeAnswer id k st sec).pjob q job = s.pjob q job := by rw [State.planeAnswer_host]; rfl

/-- The answer of the one plane that a command waits for completes the command. -/
theorem State.planeAnswer_finishes {s : State} {k : PlaneIx} {o : Held} (h : s.WaitsFor k o) (st : Status) (sec : List Byte) :
    ∃ (t : State) (c : Held), s.planeAnswer o.id k st sec = t.finishHeld c ∧ c ∈ t.host.held ∧ (∀ y ∈ t.host.held, y.id = c.id → y = c) ∧
      c.id = o.id ∧ c.pkt = o.pkt ∧ c.answers = [(k.val, st, sec)] ∧ c.extra = o.extra := by
  obtain ⟨c, hc, hid, hpkt, howes, hans, hextra, huniq⟩ := h
  have hfind : s.findHeld o.id = some c := by
    obtain ⟨x, hx⟩ := Option.isSome_iff_exists.1 (List.find?_isSome (p := fun y => y.id == o.id).2 ⟨c, hc, by simp [hid]⟩)
    rw [State.findHeld, hx, huniq x (List.mem_of_find?_eq_some hx) (by simpa using List.find?_some hx)]
  let c' : Held := { c with owes := c.owes.filter (· != k.val), answers := (k.val, st, sec) :: c.answers }
  have hheld : (s.updHeld o.id fun _ => c').host.held = s.host.held.map fun y => if y.id == o.id then c' else y := rfl
  refine ⟨s.updHeld o.id fun _ => c', c', ?_, ?_, fun y hy hyc => ?_, hid, hpkt, by simp [c', hans], hextra⟩
  · simp [State.planeAnswer, hfind, howes, c']
  · rw [hheld]
    exact List.mem_map.2 ⟨c, hc, by simp [hid]⟩
  · rw [hheld] at hy
    obtain ⟨z, -, rfl⟩ := List.mem_map.1 hy
    by_cases hz : z.id = o.id
    · simp [hz]
    · simp only [beq_iff_eq, hz, if_false] at hyc
      exact absurd (hyc.trans hid) hz

/-- A command of a plane scope is answered with the plane's block and section (R291). -/
theorem State.planeAnswer_planes {s : State} {k : PlaneIx} {o : Held} (h : s.WaitsFor k o)
    (hs : (opScope o.pkt.opcode.toNat o.pkt.params).any Scope.planes = true) (st : Status) (sec : List Byte) :
    (s.planeAnswer o.id k st sec).Answered o st (statusBlock k st ++ sec) := by
  obtain ⟨t, c, heq, hc, huniq, hid, hpkt, hans, -⟩ := State.planeAnswer_finishes h st sec
  rw [heq, State.finishHeld, hpkt, if_pos hs, hans, planeStatus_single, planePayload_single]
  exact (State.answer_answered hc huniq ..).congr hid hpkt

/-- A command of a plane scope whose plane returns no section is answered with the block alone (R291). -/
theorem State.planeAnswer_block {s : State} {k : PlaneIx} {o : Held} (h : s.WaitsFor k o)
    (hs : (opScope o.pkt.opcode.toNat o.pkt.params).any Scope.planes = true) (st : Status) :
    (s.planeAnswer o.id k st []).Answered o st (statusBlock k st) := by
  simpa using State.planeAnswer_planes h hs st []

/-- A command of job scope is answered with what was prepared for it, where its plane answers `OK` (R291); `JOB_QUERY` and `RESTORE_REPLAY`
return what their planes found (R298). -/
theorem State.planeAnswer_job {s : State} {k : PlaneIx} {o : Held} (h : s.WaitsFor k o)
    (hs : (opScope o.pkt.opcode.toNat o.pkt.params).any Scope.planes = false) (hq : o.pkt.opcode.toNat ≠ 0x0206)
    (hr : o.pkt.opcode.toNat ≠ 0x020C) (st : Status) (sec : List Byte) :
    (s.planeAnswer o.id k st sec).Answered o st (if st = .ok then o.extra else []) := by
  obtain ⟨t, c, heq, hc, huniq, hid, hpkt, hans, hextra⟩ := State.planeAnswer_finishes h st sec
  have hreply : jobReply o.pkt.opcode.toNat c.answers c.extra = (st, if st = .ok then o.extra else []) := by
    rw [jobReply, if_neg hq, if_neg hr, hans, planeStatus_single, hextra]
  rw [heq, State.finishHeld, hpkt, hs, if_neg Bool.false_ne_true, hreply]
  exact (State.answer_answered hc huniq ..).congr hid hpkt

/-! ### Taking the command -/

/-- `t` is `s` with the front command of plane `k` taken: `rest` stands in its Command in queue, nothing else of a plane differs, and the
command's record `o` waits for the plane. -/
structure State.Taken (s t : State) (k : PlaneIx) (rest : List PlaneCmd) (o : Held) : Prop where
  frame : t = { s with host := t.host, planes := t.planes }
  plane : t.plane k = { s.plane k with cmdIn := rest }
  other : ∀ q, q ≠ k → t.plane q = s.plane q
  waits : t.WaitsFor k o

section
variable {s t : State} {k : PlaneIx} {x : PlaneCmd} {rest : List PlaneCmd} {o : Held}

/-- The entry that falls free lets in what waits for it (R21). -/
theorem State.refillCmdIn_taken {xs : List PlaneCmd} (h : s.WaitsFor k o) :
    s.Taken ((s.updPlane k fun p => { p with cmdIn := xs }).refillCmdIn k) k (xs ++ s.cmdEntering k xs) o := by
  have hcmd : ((s.updPlane k fun p => { p with cmdIn := xs }).plane k).cmdIn = xs := by rw [plane_updPlane_same]
  rw [State.refillCmdIn, State.cmdEntering, hcmd, State.updPlane_host]
  by_cases hfull : 16 ≤ xs.length
  · rw [if_pos hfull, if_pos hfull]
    exact ⟨rfl, by simp, fun q hq => by simp [hq], h⟩
  rw [if_neg hfull, if_neg hfull]
  cases s.host.cmdWait.find? (·.1 == k.val) with
  | some y => exact ⟨rfl, by simp, fun q hq => by simp [hq], h⟩
  | none =>
    dsimp only
    cases s.host.held.find? fun c => c.left.contains k.val with
    | none => exact ⟨rfl, by simp, fun q hq => by simp [hq], h⟩
    | some c => exact ⟨rfl, by simp [State.deliverLeft], fun q hq => by simp [hq, State.deliverLeft], h.deliverLeft ..⟩

/-- Taking a command is the plane's part of it, on the state in which it has left the queue. -/
theorem planeCommandTake_runs (h : s.TakesNext k x rest o) {P : State → Prop} (hP : ∀ t, s.Taken t k rest o → P (t.takeCmd k x)) :
    Runs (.planeCommandTake k) s P := by
  obtain ⟨hps, ⟨xs, hcmd, rfl⟩, hmem, -, -, howes, hans, huniq⟩ := h
  refine ⟨_, ?_, hP _ (State.refillCmdIn_taken ⟨o, hmem, rfl, rfl, howes, hans, rfl, huniq⟩)⟩
  show execPlaneCommandTake k s = _
  simp [execPlaneCommandTake, State.planeTake, hps, hcmd]

/-- The command at the front is the one of the record. -/
theorem State.TakesNext.cmd_eq (h : s.TakesNext k x rest o) : x = { held := o.id, pkt := o.pkt } := by
  obtain ⟨-, -, -, hid, hpkt, -⟩ := h
  rw [hid, hpkt]

theorem State.Taken.lane (h : s.Taken t k rest o) (l : LaneIx) : t.lane (devLane k l) = s.lane (devLane k l) := by
  rw [State.lane_devLane, State.lane_devLane, h.plane]

theorem State.Taken.pjob (h : s.Taken t k rest o) (id : Nat) : t.pjob k id = s.pjob k id := by
  rw [State.pjob, State.pjob, h.plane]
  rfl

theorem State.Taken.part (h : s.Taken t k rest o) : t.part = s.part := by rw [h.frame]

end

/-! ### Lanes of a mask -/

theorem lanesOf_nodup (m : Nat) : (lanesOf m).Nodup := (List.nodup_finRange 16).filter _

theorem lane_updLane_other (s : State) (k : PlaneIx) {l m : LaneIx} (h : m ≠ l) (f : Lane → Lane) :
    (s.updLane (devLane k l) f).lane (devLane k m) = s.lane (devLane k m) := by
  have hv : l.val ≠ m.val := fun e => h (Fin.ext e.symm)
  simp [State.lane, State.updLane, Plane.updLane, hv]

/-- An update of each lane of a list changes those lanes alone. -/
theorem State.each_updLane_lane (k : PlaneIx) (f : Lane → Lane) (m : LaneIx) : ∀ {ls : List LaneIx}, ls.Nodup → ∀ s : State,
    (s.each ls fun s l => s.updLane (devLane k l) f).lane (devLane k m) =
      if m ∈ ls then f (s.lane (devLane k m)) else s.lane (devLane k m)
  | [], _, s => by simp
  | l :: ls, hn, s => by
    obtain ⟨hl, hls⟩ := List.nodup_cons.1 hn
    rw [State.each_cons, State.each_updLane_lane k f m hls]
    by_cases h : m = l
    · subst h
      simp [hl]
    · simp [h, lane_updLane_other s k h]

theorem State.each_updLane_sends (s : State) (k : PlaneIx) (f : Lane → Lane) (ls : List LaneIx) :
    s.Sends (s.each ls fun s l => s.updLane (devLane k l) f) := .each (fun s _ => .updLane s ..) _ s

end Sys2Proof.Machine

/-! ## Status and traffic commands on a plane (R43, R205, R207, R209, R303) -/

namespace Sys2Proof.Machine

section
variable {s : State} {k : PlaneIx} {rest : List PlaneCmd} {o : Held}

/-- `ASTAT_READ` returns the flags, and clears them with `CLEAR` (R43). -/
theorem astatRead_taken (h : s.TakesNext k { held := o.id, pkt := o.pkt } rest o) (hop : o.pkt.opcode = 0x0104) :
    Runs (.planeCommandTake k) s fun t => (t.plane k).cmdIn = rest ∧
      t.Answered o .ok (statusBlock k .ok ++ leBytes 4 (s.plane k).astat.toNat) ∧
      (t.plane k).astat = if o.pkt.flags.getLsbD 8 then 0 else (s.plane k).astat := by
  refine planeCommandTake_runs h fun t ht => ?_
  have hcmd : t.takeCmd k { held := o.id, pkt := o.pkt } = t.takeAstatRead k { held := o.id, pkt := o.pkt } := by
    rw [State.takeCmd, hop]; rfl
  have hs : (opScope o.pkt.opcode.toNat o.pkt.params).any Scope.planes = true := by rw [hop]; rfl
  rw [hcmd, State.takeAstatRead, ht.plane]
  dsimp only
  split
  · exact ⟨by simp [ht.plane], State.planeAnswer_planes (s := t.updPlane k _) ht.waits hs .., by simp⟩
  · exact ⟨by simp [ht.plane], State.planeAnswer_planes ht.waits hs .., by simp [ht.plane]⟩

/-- `SHAPE_SET` leaves its settings with the named lanes until the refill (R205, R207). -/
theorem shapeSet_taken (h : s.TakesNext k { held := o.id, pkt := o.pkt } rest o) (hop : o.pkt.opcode = 0x0703) :
    Runs (.planeCommandTake k) s fun t => (t.plane k).cmdIn = rest ∧ t.Answered o .ok (statusBlock k .ok) ∧
      ∀ l, let set := some (pf o.pkt 4 4, pf o.pkt 8 4, pf o.pkt 12 1)
        let n := s.lane (devLane k l)
        t.lane (devLane k l) = { n with pendShape := if l ∈ lanesOf (pf o.pkt 0 2) then set else n.pendShape } := by
  refine planeCommandTake_runs h fun t ht => ?_
  have hcmd : t.takeCmd k { held := o.id, pkt := o.pkt } = t.takeShapeSet k { held := o.id, pkt := o.pkt } := by
    rw [State.takeCmd, hop]; rfl
  have hs : (opScope o.pkt.opcode.toNat o.pkt.params).any Scope.planes = true := by rw [hop]; rfl
  rw [hcmd, State.takeShapeSet]
  refine ⟨?_, State.planeAnswer_block ?_ hs .ok, fun l => ?_⟩
  · rw [State.planeAnswer_plane, (State.each_updLane_sends ..).plane, ht.plane]
  · rw [(State.each_updLane_sends ..).planes]
    exact ht.waits
  · rw [State.planeAnswer_lane, State.each_updLane_lane k _ l (lanesOf_nodup _), ht.lane]
    split <;> rfl

/-- `GATE_PHASE` leaves its phase until the running cycle ends (R209). -/
theorem gatePhase_taken (h : s.TakesNext k { held := o.id, pkt := o.pkt } rest o) (hop : o.pkt.opcode = 0x0705) :
    Runs (.planeCommandTake k) s fun t => t.Answered o .ok (statusBlock k .ok) ∧
      t.plane k = { s.plane k with cmdIn := rest, pendPhase := some (pf o.pkt 0 4), gateEnd := (t.plane k).gateEnd } := by
  refine planeCommandTake_runs h fun t ht => ?_
  have hcmd : t.takeCmd k { held := o.id, pkt := o.pkt } = t.takeGatePhase k { held := o.id, pkt := o.pkt } := by
    rw [State.takeCmd, hop]; rfl
  have hs : (opScope o.pkt.opcode.toNat o.pkt.params).any Scope.planes = true := by rw [hop]; rfl
  rw [hcmd, State.takeGatePhase]
  exact ⟨State.planeAnswer_block (s := t.updPlane k _) ht.waits hs .ok, by simp [ht.plane]⟩

/-- `GATE_READ` returns the cycle, the phase in force and the windows (R209, R303). -/
theorem gateRead_taken (h : s.TakesNext k { held := o.id, pkt := o.pkt } rest o) (hop : o.pkt.opcode = 0x0706) :
    Runs (.planeCommandTake k) s fun t => t.plane k = { s.plane k with cmdIn := rest } ∧
      t.Answered o .ok (statusBlock k .ok ++ (leBytes 4 s.part.gcycle ++ leBytes 1 s.part.gnwin ++ zeros 3 ++
        leBytes 4 (s.plane k).gphase ++ zeros 4 ++
        (List.range s.part.gnwin).flatMap fun i => leBytes 4 (s.part.gstart.getD i 0) ++ leBytes 4 (s.part.glen.getD i 0))) := by
  refine planeCommandTake_runs h fun t ht => ?_
  have hcmd : t.takeCmd k { held := o.id, pkt := o.pkt } = t.takeGateRead k { held := o.id, pkt := o.pkt } := by
    rw [State.takeCmd, hop]; rfl
  have hs : (opScope o.pkt.opcode.toNat o.pkt.params).any Scope.planes = true := by rw [hop]; rfl
  rw [hcmd, State.takeGateRead, ht.part, ht.plane]
  exact ⟨by rw [State.planeAnswer_plane, ht.plane], State.planeAnswer_planes ht.waits hs ..⟩

/-- `RATE_SET` leaves its contract with the plane's record of the job until the refill (R207). -/
theorem rateSet_taken (h : s.TakesNext k { held := o.id, pkt := o.pkt } rest o) (hop : o.pkt.opcode = 0x0701) {pj : PJob}
    (hp : s.pjob k o.pkt.job = some pj) : Runs (.planeCommandTake k) s fun t =>
      t.Answered o .ok o.extra ∧ t.pjob k o.pkt.job = some { pj with pendRate := some (parseRate o.pkt.params) } := by
  refine planeCommandTake_runs h fun t ht => ?_
  have hcmd : t.takeCmd k { held := o.id, pkt := o.pkt } = t.takeRateSet k { held := o.id, pkt := o.pkt } := by
    rw [State.takeCmd, hop]; rfl
  have hs : (opScope o.pkt.opcode.toNat o.pkt.params).any Scope.planes = false := by rw [hop]; rfl
  rw [hcmd, State.takeRateSet]
  refine ⟨State.planeAnswer_job (s := t.updPJob k _ _) ht.waits hs (by rw [hop]; decide) (by rw [hop]; decide) .ok [], ?_⟩
  rw [State.planeAnswer_pjob, pjob_updPJob_same, ht.pjob, hp]
  · rfl
  · exact fun _ => rfl

end

end Sys2Proof.Machine

section
open Sys2Proof Sys2Proof.Machine

/-- Settles O47: the command at the front is the one of the record that waits, and each opcode has its own effect on the plane. -/
theorem planesTakeTrafficCommands : Obligations.PlanesTakeTrafficCommands := by
  intro k x rest o s h
  obtain rfl := h.cmd_eq
  exact ⟨astatRead_taken h, shapeSet_taken h, gatePhase_taken h, gateRead_taken h, fun hop _ hp => rateSet_taken h hop hp⟩

end

/-! ## What is on its way out of a lane (R19, R128, R185)

The statements about sending ask what of a frame is still on its way out after everything else the row does.  `State.Carries` says once what every
operation that sends, counts or keeps accounts leaves alone; from it follows where a multicast's frames are. -/

namespace Sys2Proof.Machine

/-! ### The frames on their way, and the lanes of members -/

/-- What is on its way out of a lane, as its plane holds it. -/
def Plane.outgoing (p : Plane) (l : LaneIx) : List Desc :=
  p.lanes[l].egress ++ p.lanes[l].egWait ++ (p.qPublish.entries ++ p.qPublish.waiting ++ p.qPublish.taken).filterMap fun e =>
    e.leg.bind fun x => if x.1 = l.val then some x.2 else none

theorem State.outgoing_eq (s : State) (k : PlaneIx) (l : LaneIx) : s.outgoing k l = (s.plane k).outgoing l := by
  unfold State.outgoing Plane.outgoing
  rw [State.lane_devLane]

/-- Whatever is on its way out in `s` still is in `t`; the lanes that face members here face them and are `UP` in `t`, and the waiting gathers
wait. -/
structure State.Carries (s t : State) : Prop where
  out : ∀ k l, s.outgoing k l ⊆ t.outgoing k l
  up : ∀ k l, s.MemberUp k l → t.MemberUp k l
  bidx : t.bidx = s.bidx
  gathers : ∀ k, (t.plane k).gathers = (s.plane k).gathers

theorem State.Carries.refl (s : State) : s.Carries s := ⟨fun _ _ => List.Subset.refl _, fun _ _ h => h, rfl, fun _ => rfl⟩

theorem State.Carries.trans {s t u : State} (h : s.Carries t) (g : t.Carries u) : s.Carries u where
  out k l := List.Subset.trans (h.out k l) (g.out k l)
  up k l e := g.up k l (h.up k l e)
  bidx := g.bidx.trans h.bidx
  gathers k := (g.gathers k).trans (h.gathers k)

theorem State.Carries.each {α : Type} {f : State → α → State} (h : ∀ (s : State) a, s.Carries (f s a)) : ∀ (l : List α) (s : State),
    s.Carries (s.each l f)
  | [], s => .refl s
  | a :: l, s => (h s a).trans (State.Carries.each h l (f s a))

/-- What one step of a sequence brings about and every step keeps holds at the end, wherever that step stands; `I` holds all along. -/
theorem State.each_of_mem {α : Type} {f : State → α → State} {I P : State → Prop} (inv : ∀ s b, I s → I (f s b))
    (keep : ∀ s b, P s → P (f s b)) {a : α} (bring : ∀ s, I s → P (f s a)) {as : List α} (ha : a ∈ as) {s : State} (hs : I s) :
    P (s.each as f) := by
  induction as generalizing s with
  | nil => cases ha
  | cons b as ih =>
    obtain rfl | ha := List.mem_cons.1 ha
    · exact List.foldlRecOn as f (bring s hs) fun s h b _ => keep s b h
    · exact ih ha (inv s b hs)

/-- What one step of a sequence puts on its way is there after all of them. -/
theorem State.Carries.each_mem {α : Type} {f : State → α → State} (h : ∀ (s : State) a, s.Carries (f s a)) {a : α} {k : PlaneIx} {l : LaneIx}
    {P : Desc → Prop} {as : List α} (ha : a ∈ as) {s : State} (hput : ∀ u, s.Carries u → ∃ y ∈ (f u a).outgoing k l, P y) :
    ∃ y ∈ (s.each as f).outgoing k l, P y :=
  State.each_of_mem (I := s.Carries) (P := fun u => ∃ y ∈ u.outgoing k l, P y) (fun u b hu => hu.trans (h u b))
    (fun u b ⟨y, hy, hp⟩ => ⟨y, (h u b).out k l hy, hp⟩) hput ha (.refl s)

theorem State.Carries.updPlane (s : State) (k : PlaneIx) {f : Plane → Plane} (ho : ∀ p l, p.outgoing l ⊆ (f p).outgoing l)
    (hs : ∀ (p : Plane) (l : LaneIx), (f p).lanes[l].st = p.lanes[l].st) (hg : ∀ p, (f p).gathers = p.gathers) :
    s.Carries (s.updPlane k f) where
  out q l := by
    rw [State.outgoing_eq, State.outgoing_eq, plane_updPlane]
    split
    · next e => rw [e]; exact ho _ l
    · exact List.Subset.refl _
  up q l h := by
    unfold State.MemberUp at *
    refine ⟨?_, h.2⟩
    rw [State.lane_devLane, plane_updPlane]
    split
    · next e => rw [hs, ← e, ← State.lane_devLane]; exact h.1
    · rw [← State.lane_devLane]; exact h.1
  bidx := rfl
  gathers q := by
    rw [plane_updPlane]
    split
    · next e => rw [hg, e]
    · rfl

/-- An update that touches neither the lanes, nor the Publish queue, nor the gathers. -/
theorem State.Carries.beside (s : State) (k : PlaneIx) {f : Plane → Plane}
    (h : ∀ p, (f p).lanes = p.lanes ∧ (f p).qPublish = p.qPublish ∧ (f p).gathers = p.gathers) : s.Carries (s.updPlane k f) := by
  refine .updPlane s k (fun p l => ?_) (fun p l => ?_) fun p => (h p).2.2
  · unfold Plane.outgoing
    rw [(h p).1, (h p).2.1]
    exact List.Subset.refl _
  · rw [(h p).1]

theorem State.Carries.updPJob (s : State) (k : PlaneIx) (id : Nat) (f : PJob → PJob) : s.Carries (s.updPJob k id f) :=
  .beside s k fun _ => ⟨rfl, rfl, rfl⟩

theorem State.Carries.updShare (s : State) (k : PlaneIx) (id b : Nat) (f : Share → Share) : s.Carries (s.updShare k id b f) :=
  .updPJob s k id _

theorem State.jobCtr_carries (s : State) (k : PlaneIx) (id : Nat) (c : JCtr) (n : Nat) : s.Carries (s.jobCtr k id c n) := .updPJob s k id _

theorem State.arith_carries (s : State) (k : PlaneIx) (id : Nat) (unit fl : W32) : s.Carries (s.arith k id unit fl) := by
  unfold State.arith
  exact .beside s k fun _ => ⟨rfl, rfl, rfl⟩

/-! ### The replicator -/

theorem Plane.updLane_getElem (p : Plane) (l m : LaneIx) (f : Lane → Lane) :
    (p.updLane l f).lanes[m] = if l = m then f p.lanes[m] else p.lanes[m] := by
  unfold Plane.updLane
  simp only [Fin.getElem_fin, Vector.getElem_set, Fin.ext_iff]
  split
  · next h => simp [h]
  · rfl

theorem State.Carries.updLane (s : State) (d : DevLane) {f : Lane → Lane} (hs : ∀ n, (f n).st = n.st)
    (ho : ∀ n, n.egress ++ n.egWait ⊆ (f n).egress ++ (f n).egWait) : s.Carries (s.updLane d f) := by
  refine .updPlane s _ (fun p l => ?_) (fun p l => ?_) fun _ => rfl
  · unfold Plane.outgoing
    refine List.append_subset.2 ⟨List.Subset.trans ?_ (List.subset_append_left ..), List.subset_append_right ..⟩
    rw [Plane.updLane_getElem]
    split
    · exact ho _
    · exact List.Subset.refl _
  · rw [Plane.updLane_getElem]
    split
    · exact hs _
    · rfl

theorem Lane.push_st (n : Lane) (d : Desc) : (n.push d).st = n.st := by
  unfold Lane.push Lane.joinDrr
  split
  · split <;> rfl
  · rfl

/-- A descriptor that is pushed stands in the Egress queue or before it. -/
theorem Lane.mem_push (n : Lane) (d x : Desc) : x ∈ (n.push d).egress ++ (n.push d).egWait ↔ x ∈ n.egress ++ n.egWait ∨ x = d := by
  have hj : (n.joinDrr d).egWait = n.egWait := by unfold Lane.joinDrr; split <;> rfl
  unfold Lane.push
  split
  · simp only [hj, List.mem_append, List.mem_singleton]
    exact or_right_comm
  · simp only [List.mem_append, List.mem_singleton, or_assoc]

theorem StageQ.mem_push (q : StageQ) (n : Nat) (e x : QEntry) :
    x ∈ (q.push n e).entries ++ (q.push n e).waiting ++ (q.push n e).taken ↔ x ∈ q.entries ++ q.waiting ++ q.taken ∨ x = e := by
  unfold StageQ.push
  split <;> simp only [List.mem_append, List.mem_singleton]
  · rw [or_right_comm (b := x = e), or_right_comm (b := x = e)]
  · rw [← or_assoc, or_right_comm (b := x = e)]

theorem State.place_carries (s : State) (k : PlaneIx) (l : LaneIx) (d : Desc) : s.Carries (s.place k l d) := by
  have hctr (c : LCtr) : s.Carries (s.laneCtr (devLane k l) c) := .updLane s _ (fun _ => rfl) fun _ => List.Subset.refl _
  unfold State.place
  dsimp only
  split
  · exact hctr _
  · split
    · exact hctr _
    · exact .updLane s _ (fun n => n.push_st d) fun n x hx => (n.mem_push d x).2 (.inl hx)

theorem State.enqueue_carries (s : State) (k : PlaneIx) (l : LaneIx) (d : Desc) : s.Carries (s.enqueue k l d) := by
  unfold State.enqueue
  split
  · refine .updPlane s k (fun p m => ?_) (fun _ _ => rfl) fun _ => rfl
    unfold Plane.outgoing
    refine List.append_subset.2 ⟨List.subset_append_left .., fun x hx => List.mem_append_right _ ?_⟩
    obtain ⟨e, he, hl⟩ := List.mem_filterMap.1 hx
    exact List.mem_filterMap.2 ⟨e, (StageQ.mem_push ..).2 (.inl he), hl⟩
  · exact s.place_carries k l d

/-- What the replicator is given for an `UP` lane of a member here is on its way out of it: in its Egress queue, before it, or behind the
replicator's other work (R19). -/
theorem State.enqueue_outgoing {s : State} {k : PlaneIx} {l : LaneIx} (h : s.MemberUp k l) (d : Desc) : d ∈ (s.enqueue k l d).outgoing k l := by
  unfold State.enqueue
  split
  · rw [State.outgoing_eq, plane_updPlane_same]
    refine List.mem_append_right _ (List.mem_filterMap.2 ⟨_, (StageQ.mem_push ..).2 (.inr rfl), ?_⟩)
    simp
  · unfold State.place State.outgoing
    simp only [h.1, h.2, bne_self_eq_false, Bool.false_and, Bool.false_eq_true, if_false]
    rw [lane_updLane_same]
    exact List.mem_append_left _ ((Lane.mem_push ..).2 (.inr rfl))

theorem State.toDevice_carries (s : State) (k : PlaneIx) (j : Job) (dev : Nat) (f : Frame) (b : Nat) (m : Bool) (kp : Keep) :
    s.Carries (s.toDevice k j dev f b m kp) := by
  unfold State.toDevice
  split
  · exact .refl s
  · exact s.enqueue_carries ..

theorem State.toTree_carries (s : State) (k : PlaneIx) (j : Job) (pj : PJob) (dev : Nat) (f : Frame) : s.Carries (s.toTree k j pj dev f) := by
  unfold State.toTree
  dsimp only
  split
  · exact .refl s
  · exact s.toDevice_carries ..

theorem State.toTree_sends (s : State) (k : PlaneIx) (j : Job) (pj : PJob) (dev : Nat) (f : Frame) : s.Sends (s.toTree k j pj dev f) := by
  unfold State.toTree
  dsimp only
  split
  · exact .refl s
  · exact s.toDevice_sends ..

/-! ### Multicasts -/

theorem State.toLocal_carries (s : State) (k : PlaneIx) (j : Job) (pj : PJob) (ms : List Nat) (f : Frame) (kp : Keep) :
    s.Carries (s.toLocal k j pj ms f kp) :=
  .each (fun s _ => s.enqueue_carries ..) _ s

theorem State.multicast_carries (s : State) (k : PlaneIx) (j : Job) (pj : PJob) (ms : List Nat) (f : Frame) :
    s.Carries (s.multicast k j pj ms f) :=
  (s.toLocal_carries ..).trans (.each (fun s _ => s.toTree_carries ..) _ _)

theorem State.multicast_sends (s : State) (k : PlaneIx) (j : Job) (pj : PJob) (ms : List Nat) (f : Frame) :
    s.Sends (s.multicast k j pj ms f) :=
  (s.toLocal_sends ..).trans (.each (fun s _ => s.toTree_sends ..) _ _)

/-- A multicast's leg goes out on its lane in the delivery form of the member that stands first there (R128). -/
theorem State.toLocal_outgoing {s : State} {k : PlaneIx} {l : LaneIx} {j : Job} {ms : List Nat} {m : Nat}
    (hm : ((ms.filter fun m => j.memberDev m == s.bidx).find? fun m => j.memberLane k m == l) = some m) (hup : s.MemberUp k l)
    (pj : PJob) (f : Frame) (kp : Keep) : ∃ y ∈ (s.toLocal k j pj ms f kp).outgoing k l, y.frame = deliver j pj m f ∧ y.job = j.id := by
  have hleg : (l, m) ∈ allLanes.filterMap fun l =>
      ((ms.filter fun m => j.memberDev m == s.bidx).find? fun m => j.memberLane k m == l).map fun m => (l, m) :=
    List.mem_filterMap.2 ⟨l, List.mem_finRange l, by rw [hm]; rfl⟩
  obtain ⟨i, hi⟩ := List.getElem?_of_mem hleg
  unfold State.toLocal
  exact State.Carries.each_mem (fun s _ => s.enqueue_carries ..) (List.mem_zipIdx_iff_getElem? (x := (_, i)).2 hi) fun u hu =>
    ⟨_, State.enqueue_outgoing (hu.up k l hup) _, rfl, rfl⟩

theorem State.multicast_outgoing {s : State} {k : PlaneIx} {l : LaneIx} {j : Job} {ms : List Nat} {m : Nat}
    (hm : ((ms.filter fun m => j.memberDev m == s.bidx).find? fun m => j.memberLane k m == l) = some m) (hup : s.MemberUp k l)
    (pj : PJob) (f : Frame) : ∃ y ∈ (s.multicast k j pj ms f).outgoing k l, y.frame = deliver j pj m f := by
  obtain ⟨y, hy, hf, -⟩ := State.toLocal_outgoing hm hup pj f {}
  exact ⟨y, (State.Carries.each (fun s _ => s.toTree_carries ..) _ _).out k l hy, hf⟩

/-- The frames of one array, each multicast to the same members: every one of them goes out on a member's lane. -/
theorem State.multicasts_outgoing {s : State} {k : PlaneIx} {l : LaneIx} {j : Job} {ms : List Nat} {m : Nat} {x : Frame} {fs : List Frame}
    (hx : x ∈ fs) (hm : ((ms.filter fun m => j.memberDev m == s.bidx).find? fun m => j.memberLane k m == l) = some m) (hup : s.MemberUp k l)
    (pj : PJob) : ∃ y ∈ (s.each fs fun s f => s.multicast k j pj ms f).outgoing k l, y.frame = deliver j pj m x :=
  State.Carries.each_mem (fun s _ => s.multicast_carries ..) hx fun u hu => State.multicast_outgoing (by rw [hu.bidx]; exact hm) (hu.up k l hup) pj x

end Sys2Proof.Machine

/-! ## Frames from the other devices of a board (R55, R61, R164, R185) -/

namespace Sys2Proof.Machine

/-! ### What leaves every share as it is -/

/-- Every share of every job stays as it is. -/
structure State.SameShares (s t : State) : Prop where
  share : ∀ k id b, t.share k id b = s.share k id b

theorem State.SameShares.refl (s : State) : s.SameShares s := ⟨fun _ _ _ => rfl⟩

theorem State.SameShares.trans {s t u : State} (h : s.SameShares t) (g : t.SameShares u) : s.SameShares u :=
  ⟨fun k id b => (g.share k id b).trans (h.share k id b)⟩

theorem State.Quiet.sameShares {s t : State} (h : s.Quiet t) : s.SameShares t := ⟨h.share⟩

theorem State.Sends.sameShares {s t : State} (h : s.Sends t) : s.SameShares t := h.calm.toQuiet.sameShares

/-- A plane's jobs may be brought up to date in everything but their identifiers and shares. -/
theorem State.SameShares.updPlane (s : State) (k : PlaneIx) (id : Nat) {f : Plane → Plane} {g : PJob → PJob}
    (hj : ∀ p, (f p).jobs = (p.updPJob id g).jobs) (hi : ∀ a, (g a).id = a.id) (hs : ∀ a, (g a).shares = a.shares) :
    s.SameShares (s.updPlane k f) := by
  refine ⟨fun q i b => ?_⟩
  have hp : ((fun a : PJob => a.id == i) ∘ fun a => if a.id == id then g a else a) = fun a => a.id == i :=
    funext fun a => congrArg (· == i) (show (if a.id == id then g a else a).id = a.id by split <;> simp [hi])
  have hb (a : PJob) : (if a.id == id then g a else a).findShare b = a.findShare b := by
    unfold PJob.findShare
    split
    · rw [hs]
    · rfl
  unfold State.share State.pjob Plane.findPJob
  rw [plane_updPlane]
  split
  · next e =>
    subst e
    rw [hj]
    unfold Plane.updPJob
    rw [List.find?_map, hp, Option.bind_map]
    exact congrArg _ (funext hb)
  · rfl

theorem State.SameShares.updPJob (s : State) (k : PlaneIx) (id : Nat) {g : PJob → PJob} (hi : ∀ a, (g a).id = a.id)
    (hs : ∀ a, (g a).shares = a.shares) : s.SameShares (s.updPJob k id g) :=
  .updPlane s k id (fun _ => rfl) hi hs

theorem State.jobCtr_sameShares (s : State) (k : PlaneIx) (id : Nat) (c : JCtr) (n : Nat) : s.SameShares (s.jobCtr k id c n) :=
  .updPJob s k id (fun _ => rfl) fun _ => rfl

theorem State.arith_sameShares (s : State) (k : PlaneIx) (id : Nat) (unit fl : W32) : s.SameShares (s.arith k id unit fl) := by
  unfold State.arith
  exact .updPlane s k id (g := fun j => { j with histNow := { j.histNow with sflags := j.histNow.sflags ||| unitFlags unit fl } })
    (fun _ => rfl) (fun _ => rfl) fun _ => rfl

/-! ### The comma of a plane that keeps no copy (R61, R65) -/

theorem State.normCheck_sameShares (s : State) (k : PlaneIx) (id step : Nat) : s.SameShares (s.normCheck k id step) := by
  unfold State.normCheck
  split
  · exact .refl s
  · dsimp only
    split
    · refine (s.arith_sameShares ..).trans (State.Calm.updPlane _ k fun p => ?_).toQuiet.sameShares
      unfold Plane.pushUp
      split <;> rfl
    · exact .refl s

theorem State.sendPair_sameShares (s : State) (k : PlaneIx) (j : Job) (pj : PJob) (norm : W32) (fl : Flags) :
    s.SameShares (s.sendPair k j pj norm fl) := by
  unfold State.sendPair
  extract_lets step s1 s2 s3 s4
  have h1 : s.Sends s1 := .each (fun s _ => s.toDevice_sends ..) _ s
  have h2 : s1.Calm s2 := .updPlane s1 k fun _ => rfl
  have h3 : s2.SameShares s3 := .updPJob s2 k j.id (fun _ => rfl) fun _ => rfl
  have h4 : s3.SameShares s4 := by
    unfold s4
    split
    · exact (State.Quiet.updJob ..).sameShares
    · exact .refl s3
  exact h1.sameShares.trans (h2.toQuiet.sameShares.trans (h3.trans (h4.trans (State.normCheck_sameShares ..))))

theorem State.checkPair_sameShares (s : State) (k : PlaneIx) (id : Nat) : s.SameShares (s.checkPair k id) := by
  unfold State.checkPair
  split
  · dsimp only
    split
    · exact .refl s
    · split
      · exact s.sendPair_sameShares ..
      · split
        · exact (s.arith_sameShares ..).trans (State.sendPair_sameShares ..)
        · exact .refl s
  · exact .refl s

/-- A comma at which nothing waits for the apply point (R155, R308) leaves the shares as they are. -/
theorem State.atComma_sameShares {s : State} {k : PlaneIx} {id : Nat} (hq : ∀ c ∈ (s.plane k).applyQ, c.pkt.job ≠ id)
    (hf : ∀ x ∈ (s.plane k).fenceQ, x.1 ≠ id) : s.SameShares (s.atComma k id) := by
  have hcs : (s.plane k).applyQ.filter (·.pkt.job == id) = [] := List.filter_eq_nil_iff.2 fun c hc => by simpa using hq c hc
  unfold State.atComma
  rw [hcs]
  extract_lets cs s1 s2
  have h1 : s.Calm s1 := .updPlane s k fun _ => rfl
  have hxs : (s2.plane k).fenceQ.filter (·.1 == id) = [] := by
    refine List.filter_eq_nil_iff.2 fun x hx => ?_
    have : x ∈ (s.plane k).fenceQ := by
      have hk : s1.plane k = _ := plane_updPlane_same ..
      rw [show s2 = s1 from rfl, hk] at hx
      exact hx
    simpa using hf x this
  rw [hxs]
  exact h1.toQuiet.sameShares

/-! ### Frames by their handling -/

theorem State.handleBy_partial (s : State) {x : Parked} (h : x.frame.hdr.op = opPartial) :
    s.handleBy x = s.partialIn x.lane x.frame x.later x.work := by
  unfold State.handleBy
  rw [h]
  rfl

theorem State.handleBy_done (s : State) {x : Parked} (h : x.frame.hdr.op = opDone) : s.handleBy x = s.doneIn x.lane x.frame x.keep := by
  unfold State.handleBy
  rw [h]
  rfl

theorem State.handleBy_peer (s : State) {x : Parked} (h : x.frame.hdr.op ∈ [opParm, opRslt, opStatus])
    (hu : x.frame.hdr.op = opStatus → x.frame.hdr.uni = true) : s.handleBy x = s.peerIn x.lane x.frame x.keep x.work := by
  have ha : aboutCopy x.frame = false := by
    unfold aboutCopy
    by_cases e : x.frame.hdr.op = opStatus
    · simp [hu e]
    · simp [e]
  simp only [List.mem_cons, List.not_mem_nil, or_false] at h
  unfold State.handleBy
  rw [ha]
  obtain h | h | h := h <;> rw [h] <;> rfl

/-- A row that takes more types of frames takes this one too. -/
theorem State.Receives.mono {s : State} {lane : DevLane} {f : RxFrame} {ops ops' : List Nat} {fr : Frame} (h : s.Receives lane f ops fr)
    (hs : ops ⊆ ops') : s.Receives lane f ops' fr := by
  obtain ⟨hst, hps, hparse, hop, hrest⟩ := h
  exact ⟨hst, hps, hparse, hs hop, hrest⟩

/-- A partial that a receiver takes. -/
theorem partialFrame_runs {lane : DevLane} {f : RxFrame} {fr : Frame} {s : State} (h : s.Receives lane f [opPartial] fr) :
    exec (.partialFrame lane f) s = .next ((s.landed lane f fr).partialIn lane fr) := by
  obtain ⟨x, hl, hx, hlat, hw, hin⟩ := State.frameIn_receives h
  have hop : x.frame.hdr.op = opPartial := by rw [hx]; simpa using h.2.2.2.1
  refine hin.trans ?_
  rw [State.handle_eq_handleBy _ hw, State.handleBy_partial _ hop, hl, hx, hlat, hw]

/-- A completion frame that a receiver takes. -/
theorem doneFrame_runs {lane : DevLane} {f : RxFrame} {fr : Frame} {s : State} (h : s.Receives lane f [opDone] fr) :
    ∃ kp, exec (.doneFrame lane f) s = .next ((s.landed lane f fr).doneIn lane fr kp) := by
  obtain ⟨x, hl, hx, -, hw, hin⟩ := State.frameIn_receives h
  have hop : x.frame.hdr.op = opDone := by rw [hx]; simpa using h.2.2.2.1
  refine ⟨x.keep, hin.trans ?_⟩
  rw [State.handle_eq_handleBy _ hw, State.handleBy_done _ hop, hl, hx]

/-- Parameters and results, and a status frame that names a member, go on to the members (R185). -/
theorem peerFrame_runs {lane : DevLane} {f : RxFrame} {fr : Frame} {s : State} (h : s.Receives lane f [opParm, opRslt, opStatus] fr)
    (hf : fr.hdr.op ≠ opStatus → fr.hdr.fmt ≤ 1) (hu : fr.hdr.op = opStatus → fr.hdr.uni = true) :
    ∃ kp, exec (.peerFrameReplicate lane f) s = .next ((s.landed lane f fr).replicate lane fr kp) := by
  obtain ⟨x, hl, hx, -, hw, hin⟩ := State.frameIn_receives h
  refine ⟨x.keep, hin.trans ?_⟩
  rw [State.handle_eq_handleBy _ hw, State.handleBy_peer _ (by rw [hx]; exact h.2.2.2.1) (by rw [hx]; exact hu), hl, hx]
  unfold State.peerIn
  by_cases e : fr.hdr.op = opStatus
  · simp [e, hu e]
  · simp [e, Nat.not_lt.2 (hf e)]

/-! ### Relays to the members here (R164, R185) -/

theorem State.noteRelay_carries (s : State) (k : PlaneIx) (j : Job) (pj : PJob) (f : Frame) : s.Carries (s.noteRelay k j pj f) :=
  (s.jobCtr_carries ..).trans (.updPJob ..)

theorem State.noteRelay_sameShares (s : State) (k : PlaneIx) (j : Job) (pj : PJob) (f : Frame) : s.SameShares (s.noteRelay k j pj f) :=
  (s.jobCtr_sameShares ..).trans (.updPJob _ k j.id (fun _ => rfl) fun _ => rfl)

theorem State.holdResult_carries (s : State) (lane : DevLane) (f : Frame) (n m : Nat) (kp : Keep) : s.Carries (s.holdResult lane f n m kp) :=
  .beside s _ fun p => by dsimp only; split <;> exact ⟨rfl, rfl, rfl⟩

/-- A held frame is held on. -/
theorem State.holdResult_keeps {s : State} {k : PlaneIx} {x : HeldFrame} (hx : x ∈ (s.plane k).held) (lane : DevLane) (f : Frame) (n m : Nat)
    (kp : Keep) : x ∈ ((s.holdResult lane f n m kp).plane k).held := by
  unfold State.holdResult
  rw [plane_updPlane]
  split
  · next e =>
    subst e
    dsimp only
    split
    · exact hx
    · exact List.mem_append_left _ hx
  · exact hx

/-- A result that waits for a member's descriptor is held for it, by this copy or by one that came before (R164). -/
theorem State.holdResult_held (s : State) (lane : DevLane) (f : Frame) (n m : Nat) (kp : Keep) :
    ∃ x ∈ ((s.holdResult lane f n m kp).plane (planeOf lane)).held, x.from' = some m ∧
      x.frame = { f with hdr := { f.hdr with uni := true, memb := n } } := by
  unfold State.holdResult
  rw [plane_updPlane_same]
  dsimp only
  split
  · next h =>
    obtain ⟨x, hx, he⟩ := List.any_eq_true.1 h
    simp only [Bool.and_eq_true, beq_iff_eq] at he
    exact ⟨x, hx, he⟩
  · exact ⟨_, List.mem_append_right _ (List.mem_singleton_self _), rfl, rfl⟩

/-- The members here for whom a relayed result waits. -/
def State.resultWaiters (s : State) (j : Job) (pj : PJob) (f : Frame) : List Nat :=
  if f.hdr.op == opRslt then (s.localLive j pj).filter fun m => !PJob.canTake j pj f.hdr.bucket m else []

/-- A multicast from a peer lane: noted, held for the members that cannot take it yet, and passed on to the others. -/
theorem State.replicate_multicast {s : State} {lane : DevLane} {f : Frame} {j : Job} {pj : PJob}
    (ho : s.openOn (planeOf lane) f.hdr.job = some (j, pj)) (hu : f.hdr.uni = false) (kp : Keep) :
    ∃ kp', s.replicate lane f kp = ((s.noteRelay (planeOf lane) j pj f).each (s.resultWaiters j pj f).zipIdx fun s x =>
        s.holdResult lane f ((pj.groupNo x.1).getD 0) x.1 (if x.2 = 0 then kp else { kp with cells := 0 })).toLocal
      (planeOf lane) j pj (pj.liveMembers.filter fun m => !(s.resultWaiters j pj f).contains m) f kp' := by
  unfold State.replicate
  simp only [ho, hu, Bool.false_eq_true, if_false]
  exact ⟨_, rfl⟩

theorem State.mem_resultWaiters {s : State} {j : Job} {pj : PJob} {f : Frame} {m : Nat} :
    m ∈ s.resultWaiters j pj f ↔ f.hdr.op = opRslt ∧ m ∈ s.localLive j pj ∧ PJob.canTake j pj f.hdr.bucket m = false := by
  unfold State.resultWaiters
  by_cases h : f.hdr.op = opRslt <;> simp [h]

/-- The members here that a multicast goes out to. -/
theorem State.filter_resultWaiters (s : State) (j : Job) (pj : PJob) (f : Frame) :
    ((pj.liveMembers.filter fun m => !(s.resultWaiters j pj f).contains m).filter fun m => j.memberDev m == s.bidx) =
      pj.liveMembers.filter fun m => j.memberDev m == s.bidx && (f.hdr.op != opRslt || PJob.canTake j pj f.hdr.bucket m) := by
  rw [List.filter_filter]
  refine List.filter_congr fun m hm => ?_
  have hl : m ∈ s.localLive j pj ↔ j.memberDev m = s.bidx := by simp [State.localLive, hm]
  by_cases hd : j.memberDev m = s.bidx
  · rw [Bool.eq_iff_iff]
    simp [State.mem_resultWaiters, hl, hd]
  · rw [beq_false_of_ne hd, Bool.false_and, Bool.false_and]

section
variable {s : State} {lane : DevLane} {f : Frame} {j : Job} {pj : PJob} (ho : s.openOn (planeOf lane) f.hdr.job = some (j, pj))
include ho

/-- A multicast goes out on the lane of every live member here that can take it, in its delivery form (R185). -/
theorem State.replicate_outgoing (hu : f.hdr.uni = false) (kp : Keep) {l : LaneIx} {m : Nat}
    (hm : ((pj.liveMembers.filter fun m => j.memberDev m == s.bidx && (f.hdr.op != opRslt || PJob.canTake j pj f.hdr.bucket m)).find? fun m =>
      j.memberLane (planeOf lane) m == l) = some m) (hup : s.MemberUp (planeOf lane) l) :
    ∃ y ∈ (s.replicate lane f kp).outgoing (planeOf lane) l, y.frame = deliver j pj m f ∧ y.job = j.id := by
  obtain ⟨kp', hrep⟩ := State.replicate_multicast ho hu kp
  rw [hrep]
  have hc := (s.noteRelay_carries (planeOf lane) j pj f).trans (.each (fun s (x : Nat × Nat) =>
    s.holdResult_carries lane f ((pj.groupNo x.1).getD 0) x.1 (if x.2 = 0 then kp else { kp with cells := 0 })) (s.resultWaiters j pj f).zipIdx _)
  exact State.toLocal_outgoing (by rw [hc.bidx, State.filter_resultWaiters]; exact hm) (hc.up _ _ hup) pj f kp'

/-- A result waits for a live member here without a descriptor (R164). -/
theorem State.replicate_holds (hu : f.hdr.uni = false) (kp : Keep) {m : Nat} (hop : f.hdr.op = opRslt) (hm : m ∈ s.localLive j pj)
    (hc : PJob.canTake j pj f.hdr.bucket m = false) :
    ∃ x ∈ ((s.replicate lane f kp).plane (planeOf lane)).held, x.from' = some m ∧ x.frame.payload = f.payload ∧
      x.frame.hdr.op = f.hdr.op := by
  obtain ⟨kp', hrep⟩ := State.replicate_multicast ho hu kp
  obtain ⟨i, hi⟩ := List.getElem?_of_mem (State.mem_resultWaiters.2 ⟨hop, hm, hc⟩)
  rw [hrep, (State.toLocal_sends ..).calm.toQuiet.held]
  refine State.each_of_mem (I := fun _ => True)
    (P := fun u => ∃ x ∈ (u.plane (planeOf lane)).held, x.from' = some m ∧ x.frame.payload = f.payload ∧ x.frame.hdr.op = f.hdr.op)
    (fun _ _ _ => trivial) (fun u b ⟨x, hx, hp⟩ => ⟨x, State.holdResult_keeps hx .., hp⟩) (fun u _ => ?_)
    (List.mem_zipIdx_iff_getElem? (x := (_, i)).2 hi) trivial
  obtain ⟨x, hx, hfrom, hf⟩ := u.holdResult_held lane f ((pj.groupNo m).getD 0) m (if i = 0 then kp else { kp with cells := 0 })
  exact ⟨x, hx, hfrom, by rw [hf], by rw [hf]⟩

/-- A unicast goes out on the lane of the member that it names (R185). -/
theorem State.replicate_unicast (hu : f.hdr.uni = true) (kp : Keep) {m : Nat} (hg : pj.group[f.hdr.memb]? = some m)
    (hd : j.memberDev m = s.bidx) (hn : m ∉ pj.fenced) (hc : f.hdr.op = opRslt → PJob.canTake j pj f.hdr.bucket m = true)
    (hup : s.MemberUp (planeOf lane) (j.memberLane (planeOf lane) m)) :
    ∃ y ∈ (s.replicate lane f kp).outgoing (planeOf lane) (j.memberLane (planeOf lane) m), y.frame = deliver j pj m f ∧ y.job = j.id := by
  have hlive : (decide (j.memberDev m = s.bidx) && !pj.fenced.contains m) = true := by simp [hd, hn]
  have htake : ¬ (f.hdr.op == opRslt && !PJob.canTake j pj f.hdr.bucket m) = true := by simpa using hc
  unfold State.replicate
  simp only [ho, hu, hg, if_true, hlive, if_neg htake]
  exact ⟨_, State.enqueue_outgoing hup _, rfl, rfl⟩

/-- A multicast that is no result leaves the shares, and what waits for the apply point, as they were. -/
theorem State.replicate_sameShares (hu : f.hdr.uni = false) (hop : f.hdr.op ≠ opRslt) (kp : Keep) :
    s.SameShares (s.replicate lane f kp) ∧ ((s.replicate lane f kp).plane (planeOf lane)).applyQ = (s.plane (planeOf lane)).applyQ ∧
      ((s.replicate lane f kp).plane (planeOf lane)).fenceQ = (s.plane (planeOf lane)).fenceQ := by
  obtain ⟨kp', hrep⟩ := State.replicate_multicast ho hu kp
  have hw : s.resultWaiters j pj f = [] := List.eq_nil_iff_forall_not_mem.2 fun m hm => hop (State.mem_resultWaiters.1 hm).1
  rw [hw, List.zipIdx_nil, State.each_nil] at hrep
  rw [hrep]
  have hs := State.toLocal_sends (s.noteRelay (planeOf lane) j pj f) (planeOf lane) j pj
    (pj.liveMembers.filter fun m => !([] : List Nat).contains m) f kp'
  refine ⟨(s.noteRelay_sameShares ..).trans hs.sameShares, ?_, ?_⟩ <;> rw [hs.plane] <;>
    simp only [State.noteRelay, State.jobCtr, State.updPJob, plane_updPlane_same, Plane.updPJob]

end

/-! ### Device partials and `FINAL` completion frames (R55, R61) -/

section
variable {s : State} {lane : DevLane} {f : Frame} {j : Job} {pj : PJob} {h : Share}

theorem State.openOn_pjob {k : PlaneIx} {id : Nat} (ho : s.openOn k id = some (j, pj)) : s.pjob k id = some pj := by
  unfold State.openOn at ho
  split at ho
  · next hp =>
    split at ho
    · obtain ⟨-, rfl⟩ := Prod.mk.inj (Option.some.inj ho)
      exact hp
    · cases ho
  · cases ho

/-- A share of a job that is open on the plane. -/
theorem State.openOn_share {k : PlaneIx} {id b : Nat} (ho : s.openOn k id = some (j, pj)) (hh : pj.findShare b = some h) :
    s.share k j.id b = some h :=
  State.share_of_findShare ((State.findJob_id (s.openOn_findJob ho)).symm ▸ State.openOn_pjob ho) hh

/-- A partial of the step in progress that passes the checks goes to its share (R55). -/
theorem State.partialIn_admits {d : BucketDesc} (ho : s.openOn (planeOf lane) f.hdr.job = some (j, pj)) (he : jobEnded j pj = false)
    (hd : j.bucketDesc f.hdr.bucket = some d) (hh : pj.findShare f.hdr.bucket = some h) (hr : h.role ≠ .remote)
    (hdev : s.farDev lane ∈ j.ringDevs pj) (hok : j.partialOk (planeOf lane) d f = true) (hf : f.hdr.fmt = 0)
    (hst : stepOf pj f.hdr.comma = .current) : s.partialIn lane f = s.admitPartial lane f j pj d h := by
  have hrole : (h.role == .remote) = false := by simpa using hr
  unfold State.partialIn
  simp [ho, he, hd, hh, hrole, hdev, hok, hf, hst]

/-- The device partial that a frame carries (R55). -/
def State.partialOf (s : State) (lane : DevLane) (f : Frame) (d : BucketDesc) : PartialIn :=
  { dev := s.farDev lane, chunk := f.hdr.chunk, off := f.hdr.elemoff,
    vals := decodeVals 0 (min 2048 ((d.chunkRange f.hdr.chunk).2 - (f.hdr.elemoff - (d.chunkRange f.hdr.chunk).1))) f.payload,
    cells := cellsOf f, ovf := (s.room (planeOf lane) f).getD true }

/-- Until a share waits for the devices' partials alone, no board-wide sum is formed (R55). -/
theorem State.boardCheck_waits {k : PlaneIx} {id b : Nat} (hs : s.share k id b = some h) (hb : h.bst ≠ .awaiting) (flt : ItemFault) :
    s.boardCheck k id b flt = s := by
  unfold State.boardCheck
  split
  · next j pj d _ hp _ =>
    have hh : pj.findShare b = some h := by
      unfold State.share at hs
      rwa [hp] at hs
    have hne : (h.bst != .awaiting) = true := by simpa using hb
    simp only [hh, hne, Bool.true_or, if_true]
  · rfl

/-- A partial for an open bucket that does not yet wait for the devices alone is kept, and the board-wide sum is left for later. -/
theorem State.admitPartial_keeps {d : BucketDesc} (hs : s.share (planeOf lane) j.id d.bucket = some h) (hc : h.commaDone = false)
    (ho : h.isOpen = true) (hb : h.bst ≠ .awaiting) (hn : ∀ p ∈ h.partials, ¬ (p.dev = s.farDev lane ∧ p.off = f.hdr.elemoff)) :
    (s.admitPartial lane f j pj d h).share (planeOf lane) j.id d.bucket =
      some { h.touch (j.hdr.passes - 1) with partials := h.partials ++ [s.partialOf lane f d] } := by
  have hnew : h.partials.any (fun p => p.dev == s.farDev lane && p.off == f.hdr.elemoff) = false := by
    simp only [List.any_eq_false, Bool.and_eq_true, beq_iff_eq]
    exact hn
  have hk := share_updShare_some (f := fun h => { h.touch (j.hdr.passes - 1) with partials := h.partials ++ [s.partialOf lane f d] }) hs
    fun _ => rfl
  have hbst : ({ h.touch (j.hdr.passes - 1) with partials := h.partials ++ [s.partialOf lane f d] } : Share).bst ≠ .awaiting := hb
  generalize hu : s.updShare (planeOf lane) j.id d.bucket
    (fun h => { h.touch (j.hdr.passes - 1) with partials := h.partials ++ [s.partialOf lane f d] }) = u at hk
  have hw : (((u.pjob (planeOf lane) j.id).bind (·.findShare d.bucket)).map fun h =>
      h.bst == .awaiting && (j.ringDevs pj).all fun v => (h.partialMissing d (j.planeChunks (planeOf lane) d) v).isEmpty).getD false = false := by
    have hbeq : (({ h.touch (j.hdr.passes - 1) with partials := h.partials ++ [s.partialOf lane f d] } : Share).bst == .awaiting) = false := by
      simpa using hbst
    unfold State.share at hk
    rw [hk, Option.map_some, hbeq]
    rfl
  rw [← hk, ← State.boardCheck_waits hk hbst {}]
  unfold State.admitPartial
  unfold State.partialOf at hu
  simp only [hc, ho, hnew, hu, hw, if_true, Bool.false_eq_true, if_false, Bool.false_and]

/-- The step's end on a plane without a copy of the bucket (R61): what the slots held is released. -/
theorem State.doneIn_releases (ho : s.openOn (planeOf lane) f.hdr.job = some (j, pj)) (he : jobEnded j pj = false)
    (hop : f.hdr.op = opDone) (hfin : f.hdr.final = true) (hu : f.hdr.uni = false) (hh : pj.findShare f.hdr.bucket = some h)
    (hr : h.role = .remote) (hc : h.commaDone = false) (hst : stepOf pj f.hdr.comma = .current)
    (hq : ∀ c ∈ (s.plane (planeOf lane)).applyQ, c.pkt.job ≠ j.id) (hf : ∀ x ∈ (s.plane (planeOf lane)).fenceQ, x.1 ≠ j.id) (kp : Keep) :
    (s.doneIn lane f kp).share (planeOf lane) j.id f.hdr.bucket =
      some { h.release with commaDone := true, timers := [], sums := [], contribs := [] } := by
  obtain ⟨hrep, happly, hfence⟩ := State.replicate_sameShares ho hu (by rw [hop]; decide) kp
  have hs := share_updShare_some (f := fun h => { h.release with commaDone := true, timers := [], sums := [], contribs := [] })
    ((hrep.share ..).trans (State.openOn_share ho hh)) fun _ => rfl
  have hdo : (f.hdr.final && !f.hdr.uni && ((pj.findShare f.hdr.bucket).map fun h => h.role == .remote && !h.commaDone).getD false &&
      !jobEnded j pj && stepOf pj f.hdr.comma == .current) = true := by
    simp [hfin, hu, hh, hr, hc, he, hst]
  unfold State.doneIn
  simp only [ho, hdo, if_true]
  refine ((State.checkPair_sameShares ..).share ..).trans (((State.atComma_sameShares ?_ ?_).share ..).trans hs)
  · rw [State.updShare, State.updPJob, plane_updPlane_same]
    exact happly.symm ▸ hq
  · rw [State.updShare, State.updPJob, plane_updPlane_same]
    exact hfence.symm ▸ hf

end

end Sys2Proof.Machine

section
open Sys2Proof Sys2Proof.Machine

/-- Settles O22: each frame is handled in the state in which it landed, and a relay's legs stay on their way. -/
theorem peerFramesTakeEffect : Obligations.PeerFramesTakeEffect := by
  intro lane f fr j pj s k u ho hid he
  have hb : u.bidx = s.bidx := s.landed_bidx lane f fr
  have hrelay : [opParm, opRslt] ⊆ [opParm, opRslt, opStatus] := by simp
  refine ⟨fun d h hr hd hdb hh hrole hdev hok hf hst hc hop hbst hn => ?_, fun h hr hfin hu hh hrole hc hst hq hfq => ?_,
    fun hr hf hu => ?_, fun m hr hf hu hg hd hn hc hup => ?_⟩
  · have hfar : u.farDev lane = s.farDev lane := s.landed_farDev lane f fr lane
    have hrun := partialFrame_runs hr
    rw [State.partialIn_admits ho he hd hh hrole (hfar.symm ▸ hdev) hok hf hst] at hrun
    have hs := State.admitPartial_keeps (f := fr) (pj := pj) (hdb.symm ▸ State.openOn_share ho hh) hc hop hbst (by rw [hfar]; exact hn)
    rw [hdb] at hs
    exact ⟨_, hrun, _, _, hs, rfl, hfar, rfl, rfl, rfl⟩
  · obtain ⟨kp, hrun⟩ := doneFrame_runs hr
    have hop : fr.hdr.op = opDone := by simpa using hr.2.2.2.1
    exact ⟨_, hrun, _, State.doneIn_releases ho he hop hfin hu hh hrole hc hst hq hfq kp, rfl, rfl, rfl, rfl⟩
  · have hop := hr.2.2.2.1
    have hne : fr.hdr.op ≠ opStatus := by
      rintro e
      rw [e] at hop
      exact absurd hop (by decide)
    obtain ⟨kp, hrun⟩ := peerFrame_runs (hr.mono hrelay) (fun _ => hf) fun e => absurd e hne
    refine ⟨fun l m hm hup => ⟨_, hrun, State.replicate_outgoing ho hu kp (hb.symm ▸ hm) hup⟩, fun m hm hcan => ⟨_, hrun, ?_⟩⟩
    obtain ⟨hres, htake⟩ := not_or.1 hcan
    have hres := Decidable.not_not.1 hres
    obtain ⟨x, hx, hfrom, hpay, hxop⟩ := State.replicate_holds ho hu kp hres hm (by simpa using htake)
    exact ⟨x, hx, hfrom, hpay, hxop.trans hres⟩
  · obtain ⟨kp, hrun⟩ := peerFrame_runs hr hf fun _ => hu
    exact ⟨_, hrun, State.replicate_unicast ho hu kp hg (hd.trans hb.symm) hn hc hup⟩

end

/-! ## The running sums of a chunk set (R40, R53)

Two shares with the same sums may have come to them differently: finite terms of an earlier pass may have overflowed to an infinity, or an
infinite contribution may have stood among them.  The share remembers which (`specials`), and R40 makes the next pass depend on it. -/

namespace Sys2Proof.Machine

/-- What satisfies a test once in a list is found in it in whatever order the list stands. -/
theorem find?_perm {α : Type} {p : α → Bool} {l l' : List α} (h : l'.Perm l) (hu : ∀ x ∈ l, ∀ y ∈ l, p x = true → p y = true → x = y) :
    l'.find? p = l.find? p := by
  cases hf : l.find? p with
  | none => exact List.find?_eq_none.2 fun x hx => List.find?_eq_none.1 hf x (h.mem_iff.1 hx)
  | some x =>
    have hx := List.mem_of_find?_eq_some hf
    obtain ⟨y, hy⟩ := Option.isSome_iff_exists.1 (List.find?_isSome.2 ⟨x, h.mem_iff.2 hx, List.find?_some hf⟩)
    rw [hy, hu y (h.mem_iff.1 (List.mem_of_find?_eq_some hy)) x hx (List.find?_some hy) (List.find?_some hf)]

/-- Two contributions of one member to one chunk and pass. -/
def Contrib.Rivals (x y : Contrib) : Prop := x.chunk = y.chunk ∧ x.pass = y.pass ∧ x.member = y.member

theorem Share.contribOf_perm {h h' : Share} (hp : h'.contribs.Perm h.contribs) (hu : h.contribs.Pairwise fun x y => ¬ x.Rivals y)
    (c p m : Nat) : h'.contribOf c p m = h.contribOf c p m := by
  have hsymm : Std.Symm fun x y : Contrib => ¬ x.Rivals y := ⟨fun _ _ h ⟨hc, hq, hm⟩ => h ⟨hc.symm, hq.symm, hm.symm⟩⟩
  unfold Share.contribOf
  rw [find?_perm hp fun x hx y hy qx qy => ?_]
  simp only [Bool.and_eq_true, beq_iff_eq] at qx qy
  obtain ⟨⟨xc, xp⟩, xm⟩ := qx
  obtain ⟨⟨yc, yp⟩, ym⟩ := qy
  by_contra hne
  exact hu.forall hx hy hne ⟨xc.trans yc.symm, xp.trans yp.symm, xm.trans ym.symm⟩

/-- The order of arrival does not matter where the infinite and NaN contributions of the earlier passes are the same too (R53). -/
theorem addChunk_perm {h h' : Share} (hs : h'.sums = h.sums) (hx : h'.specials = h.specials) (hp : h'.contribs.Perm h.contribs)
    (hu : h.contribs.Pairwise fun x y => ¬ x.Rivals y) (ms : List Nat) (off n c p : Nat) :
    addChunk h' ms off n c p = addChunk h ms off n c p := by
  unfold addChunk
  simp only [hs, hx, Share.contribOf_perm hp hu]

/-- A share of one element whose running sum stands at minus infinity after its first pass, with an infinite contribution of member 0 present
for its second; `specials` are the contributions of the first pass that were infinite or NaN. -/
def secondPass (specials : List (Nat × W32)) : Share :=
  { bucket := 0, role := .home, elems := [0], sums := [(0, infWord true)], specials := specials,
    contribs := [{ pass := 1, chunk := 0, member := 0, vals := [infWord false] }] }

/-- Where finite terms had overflowed to minus infinity, the one infinite term decides (R40). -/
theorem addChunk_secondPass_overflowed : addChunk (secondPass []) [0] 0 1 0 1 = [(infWord false, 0)] := by decide +kernel

/-- Where a contribution of the first pass was minus infinity, infinities of both signs give the canonical NaN (R40). -/
theorem addChunk_secondPass_infinite : addChunk (secondPass [(0, infWord true)]) [0] 0 1 0 1 = [(qNaN, fInvalid)] := by decide +kernel

end Sys2Proof.Machine

section
open Sys2Proof Sys2Proof.Machine

/-- Refutes O20: its second clause lets the two shares differ in `specials`, the infinite and NaN contributions of earlier passes, on which R40
makes the sums depend.  With a sum of minus infinity and a contribution of plus infinity, a share whose sum overflowed comes to plus infinity
and one that had taken minus infinity comes to NaN.  With the same `specials` the clause holds (`addChunk_perm`). -/
theorem not_chunkSetsAreAddedInOrder : ¬ Obligations.ChunkSetsAreAddedInOrder := by
  intro ⟨_, hperm⟩
  have h := hperm (secondPass []) (secondPass [(0, infWord true)]) [0] 0 1 0 1 rfl (.refl _) (List.pairwise_singleton ..)
  rw [addChunk_secondPass_overflowed, addChunk_secondPass_infinite] at h
  exact absurd h (by decide)

end

/-! ## Bucket timers, gathers and early publication (R62, R99, R124 to R127) -/

namespace Sys2Proof.Machine

/-! ### Bucket timers (R62) -/

theorem State.setErrsum_reports (s : State) (b : List Nat) : (s.setErrsum b).host.reports = s.host.reports := by
  unfold State.setErrsum State.msixSend
  dsimp only
  split
  · split <;> rfl
  · rfl

/-- A report that is posted waits in the queue (R292). -/
theorem State.report_mem (s : State) (code st job : Nat) (pm : Byte) (pl : List Byte) :
    ∃ r ∈ (s.report code st job pm pl).host.reports, r.opcode = code ∧ r.job = job := by
  unfold State.report
  dsimp only
  split
  · exact ⟨_, List.mem_append_right _ (List.mem_singleton_self _), rfl, rfl⟩
  · rw [State.setErrsum_reports]
    exact ⟨_, List.mem_append_right _ (List.mem_singleton_self _), rfl, rfl⟩

/-- One more in a counter of a job on a plane. -/
theorem State.jobCtr_pjob {s : State} {k : PlaneIx} {id : Nat} {pj : PJob} (h : s.pjob k id = some pj) (c : JCtr) :
    (s.jobCtr k id c).pjob k id = some { pj with ctrs := ctrAdd pj.ctrs c 1 } := by
  unfold State.jobCtr
  rw [pjob_updPJob_same s k id (fun j => { j with ctrs := ctrAdd j.ctrs c 1 }) fun _ => rfl, h, Option.map_some]

/-- An expired timer of a pass, one expiry on; the fourth in a row is reported (R62). -/
def PassTimer.expired (x : PassTimer) : PassTimer := { x with expiries := x.expiries + 1, reported := x.reported || x.expiries == 3 }

/-- The share with a timer in the place of the one of its pass. -/
def Share.withTimer (h : Share) (x : PassTimer) (pass : Nat) : Share := { h with timers := x :: h.timers.filter (·.pass != pass) }

/-- The job's record after an expiry: counted, and its share with the timer one expiry on. -/
def PJob.timedOut (pj : PJob) (b : Nat) (x : PassTimer) (pass : Nat) : PJob :=
  { pj with ctrs := ctrAdd pj.ctrs .redTmo 1 }.updShare b fun h => h.withTimer x.expired pass

/-- A bucket timer that expires: the expiry is kept, timeouts are sent, and the fourth in a row is reported (R62). -/
theorem State.bucketTimer_expires {s : State} {k : PlaneIx} {id b pass : Nat} {j : Job} {pj : PJob} {d : BucketDesc} {h : Share} {x : PassTimer}
    (ho : s.openOn k id = some (j, pj)) (hd : j.bucketDesc b = some d) (he : jobEnded j pj = false) (hh : pj.findShare b = some h)
    (hop : h.isOpen = true) (ht : h.timers.find? (·.pass == pass) = some x) :
    (s.bucketTimer k id b pass).pjob k id = some (pj.timedOut b x pass) ∧
      (x.expiries = 3 → ∃ r ∈ (s.bucketTimer k id b pass).host.reports, r.opcode = 0xF001 ∧ r.job = id) := by
  have hdb : (s.findJob id).bind (·.bucketDesc b) = some d := by rw [s.openOn_findJob ho]; exact hd
  have hopen : (h.isOpen && !jobEnded j pj) = true := by simp [hop, he]
  generalize hs : s.bucketTimer k id b pass = t
  unfold State.bucketTimer at hs
  simp -zeta only [ho, hdb, hh, hopen, if_true, ht] at hs
  extract_lets cs ms ds s1 t' s2 s3 s4 at hs
  have h1 : s1.pjob k id = some { pj with ctrs := ctrAdd pj.ctrs .redTmo 1 } := State.jobCtr_pjob (State.openOn_pjob ho) .redTmo
  have h2 : s2.pjob k id = some (pj.timedOut b x pass) := by
    refine (pjob_updPJob_same s1 k id (fun j => j.updShare b fun h => h.withTimer x.expired pass) fun _ => rfl).trans ?_
    rw [h1]
    rfl
  have h4 : s2.Sends s4 := (State.Sends.each (fun s _ => s.toMember_sends ..) _ s2).trans (.each (fun s _ => s.toDevice_sends ..) _ s3)
  have hp4 := (h4.calm.toQuiet.pjob k id).trans h2
  subst hs
  split
  · exact ⟨((State.report_calm ..).toQuiet.pjob k id).trans hp4, fun _ => State.report_mem ..⟩
  · next hne => exact ⟨hp4, fun h3 => absurd h3 hne⟩

/-- The share after the expiry: in the state it was in, with the timer one expiry on. -/
theorem PJob.timedOut_share {pj : PJob} {b pass : Nat} {h : Share} {x : PassTimer} (hh : pj.findShare b = some h) (hx : x.pass = pass) :
    ∃ h' x', (pj.timedOut b x pass).findShare b = some h' ∧ h'.timers.find? (·.pass == pass) = some x' ∧ x'.expiries = x.expiries + 1 ∧
      h'.bst = h.bst := by
  refine ⟨h.withTimer x.expired pass, x.expired, ?_, ?_, rfl, rfl⟩
  · refine (PJob.findShare_updShare _ b (fun h => h.withTimer x.expired pass) fun _ => rfl).trans ?_
    rw [show PJob.findShare { pj with ctrs := ctrAdd pj.ctrs .redTmo 1 } b = some h from hh]
    rfl
  · exact List.find?_cons_of_pos (by simpa [PassTimer.expired] using hx)

/-! ### Gather requests (R124, R125, R127) -/

theorem State.handleBy_greq (s : State) {x : Parked} (h : x.frame.hdr.op = opGreq) : s.handleBy x = s.greq x.lane x.frame x.keep := by
  have ha : aboutCopy x.frame = false := by simp [aboutCopy, h, opGreq, opStatus]
  unfold State.handleBy
  rw [h, ha]
  rfl

/-- A gather request that a receiver takes. -/
theorem greqFrame_runs {lane : DevLane} {f : RxFrame} {fr : Frame} {s : State} (h : s.Receives lane f [opGreq] fr) :
    ∃ kp, exec (.greqFrame lane f) s = .next ((s.landed lane f fr).greq lane fr kp) := by
  obtain ⟨x, hl, hx, -, hw, hin⟩ := State.frameIn_receives h
  have hop : x.frame.hdr.op = opGreq := by rw [hx]; simpa using h.2.2.2.1
  refine ⟨x.keep, hin.trans ?_⟩
  rw [State.handle_eq_handleBy _ hw, State.handleBy_greq _ hop, hl, hx]

theorem State.landed_homeDev (s : State) (lane : DevLane) (f : RxFrame) (fr : Frame) (j : Job) (b : Nat) :
    (s.landed lane f fr).homeDev j b = s.homeDev j b := by
  rw [State.landed_planes]; rfl

section
variable {s : State} {lane : DevLane} {f : Frame} {j : Job} {pj : PJob} {m : Nat}

/-- A whole request whose buckets all have their home here goes to the plane's own shares (R125 rows 1 to 5). -/
theorem State.greq_home {q : Greq} (hq : parseGreq f.payload = q) (ha : s.admitSender lane f true = .ok (j, pj, m)) (hk : pj.opt.kernel ≠ 0)
    (hfs : pj.fs = .run) (hr : q.rsvdOk = true) (hn : q.notice = false) (hds : j.greqBuckets (planeOf lane) q ≠ [])
    (hhome : ∀ d ∈ j.greqBuckets (planeOf lane) q, s.homeDev j d.bucket = s.bidx) (kp : Keep) :
    ∃ relayed, s.greq lane f kp = s.greqHome lane f j pj m q kp.later relayed := by
  have hhere : (j.greqBuckets (planeOf lane) q).filter (fun d => s.homeDev j d.bucket == s.bidx) = j.greqBuckets (planeOf lane) q :=
    List.filter_eq_self.2 fun d hd => by simp [hhome d hd]
  have haway : ((j.greqBuckets (planeOf lane) q).map fun d => s.homeDev j d.bucket).filter (· != s.bidx) = [] :=
    List.filter_eq_nil_iff.2 (List.forall_mem_map.2 fun d hd => by simp [hhome d hd])
  unfold State.greq
  simp [hq, ha, hk, hfs, hr, hn, hds, hhere, haway]

/-- A request for the current generation of shares that are neither lost, halted nor expelled is served or waits for its window (R125 row 8). -/
theorem State.greqHome_asks {q : Greq} (hp : q.part = false) (hg : q.reg = false) (hfs : pj.fs = .run)
    (hsh : ∀ x ∈ j.layerShares pj q.layer none, x.2.lost = false ∧ x.2.halted = false ∧ s.bidx ∉ x.2.expelled)
    (hgen : q.gen = pj.orec.gen) (htop : q.gen ≤ pj.orec.nextgen) (hsub : q.gen ≠ pj.subgen) (later : StoredFault) (relayed : Bool) :
    s.greqHome lane f j pj m q later relayed = s.askGather lane f j { layer := q.layer, gen := q.gen, members := [m] } m := by
  have hlost : (j.layerShares pj q.layer none).any (·.2.lost) = false := by
    simp only [List.any_eq_false]
    exact fun x hx => by simp [(hsh x hx).1]
  have hhalt : (j.layerShares pj q.layer none).any (·.2.halted) = false := by
    simp only [List.any_eq_false]
    exact fun x hx => by simp [(hsh x hx).2.1]
  have hexp : (j.layerShares pj q.layer none).any (fun x => decide (s.bidx ∈ x.2.expelled)) = false := by
    simp only [List.any_eq_false]
    exact fun x hx => by simp [(hsh x hx).2.2]
  unfold State.greqHome
  simp [hp, hg, hfs, hlost, hhalt, hexp, ← hgen, Nat.not_lt.2 htop, hsub]

/-- A multicast's first request starts its window (R127). -/
theorem State.askGather_waits {q : Serve} (hn : ∀ g ∈ (s.plane (planeOf lane)).gathers, ¬ (g.job = j.id ∧ g.layer = q.layer ∧ g.gen = q.gen))
    (hp : q.part = none) (hg : q.regather = false) :
    s.askGather lane f j q m = (s.jobCtr (planeOf lane) j.id .gathers).updPlane (planeOf lane) fun p => { p with
      gathers := p.gathers ++ [{ job := j.id, layer := q.layer, gen := q.gen, members := [m], retained := q.retained, reqs := [(m, lane, f)] }]
      qGather := p.qGather.push 256 { job := j.id, bucket := q.layer, chunk := 0, member := m } } := by
  have hk : ((s.jobCtr (planeOf lane) j.id .gathers).plane (planeOf lane)).gathers = (s.plane (planeOf lane)).gathers :=
    (s.jobCtr_carries ..).gathers _
  have hfind : (s.plane (planeOf lane)).gathers.find? (fun g => g.job == j.id && g.layer == q.layer && g.gen == q.gen) = none := by
    refine List.find?_eq_none.2 fun g hm => ?_
    simpa [and_assoc] using hn g hm
  unfold State.askGather
  simp [hk, hfind, hp, hg]

end

/-! ### The end of a gather's window (R126, R127) -/

theorem State.stashStore_carries (s : State) (k : PlaneIx) (j : Job) (e : StashEnt) : s.Carries (s.stashStore k j e) := by
  unfold State.stashStore
  split
  · exact .refl s
  · split
    · exact .refl s
    · exact .trans (.updPJob s k j.id _) (State.jobCtr_carries ..)

theorem State.prefetchLayer_carries (s : State) (k : PlaneIx) (j : Job) (pj : PJob) (layer : Nat) :
    s.Carries (s.prefetchLayer k j pj layer) := by
  unfold State.prefetchLayer
  dsimp only
  split
  · exact .refl s
  · split
    · exact .refl s
    · refine .trans ?_ (.each (fun s id => s.jobCtr_carries ..) _ _)
      exact .beside s k fun _ => ⟨rfl, rfl, rfl⟩

/-- What a waiting multicast asks for when its window ends (R127). -/
def Gather.serve (g : Gather) : Serve := { layer := g.layer, gen := g.gen, members := g.members, retained := g.retained }

/-- One share of the layer that a gather serves: its frames go out to the members that asked, and it is stored in the stash (R126, R133); `fl`
are the flags of its conversion. -/
def State.serveShare (s : State) (k : PlaneIx) (id : Nat) (j : Job) (pj : PJob) (g : Gather) (fl : W32) (x : BucketDesc × Share) : State :=
  let bits := (shareBits pj x.1 x.2 g.gen g.retained).1
  ((s.arith k id uCvt fl).each (shareFrames j k x.1 { op := opParm, job := id, gen := g.gen } bits fun _ => true) fun s f =>
    s.multicast k j pj g.members f).stashStore k j
      { bucket := x.1.bucket, layer := g.layer, gen := g.gen, slots := (bits.length * x.1.outBytes + 65535) / 65536, bits := bits }

section
variable {s : State} {k : PlaneIx} {id : Nat} {j : Job} {pj : PJob} {g : Gather}

theorem State.serveShare_carries (s : State) (k : PlaneIx) (id : Nat) (j : Job) (pj : PJob) (g : Gather) (fl : W32) (x : BucketDesc × Share) :
    s.Carries (s.serveShare k id j pj g fl x) :=
  (s.arith_carries ..).trans (.trans (.each (fun s _ => s.multicast_carries ..) _ _) (State.stashStore_carries ..))

/-- A gather's service: accounts, the shares of the layer, and the prefetch of the next layer (R126, R132, R139). -/
theorem State.serveGather_serves (ho : s.openOn k id = some (j, pj)) : ∃ (u : State) (fl : BucketDesc × Share → W32), s.Carries u ∧
    (u.each (j.layerShares pj g.layer none) fun s x => s.serveShare k id j pj g (fl x) x).Carries (s.serveGather k id g.serve) := by
  generalize hs : s.serveGather k id g.serve = t
  unfold State.serveGather at hs
  simp -zeta only [ho] at hs
  extract_lets sh pref whole rest all inStash s1 s2 s3 at hs
  have h1 : s.Carries s1 := by
    unfold s1
    split
    · refine .trans (s.jobCtr_carries k id .prefHit 1) ?_
      exact .beside _ k fun _ => ⟨rfl, rfl, rfl⟩
    · exact .refl s
  have h2 : s1.Carries s2 := by
    unfold s2
    split
    · exact s1.jobCtr_carries ..
    · split
      · exact s1.jobCtr_carries ..
      · split
        · exact s1.jobCtr_carries ..
        · exact .refl s1
  refine ⟨s2, fun x => if inStash && !whole.contains x.1.bucket then 0 else (shareBits pj x.1 x.2 g.gen g.retained).2, h1.trans h2, ?_⟩
  suffices h : s3.Carries t from h
  subst hs
  split
  · exact .refl s3
  · split
    · exact s3.prefetchLayer_carries ..
    · exact .refl s3

theorem State.serveGather_carries (s : State) (k : PlaneIx) (id : Nat) (g : Gather) : s.Carries (s.serveGather k id g.serve) := by
  cases ho : s.openOn k id with
  | none =>
    unfold State.serveGather
    rw [ho]
    exact .refl s
  | some x =>
    obtain ⟨u, fl, hu, ht⟩ := State.serveGather_serves (g := g) ho
    exact hu.trans (.trans (.each (fun s x => s.serveShare_carries ..) _ u) ht)

/-- A served gather's frames go out on the lanes of the members here that asked (R126, R128). -/
theorem State.serveGather_outgoing (ho : s.openOn k id = some (j, pj)) {x : BucketDesc × Share} (hx : x ∈ j.layerShares pj g.layer none)
    {f : Frame} (hf : f ∈ shareFrames j k x.1 { op := opParm, job := id, gen := g.gen } (shareBits pj x.1 x.2 g.gen g.retained).1 fun _ => true)
    {l : LaneIx} {m : Nat} (hm : ((g.members.filter fun m => j.memberDev m == s.bidx).find? fun m => j.memberLane k m == l) = some m)
    (hup : s.MemberUp k l) : ∃ y ∈ (s.serveGather k id g.serve).outgoing k l, y.frame = deliver j pj m f := by
  obtain ⟨u, fl, hu, ht⟩ := State.serveGather_serves (g := g) ho
  have hout : ∃ y ∈ (u.each (j.layerShares pj g.layer none) fun s x => s.serveShare k id j pj g (fl x) x).outgoing k l,
      y.frame = deliver j pj m f := by
    refine State.Carries.each_mem (fun s x => s.serveShare_carries ..) hx fun v hv => ?_
    have hc := hu.trans (hv.trans (v.arith_carries k id uCvt (fl x)))
    obtain ⟨y, hy, hd⟩ := State.multicasts_outgoing hf (by rw [hc.bidx]; exact hm) (hc.up k l hup) pj
    exact ⟨y, (State.stashStore_carries ..).out k l hy, hd⟩
  obtain ⟨y, hy, hd⟩ := hout
  exact ⟨y, ht.out k l hy, hd⟩

end

theorem State.Calm.openOn {s t : State} (h : s.Calm t) (k : PlaneIx) (id : Nat) : t.openOn k id = s.openOn k id := by
  unfold State.openOn
  rw [h.findJob, h.toQuiet.pjob]

theorem Gather.of_find {gs : List Gather} {job layer : Nat} {g : Gather} (h : (gs.find? fun g => g.job == job && g.layer == layer) = some g) :
    g.job = job ∧ g.layer = layer := by
  simpa using List.find?_some h

/-- The first waiting multicast of the layer starts when its window ends and the replicator has a credit (R19, R127). -/
theorem gatherWindowExpiry_runs {k : PlaneIx} {job layer : Nat} {g : Gather} {s : State} (hq : (s.plane k).qPublish.stalled 64 = false)
    (hg : ((s.plane k).gathers.find? fun g => g.job == job && g.layer == layer) = some g) :
    exec (.gatherWindowExpiry k job layer) s = .next ((s.updPlane k fun p => p.gatherDone g).serveGather k job g.serve) := by
  show execGatherWindowExpiry k job layer s = _
  unfold execGatherWindowExpiry
  simp only [hq, hg, Bool.false_eq_true, if_false]
  rw [← (Gather.of_find hg).1]
  rfl

/-- Once it has left the Gather queue, a multicast starts on the lanes and for the job that were there. -/
theorem State.gatherDone_keeps (s : State) (k : PlaneIx) (g : Gather) {l : LaneIx} (hup : s.MemberUp k l) :
    s.Calm (s.updPlane k fun p => p.gatherDone g) ∧ (s.updPlane k fun p => p.gatherDone g).MemberUp k l := by
  refine ⟨.updPlane s k fun _ => rfl, ?_, hup.2⟩
  have hst := hup.1
  rw [State.lane_devLane] at hst ⊢
  rw [plane_updPlane_same]
  exact hst

/-! ### Early publication (R99) -/

theorem State.itemChecked_state (s : State) (k : PlaneIx) (block redund : Nat) :
    (s.itemChecked k block redund).2 = s ∨ (s.itemChecked k block redund).2 = s.updPlane k fun p => (p.sample block).2 := by
  unfold State.itemChecked
  dsimp only
  split
  · exact .inr rfl
  · exact .inl rfl

theorem Plane.sample_core (p : Plane) (block : Nat) : (p.sample block).2.core = p.core ∧ (p.sample block).2.lanes = p.lanes ∧
    (p.sample block).2.qPublish = p.qPublish ∧ (p.sample block).2.gathers = p.gathers := by
  unfold Plane.sample
  split <;> exact ⟨rfl, rfl, rfl, rfl⟩

theorem State.itemChecked_calm (s : State) (k : PlaneIx) (block redund : Nat) : s.Calm (s.itemChecked k block redund).2 := by
  obtain h | h := s.itemChecked_state k block redund
  · rw [h]; exact .refl s
  · rw [h]; exact .updPlane s k fun p => (p.sample_core block).1

theorem State.itemChecked_carries (s : State) (k : PlaneIx) (block redund : Nat) : s.Carries (s.itemChecked k block redund).2 := by
  obtain h | h := s.itemChecked_state k block redund
  · rw [h]; exact .refl s
  · rw [h]; exact .beside s k fun p => (p.sample_core block).2

section
variable {s : State} {k : PlaneIx} {id b : Nat} {j : Job} {pj : PJob} {h : Share} {d : BucketDesc}

/-- A share is published early where its job asks for it, its kernel has run on its home plane, nothing is known to be wrong with the step, and
the Publish queue has a credit (R19, R99). -/
structure PublishesEarly (p : Plane) (j : Job) (pj : PJob) (h : Share) : Prop where
  early : pj.opt.earlypub = true
  runs : jobEnded j pj = false
  home : h.role = .home
  ran : h.kernelRan = true
  fresh : h.published = false
  clean : h.poisoned = false
  noOverflow : pj.stepFlags.overflow = false
  noPoison : pj.stepFlags.poisoned = false
  state : pj.fs = .run ∨ pj.fs = .await
  credit : p.qPublish.stalled 64 = false

/-- The frames of an early publication (R99, R126). -/
def earlyFrames (j : Job) (pj : PJob) (k : PlaneIx) (id : Nat) (d : BucketDesc) (h : Share) : List Frame :=
  shareFrames j k d { op := opParm, job := id, tent := true, gen := pj.subgen } (publish d.outFmt pj.opt.stochrnd (h.sub.getD 0 []) h.subImg).1
    fun _ => true

/-- The frames of an early publication are multicast after the conversion's accounts, and the share is marked. -/
theorem State.earlyPublish_publishes (ho : s.openOn k id = some (j, pj)) (hh : pj.findShare b = some h) (hd : j.bucketDesc b = some d)
    (hp : PublishesEarly (s.plane k) j pj h) : ∃ u, s.Carries u ∧ s.SameShares u ∧
      s.earlyPublish k id b = (u.each (earlyFrames j pj k id d h) fun s f => s.multicast k j pj pj.liveMembers f).updShare k id b
        fun h => { h with published := true } := by
  have hfs : (pj.fs == .run || pj.fs == .await) = true := by simpa using hp.state
  have hrole : (h.role != .home) = false := by simpa using hp.home
  generalize ht : s.earlyPublish k id b = t
  unfold State.earlyPublish at ht
  simp -zeta only [ho, hh, hd, hp.early, hp.runs, hrole, hp.ran, hp.fresh, hp.clean, hp.noOverflow, hp.noPoison, hfs, hp.credit, Bool.not_true,
    Bool.or_false, Bool.false_eq_true, if_false] at ht
  extract_lets r s1 s2 at ht
  refine ⟨s1, ?_, ?_, ht.symm⟩
  · exact (State.Carries.each (fun s _ => s.itemChecked_carries ..) _ s).trans (State.arith_carries ..)
  · exact (State.Calm.each (fun s _ => s.itemChecked_calm ..) _ s).toQuiet.sameShares.trans (State.arith_sameShares ..)

theorem State.earlyPublish_idle (ho : s.openOn k id = some (j, pj)) (hh : pj.findShare b = some h) (hd : j.bucketDesc b = some d)
    (hn : pj.opt.earlypub = false ∨ h.published = true ∨ h.poisoned = true ∨ h.kernelRan = false ∨ pj.stepFlags.overflow = true ∨
      pj.stepFlags.poisoned = true) : s.earlyPublish k id b = s := by
  unfold State.earlyPublish
  simp only [ho, hh, hd]
  refine if_pos ?_
  obtain e | e | e | e | e | e := hn <;> simp [e]

end

end Sys2Proof.Machine

section
open Sys2Proof Sys2Proof.Machine

/-- Settles O23: the expiry and the request are kept before anything is sent, and the frames of a multicast stay on their way. -/
theorem timersGathersAndPublication : Obligations.TimersGathersAndPublication := by
  refine ⟨fun k id b pass j pj d h x s ho hd he hh hop ht => ?_, ⟨fun lane f fr j pj m s hr => ?_, fun k job layer g s hq hg => ?_⟩,
    fun k id b j pj h d s ho hh hd => ⟨fun hpub he hrole hran hfresh hclean hov hpo hfs hq => ?_, fun hn => ?_⟩⟩
  · obtain ⟨hp, hrep⟩ := State.bucketTimer_expires ho hd he hh hop ht
    obtain ⟨h', x', hh', ht', hx', hb⟩ := PJob.timedOut_share hh (by simpa using List.find?_some ht)
    exact ⟨_, rfl, _, h', x', hp, ctrGet_ctrAdd_same .., hh', ht', hx', hb, hrep⟩
  · intro k u q ha hpj hk hfs hrs hn hpart hreg hds hhome hsh hgen htop _ hsub hg
    obtain ⟨kp, hrun⟩ := greqFrame_runs hr
    have hb : u.bidx = s.bidx := s.landed_bidx lane f fr
    have hhome' : ∀ d ∈ j.greqBuckets k q, u.homeDev j d.bucket = u.bidx := fun d hd =>
      (s.landed_homeDev lane f fr j d.bucket).trans ((hhome d hd).trans hb.symm)
    obtain ⟨relayed, hhm⟩ := State.greq_home (f := fr) rfl ha hk hfs hrs hn hds hhome' kp
    rw [hhm, State.greqHome_asks hpart hreg hfs (hb.symm ▸ hsh) hgen htop hsub, State.askGather_waits hg rfl rfl] at hrun
    refine ⟨_, hrun, rfl, ?_, { pj with ctrs := ctrAdd pj.ctrs .gathers 1 }, ?_, ctrGet_ctrAdd_same ..⟩
    · rw [plane_updPlane_same]
      exact congrArg (· ++ _) ((u.jobCtr_carries ..).gathers k)
    · rw [← State.jobCtr_pjob hpj .gathers]
      refine State.Quiet.pjob (State.Calm.toQuiet ?_) k j.id
      exact .updPlane _ k fun _ => rfl
  · have hrun := gatherWindowExpiry_runs hq hg
    obtain ⟨-, rfl⟩ := Gather.of_find hg
    refine ⟨_, hrun, ?_, fun j pj d h l m x ho hx hf hm hup => ?_⟩
    · rw [(State.serveGather_carries ..).gathers, plane_updPlane_same]
      rfl
    · obtain ⟨hc, hup'⟩ := s.gatherDone_keeps k g hup
      have hb : (s.updPlane k fun p => p.gatherDone g).bidx = s.bidx := rfl
      exact State.serveGather_outgoing ((hc.openOn k job).trans ho) hx hf (hb.symm ▸ hm) hup'
  · obtain ⟨u, hu, hs, he⟩ := State.earlyPublish_publishes ho hh hd ⟨hpub, he, hrole, hran, hfresh, hclean, hov, hpo, hfs, hq⟩
    have hsends : u.Sends (u.each (earlyFrames j pj k id d h) fun s f => s.multicast k j pj pj.liveMembers f) :=
      .each (fun s f => s.multicast_sends ..) _ u
    have hrun : exec (.earlyPublication k id b) s = .next _ := congrArg Host.Outcome.next he
    have hshare := ((hs.trans hsends.sameShares).share k id b).trans (State.share_of_findShare (State.openOn_pjob ho) hh)
    refine ⟨_, hrun, ⟨_, share_updShare_some (f := fun h => { h with published := true }) hshare fun _ => rfl, rfl⟩,
      fun l m x hx hm hup => ?_⟩
    obtain ⟨y, hy, hd⟩ := State.multicasts_outgoing hx (hu.bidx.symm ▸ hm) (hu.up k l hup) pj
    exact ⟨y, (State.Carries.updShare ..).out k l hy, hd⟩
  · exact ⟨s, congrArg Host.Outcome.next (State.earlyPublish_idle ho hh hd hn), rfl⟩

end

/-! ## Optimizer and preconditioner blocks (R72, R108, R301) -/

namespace Sys2Proof.Machine

/-! ### The two commands that set a block -/

section
variable {s : State} {c : Held} {j : Job} {ok : Job → Bool} {pend : PJob → PJob}

theorem State.setBlock_refuses (hj : s.findJob c.pkt.job = some j) (h : j.st.isActive = false ∨ ok j = false ∨
    (j.st = .loading ∧ pf c.pkt 0 8 ≠ 0) ∨ (j.st.isRunning = true ∧ j.fromOk (pf c.pkt 0 8) = false)) :
    s.setBlock c ok pend = s.reply c .param := by
  unfold State.setBlock
  simp only [hj]
  obtain h | h | ⟨hl, h⟩ | ⟨hr, h⟩ := h
  · simp [h]
  · simp [h]
  · simp [hl, h]
  · have hl : j.st ≠ .loading := by rintro e; simp [e, JState.isRunning] at hr
    simp [hl, h]

theorem State.setBlock_hands (hj : s.findJob c.pkt.job = some j) (hok : ok j = true) (hl : j.st = .loading) (h0 : pf c.pkt 0 8 = 0) :
    s.setBlock c ok pend = s.handOut c j.planes := by
  unfold State.setBlock
  simp [hj, hok, hl, h0, JState.isActive]

theorem State.setBlock_waits (hj : s.findJob c.pkt.job = some j) (hok : ok j = true) (hr : j.st.isRunning = true)
    (hf : j.fromOk (pf c.pkt 0 8) = true) :
    s.setBlock c ok pend = (s.each (s.heldPlanes j) fun s k => s.updPJob k j.id pend).reply c .ok := by
  have ha : j.st.isActive = true ∧ j.st ≠ .loading := by
    revert hr
    cases j.st <;> simp [JState.isRunning, JState.isActive]
  unfold State.setBlock
  simp [hj, hok, ha, hf]

end

/-- An update of a job on every plane of a list leaves all but the planes. -/
theorem State.each_updPJob_planes (id : Nat) (f : PJob → PJob) : ∀ (ks : List PlaneIx) (s : State),
    (s.each ks fun s k => s.updPJob k id f) = { s with planes := (s.each ks fun s k => s.updPJob k id f).planes }
  | [], _ => rfl
  | k :: ks, s => by
    rw [State.each_cons, State.each_updPJob_planes id f ks]
    rfl

/-- An update of a job on every plane of a list of distinct planes is made once on each of them. -/
theorem State.each_updPJob_pjob {id : Nat} {f : PJob → PJob} (hf : ∀ j, (f j).id = j.id) {k : PlaneIx} : ∀ {ks : List PlaneIx} (s : State),
    ks.Nodup → (s.each ks fun s k => s.updPJob k id f).pjob k id = if k ∈ ks then (s.pjob k id).map f else s.pjob k id
  | [], _, _ => by simp
  | a :: ks, s, h => by
    obtain ⟨ha, hn⟩ := List.nodup_cons.1 h
    rw [State.each_cons, State.each_updPJob_pjob hf _ hn]
    by_cases hk : k = a
    · subst hk
      simp [ha, pjob_updPJob_same _ _ _ _ hf]
    · simp [hk, pjob_updPJob_other _ _ _ _ _ _ hk]

theorem State.mem_heldPlanes {s : State} {j : Job} {k : PlaneIx} {pj : PJob} (hk : k ∈ j.planes) (hp : s.pjob k j.id = some pj) :
    k ∈ s.heldPlanes j := List.mem_filter.2 ⟨hk, by simp [hp]⟩

theorem State.heldPlanes_nodup (s : State) (j : Job) : (s.heldPlanes j).Nodup := (planesOf_nodup _).filter _

/-- A head command answered after its tail has settled leaves all but the host port block. -/
theorem State.AtHead.reply_param {s : State} {op : Nat} {p : Packet} {c : Held} (h : s.AtHead op p c) (st : Status) (pl : List Byte) :
    let t := (s.updHost HostPort.settleTail).reply c st pl
    t = { s with host := t.host } ∧ t.Answered c st pl := by
  refine ⟨rfl, State.reply_answered (s := s.updHost HostPort.settleTail) ?_ ?_ st pl⟩
  · simpa using h.mem
  · simpa using h.2.2.2

section
variable {i : Instr} {s : State} {op : Nat} {p : Packet} {c : Held} {j : Job} {ok : Job → Bool} {pend : PJob → PJob}
  (hx : exec i s = .next ((s.updHost HostPort.settleTail).setBlock c ok pend)) (hc : s.AtHead op p c) (hj : s.findJob p.job = some j)
include hx hc hj

theorem blockSet_refuses (h : j.st.isActive = false ∨ ok j = false ∨ (j.st = .loading ∧ pf p 0 8 ≠ 0) ∨
    (j.st.isRunning = true ∧ j.fromOk (pf p 0 8) = false)) :
    Runs i s fun t => t = { s with host := t.host } ∧ t.Answered c .param [] := by
  obtain rfl : c.pkt = p := hc.2.1
  rw [State.setBlock_refuses (s := s.updHost HostPort.settleTail) hj h] at hx
  exact ⟨_, hx, hc.reply_param .param []⟩

theorem blockSet_hands (hok : ok j = true) (hl : j.st = .loading) (h0 : pf p 0 8 = 0) (hs : s.Serving j.planes) :
    Runs i s fun t => t = { s with host := t.host, planes := t.planes } ∧ s.HandedTo t c j.planes := by
  obtain rfl : c.pkt = p := hc.2.1
  rw [State.setBlock_hands (s := s.updHost HostPort.settleTail) hj hok hl h0] at hx
  obtain ⟨h1, h2⟩ := State.handOut_handed (s := s.updHost HostPort.settleTail) (c := c) [] hs (planesOf_nodup _) (by simpa using hc.mem)
    hc.left_nil
  exact ⟨_, hx, by rw [h1]; rfl, h2⟩

theorem blockSet_waits (hok : ok j = true) (hr : j.st.isRunning = true) (hf : j.fromOk (pf p 0 8) = true) (hi : ∀ a, (pend a).id = a.id)
    {k : PlaneIx} {pj : PJob} (hk : k ∈ j.planes) (hp : s.pjob k p.job = some pj) :
    Runs i s fun t => t = { s with host := t.host, planes := t.planes } ∧ t.Answered c .ok [] ∧ t.pjob k p.job = some (pend pj) := by
  obtain rfl : c.pkt = p := hc.2.1
  have hid : j.id = c.pkt.job := State.findJob_id hj
  rw [State.setBlock_waits (s := s.updHost HostPort.settleTail) hj hok hr hf] at hx
  set u := s.updHost HostPort.settleTail with hu
  have hplanes := State.each_updPJob_planes j.id pend (u.heldPlanes j) u
  set v := u.each (u.heldPlanes j) fun s k => s.updPJob k j.id pend with hv
  have hh : v.host.held = s.host.held := by rw [hplanes, hu]; simp
  refine ⟨_, hx, ?_, State.reply_answered (s := v) (by rw [hh]; exact hc.mem) (by rw [hh]; exact hc.2.2.2) .ok [], ?_⟩
  · change v.answer _ _ _ _ = _
    rw [State.answer_host, hplanes]
    rfl
  · have hpu : u.pjob k j.id = some pj := by rw [hid]; exact hp
    have hkv := State.each_updPJob_pjob (id := j.id) hi (k := k) u (u.heldPlanes_nodup j)
    rw [if_pos (State.mem_heldPlanes hk hpu), hpu, Option.map_some, ← hv] at hkv
    rw [← hid]
    exact hkv

end

theorem optSet_exec {s : State} {p : Packet} {c : Held} (h : s.AtHead 0x0501 p c) :
    exec (.optSet p) s = .next ((s.updHost HostPort.settleTail).setBlock c
      (fun j => optRangeOk (parseOpt (psl p 8 64)) && (parseOpt (psl p 8 64)).fixedPart == j.hdr.opt.fixedPart)
      fun pj => { pj with pendOpt := pj.pendOpt ++ [(pf p 0 8, parseOpt (psl p 8 64))] }) := by
  obtain rfl : c.pkt = p := h.2.1
  exact congrArg Host.Outcome.next (h.dispatch_eq _)

theorem precSet_exec {s : State} {p : Packet} {c : Held} (h : s.AtHead 0x0503 p c) :
    exec (.precSet p) s = .next ((s.updHost HostPort.settleTail).setBlock c
      (fun j => j.hdr.opt.kernel == 4 && precRangeOk (parsePrec (psl p 8 32)) && (parsePrec (psl p 8 32)).block == j.hdr.prec.block)
      fun pj => { pj with pendPrec := pj.pendPrec ++ [(pf p 0 8, parsePrec (psl p 8 32))] }) := by
  obtain rfl : c.pkt = p := h.2.1
  exact congrArg Host.Outcome.next (h.dispatch_eq _)

/-! ### The command that reads the block in force -/

theorem precRead_answers {s : State} {p : Packet} {c : Held} {j : Job} (h : s.AtHead 0x0504 p c) (hj : s.findJob p.job = some j)
    (ho : j.st.isOpen = true) (hk : j.hdr.opt.kernel = 4) :
    Runs (.precRead p) s fun t => t = { s with host := t.host } ∧ t.Answered c .ok (precBytes (s.precNow j)) := by
  obtain rfl : c.pkt = p := h.2.1
  refine ⟨_, congrArg Host.Outcome.next (h.dispatch_eq _), ?_⟩
  have hf : (s.updHost HostPort.settleTail).findJob c.pkt.job = some j := hj
  simp only [hf, ho, hk, Bool.true_and, decide_true, if_true]
  exact h.reply_param .ok _

theorem precRead_refuses {s : State} {p : Packet} {c : Held} {j : Job} (h : s.AtHead 0x0504 p c) (hj : s.findJob p.job = some j)
    (hk : j.hdr.opt.kernel ≠ 4) : Runs (.precRead p) s fun t => t = { s with host := t.host } ∧ t.Answered c .param [] := by
  obtain rfl : c.pkt = p := h.2.1
  refine ⟨_, congrArg Host.Outcome.next (h.dispatch_eq _), ?_⟩
  have hf : (s.updHost HostPort.settleTail).findJob c.pkt.job = some j := hj
  simp only [hf, hk, decide_false, Bool.and_false, Bool.false_eq_true, if_false]
  exact h.reply_param .param []

end Sys2Proof.Machine

section
open Sys2Proof Sys2Proof.Machine

/-- Settles O18: a block is refused, handed to the planes or left waiting on them by the state of the job and the step it names. -/
theorem blocksWaitForTheirStep : Obligations.BlocksWaitForTheirStep := by
  intro j p c s hj hid o b from' optOk precOk fromBad
  have hfrom : fromBad → (j.st = .loading ∧ pf p 0 8 ≠ 0) ∨ (j.st.isRunning = true ∧ j.fromOk (pf p 0 8) = false) :=
    Or.imp_right fun h => ⟨h.1, decide_eq_false (Int.not_le.2 h.2)⟩
  have hopt : optOk ↔ (optRangeOk (parseOpt (psl p 8 64)) && (parseOpt (psl p 8 64)).fixedPart == j.hdr.opt.fixedPart) = true := by
    simp [optOk, o, psl]
  have hprec : precOk ↔
      (j.hdr.opt.kernel == 4 && precRangeOk (parsePrec (psl p 8 32)) && (parsePrec (psl p 8 32)).block == j.hdr.prec.block) = true := by
    simp [precOk, b, psl, and_assoc]
  refine ⟨?_, ?_, ?_, ?_, ?_, fun h ho hk => precRead_answers h hj ho hk, fun h hk => precRead_refuses h hj hk⟩
  · rintro op i (⟨rfl, rfl, hok⟩ | ⟨rfl, rfl, hok⟩) h hl h0 hs
    · exact blockSet_hands (optSet_exec h) h hj (hopt.1 hok) hl h0 hs
    · exact blockSet_hands (precSet_exec h) h hj (hprec.1 hok) hl h0 hs
  · exact fun k pj h hr hf hok hk hp => blockSet_waits (optSet_exec h) h hj (hopt.1 hok) hr (decide_eq_true hf) (fun _ => rfl) hk hp
  · exact fun k pj h hr hf hok hk hp => blockSet_waits (precSet_exec h) h hj (hprec.1 hok) hr (decide_eq_true hf) (fun _ => rfl) hk hp
  · exact fun h hb => blockSet_refuses (optSet_exec h) h hj (hb.imp_right (Or.imp (fun hn => by simpa [hopt] using hn) hfrom))
  · exact fun h hb => blockSet_refuses (precSet_exec h) h hj (hb.imp_right (Or.imp (fun hn => by simpa only [hprec, Bool.not_eq_true] using hn) hfrom))

end

/-! ## Job commands on a plane (R77, R119, R273, R291, R302) -/

namespace Sys2Proof.Machine

theorem State.Taken.findJob {s t : State} {k : PlaneIx} {rest : List PlaneCmd} {o : Held} (h : s.Taken t k rest o) (id : Nat) :
    t.findJob id = s.findJob id := by
  rw [h.frame]
  rfl

theorem State.withPJob_some {s : State} {k : PlaneIx} {c : PlaneCmd} {j : Job} {pj : PJob} (hj : s.findJob c.pkt.job = some j)
    (hp : s.pjob k c.pkt.job = some pj) (f : Job → PJob → State) : s.withPJob k c f = f j pj := by
  simp only [State.withPJob, hj, hp]

/-- The status with which a plane answers for a job that it does not hold (R291). -/
def Job.absentStatus (j : Job) (k : PlaneIx) : Status :=
  if j.st.isOpen then if j.hdr.planes.getLsbD k.val then .fenced else .param else .nojob

theorem State.withPJob_absent {s : State} {k : PlaneIx} {c : PlaneCmd} {j : Job} (hj : s.findJob c.pkt.job = some j)
    (hp : s.pjob k c.pkt.job = none) (f : Job → PJob → State) : s.withPJob k c f = s.planeAnswer c.held k (j.absentStatus k) [] := by
  simp only [State.withPJob, State.noJobHere, hj, hp, Job.absentStatus]
  cases j.st.isOpen <;> cases j.hdr.planes.getLsbD k.val <;> rfl

/-- Every word of the indicative copy of a share with cleared copies is +0 (R273). -/
theorem Share.zeroCopies_ind (h : Share) (o : OptBlock) : ∀ a ∈ (h.zeroCopies o).ind, ∀ w ∈ a, w = 0 := by
  have hz : (h.zeroCopies o).ind = List.replicate (wordsOf o) (List.replicate h.elems.length 0) := by
    unfold Share.ind Share.zeroCopies
    cases h.sel <;> rfl
  intro a ha w hw
  rw [hz] at ha
  rw [List.eq_of_mem_replicate ha] at hw
  exact List.eq_of_mem_replicate hw

section
variable {s : State} {k : PlaneIx} {rest : List PlaneCmd} {o : Held} {j : Job}

theorem optRead_taken_absent (h : s.TakesNext k { held := o.id, pkt := o.pkt } rest o) (hop : o.pkt.opcode = 0x0502)
    (hj : s.findJob o.pkt.job = some j) (hp : s.pjob k o.pkt.job = none) :
    Runs (.planeCommandTake k) s fun t => t.Answered o (j.absentStatus k) (statusBlock k (j.absentStatus k)) := by
  refine planeCommandTake_runs h fun t ht => ?_
  have hcmd : t.takeCmd k { held := o.id, pkt := o.pkt } = t.takeOptRead k { held := o.id, pkt := o.pkt } := by
    rw [State.takeCmd, hop]; rfl
  have hs : (opScope o.pkt.opcode.toNat o.pkt.params).any Scope.planes = true := by rw [hop]; rfl
  rw [hcmd, State.takeOptRead, State.withPJob_absent ((ht.findJob _).trans hj) ((ht.pjob _).trans hp)]
  exact State.planeAnswer_block ht.waits hs _

variable {pj : PJob}

/-- `OPT_READ` returns the block and the record (R77, R302). -/
theorem optRead_taken (h : s.TakesNext k { held := o.id, pkt := o.pkt } rest o) (hop : o.pkt.opcode = 0x0502)
    (hj : s.findJob o.pkt.job = some j) (hp : s.pjob k o.pkt.job = some pj) :
    Runs (.planeCommandTake k) s fun t => t.plane k = { s.plane k with cmdIn := rest } ∧
      t.Answered o .ok (statusBlock k .ok ++ (optBytes pj.opt ++ orecBytes j.id k.val pj.fs pj.orec)) := by
  refine planeCommandTake_runs h fun t ht => ?_
  have hcmd : t.takeCmd k { held := o.id, pkt := o.pkt } = t.takeOptRead k { held := o.id, pkt := o.pkt } := by
    rw [State.takeCmd, hop]; rfl
  have hs : (opScope o.pkt.opcode.toNat o.pkt.params).any Scope.planes = true := by rw [hop]; rfl
  rw [hcmd, State.takeOptRead, State.withPJob_some ((ht.findJob _).trans hj) ((ht.pjob _).trans hp)]
  exact ⟨by rw [State.planeAnswer_plane, ht.plane], State.planeAnswer_planes ht.waits hs ..⟩

/-- `OPT_SET` before the first step sets the block (R301). -/
theorem optSet_taken (h : s.TakesNext k { held := o.id, pkt := o.pkt } rest o) (hop : o.pkt.opcode = 0x0501)
    (hj : s.findJob o.pkt.job = some j) (hp : s.pjob k o.pkt.job = some pj) (he : jobEnded j pj = false) :
    Runs (.planeCommandTake k) s fun t => t.Answered o .ok o.extra ∧
      t.pjob k o.pkt.job = some { pj with opt := parseOpt (psl o.pkt 8 64) } := by
  refine planeCommandTake_runs h fun t ht => ?_
  have hcmd : t.takeCmd k { held := o.id, pkt := o.pkt } = t.takeOptSet k { held := o.id, pkt := o.pkt } := by
    rw [State.takeCmd, hop]; rfl
  have hs : (opScope o.pkt.opcode.toNat o.pkt.params).any Scope.planes = false := by rw [hop]; rfl
  rw [hcmd, State.takeOptSet, State.withPJob_some ((ht.findJob _).trans hj) ((ht.pjob _).trans hp)]
  simp only [he, Bool.false_eq_true, if_false, State.findJob_id hj]
  refine ⟨State.planeAnswer_job (s := t.updPJob k _ _) ht.waits hs (by rw [hop]; decide) (by rw [hop]; decide) .ok [], ?_⟩
  rw [State.planeAnswer_pjob, pjob_updPJob_same, ht.pjob, hp]
  · rfl
  · exact fun _ => rfl

/-- A job's record on a plane under restore: the record sent, no log, and cleared copies (R273). -/
def PJob.restored (pj : PJob) (r : OptRec) : PJob :=
  { pj with
    shares := pj.shares.map fun h => { h.zeroCopies pj.opt with kblocks := h.kblocks.map fun _ => KBlock.fresh (blockEdge pj.prec), log := [] }
    slog := [], restore := true
    orec := { pj.orec with step := r.step, updates := r.updates, gen := r.gen, nextgen := r.nextgen, lscale := r.lscale,
                           clean := r.clean, pow1 := r.pow1, pow2 := r.pow2, skipped := r.skipped } }

theorem PJob.restored_share {r : OptRec} {b : Nat} {h' : Share} (hh : (pj.restored r).findShare b = some h') :
    h'.log = [] ∧ ∀ a ∈ h'.ind, ∀ w ∈ a, w = 0 := by
  obtain ⟨h, -, rfl⟩ := List.mem_map.1 (List.mem_of_find?_eq_some hh)
  exact ⟨rfl, h.zeroCopies_ind pj.opt⟩

/-- `RESTORE_BEGIN` sets the record and clears log and copies (R273). -/
theorem restoreBegin_taken (h : s.TakesNext k { held := o.id, pkt := o.pkt } rest o) (hop : o.pkt.opcode = 0x020B)
    (hj : s.findJob o.pkt.job = some j) (hp : s.pjob k o.pkt.job = some pj) (he : jobEnded j pj = false) :
    Runs (.planeCommandTake k) s fun t => t.Answered o .ok o.extra ∧
      t.pjob k o.pkt.job = some (pj.restored (parseOrec o.pkt.params)) := by
  refine planeCommandTake_runs h fun t ht => ?_
  have hcmd : t.takeCmd k { held := o.id, pkt := o.pkt } = t.takeRestoreBegin k { held := o.id, pkt := o.pkt } := by
    rw [State.takeCmd, hop]; rfl
  have hs : (opScope o.pkt.opcode.toNat o.pkt.params).any Scope.planes = false := by rw [hop]; rfl
  rw [hcmd, State.takeRestoreBegin, State.withPJob_some ((ht.findJob _).trans hj) ((ht.pjob _).trans hp)]
  simp only [he, Bool.false_eq_true, if_false, State.findJob_id hj]
  refine ⟨State.planeAnswer_job (s := t.updPJob k _ _) ht.waits hs (by rw [hop]; decide) (by rw [hop]; decide) .ok [], ?_⟩
  rw [State.planeAnswer_pjob, pjob_updPJob_same, ht.pjob, hp]
  · rfl
  · exact fun _ => rfl

end

end Sys2Proof.Machine

section
open Sys2Proof Sys2Proof.Machine

/-- Settles O49: a plane that lacks the job answers by the job's state and planes; one that holds it acts by the opcode. -/
theorem planesTakeJobCommands : Obligations.PlanesTakeJobCommands := by
  intro k x rest o j s h hj
  obtain rfl := h.cmd_eq
  refine ⟨fun hop hp ho => ⟨fun hb => ?_, fun hb => ?_⟩, fun hop hp ho => ?_, fun pj hp => ⟨fun hop => ?_, fun hop he => ?_, fun hop he => ?_⟩⟩
  · simpa only [Job.absentStatus, ho, hb, if_true, Bool.false_eq_true, if_false] using optRead_taken_absent h hop hj hp
  · simpa only [Job.absentStatus, ho, hb, if_true, Bool.false_eq_true, if_false] using optRead_taken_absent h hop hj hp
  · simpa only [Job.absentStatus, ho, Bool.false_eq_true, if_false] using optRead_taken_absent h hop hj hp
  · exact optRead_taken h hop hj hp
  · exact optSet_taken h hop hj hp he
  · obtain ⟨t, ht, hans, hpj⟩ := restoreBegin_taken h hop hj hp he
    exact ⟨t, ht, hans, _, hpj, rfl, rfl, rfl, rfl, rfl, rfl, fun _ _ hh => PJob.restored_share hh⟩

end

/-! ## The combined word and the path of the full stop (R89, R91, R124) -/

namespace Sys2Proof.Machine

/-! ### The path of a combined word -/

section
variable {o : OptBlock} {u total : W32} {fl : Flags}

theorem pathOf_abandon (h : fl.abandon = true) : pathOf o u total fl = (5, fone, 0) := by simp [pathOf, h]

theorem pathOf_poisoned (ha : fl.abandon = false) (hp : fl.poisoned = true) : pathOf o u total fl = (4, fone, 0) := by simp [pathOf, ha, hp]

theorem pathOf_overflow (ha : fl.abandon = false) (hp : fl.poisoned = false) (ho : fl.overflow = true ∨ fge 0x7F7FFFFF total = false) :
    pathOf o u total fl = (3, fone, 0) := by
  have h : (fl.overflow || !fge 0x7F7FFFFF total) = true := by simpa using ho
  simp only [pathOf, ha, hp, h, Bool.false_eq_true, if_false, if_true]

theorem fgt_self (w : W32) : fgt w w = false := by simp [fgt]

/-- A step without abandonment, poison or overflow is clipped or not by its norm. -/
theorem pathOf_finite (ha : fl.abandon = false) (hp : fl.poisoned = false) (ho : fl.overflow = false) (hg : fge 0x7F7FFFFF total = true) :
    let gn := frMul (frSqrt (frOf total)) (frOf u)
    let c := if fgt gn.1 o.clipnorm then frDiv (frOf o.clipnorm) gn else (fone, gn.2)
    pathOf o u total fl = (if fgt fone c.1 then 2 else 1, c.1, c.2) := by
  have h : (fl.overflow || !fge 0x7F7FFFFF total) = false := by rw [ho, hg]; rfl
  simp only [pathOf, ha, hp, h, Bool.false_eq_true, if_false]

/-- A norm within the limit commits with the clip factor 1. -/
theorem pathOf_within (ha : fl.abandon = false) (hp : fl.poisoned = false) (ho : fl.overflow = false) (hg : fge 0x7F7FFFFF total = true)
    (hc : fgt (frMul (frSqrt (frOf total)) (frOf u)).1 o.clipnorm = false) :
    (pathOf o u total fl).1 = 1 ∧ (pathOf o u total fl).2.1 = fone := by
  simp [pathOf_finite ha hp ho hg, hc, fgt_self]

/-- A norm above the limit takes the rescaling pass with the limit over the norm. -/
theorem pathOf_above (ha : fl.abandon = false) (hp : fl.poisoned = false) (ho : fl.overflow = false) (hg : fge 0x7F7FFFFF total = true)
    (hc : fgt (frMul (frSqrt (frOf total)) (frOf u)).1 o.clipnorm = true)
    (h1 : fgt fone (frDiv (frOf o.clipnorm) (frMul (frSqrt (frOf total)) (frOf u))).1 = true) :
    (pathOf o u total fl).1 = 2 ∧ (pathOf o u total fl).2.1 = (frDiv (frOf o.clipnorm) (frMul (frSqrt (frOf total)) (frOf u))).1 := by
  simp [pathOf_finite ha hp ho hg, hc, h1]

end

/-! ### The plane takes its path -/

/-- Flags of a step join those of its histogram (R43). -/
def PJob.flagged (pj : PJob) (f : W32) : PJob := { pj with histNow := { pj.histNow with sflags := pj.histNow.sflags ||| f } }

theorem State.arith_pjob (s : State) (k : PlaneIx) (id : Nat) (unit fl : W32) :
    (s.arith k id unit fl).pjob k id = (s.pjob k id).map (·.flagged (unitFlags unit fl)) := by
  unfold State.arith State.pjob
  rw [plane_updPlane_same]
  exact findPJob_updPJob (s.plane k) id (·.flagged (unitFlags unit fl)) fun _ => rfl

section
variable {s : State} {k : PlaneIx} {id : Nat} {pj : PJob} {total : W32} {fl : Flags}

/-- With the generation numbers not at their end, a kernel that needs no arrays of a mirror begins the path at once (R89, R91). -/
theorem State.choosePath_begins (hp : s.pjob k id = some pj) (hk : pj.opt.kernel ≠ 4)
    (hg : pj.genLimit (pathOf pj.opt pj.u total fl).1 = false) :
    ((s.choosePath k id total fl).plane k).scalarDown = (s.plane k).scalarDown ∧
    ∃ pj', (s.choosePath k id total fl).pjob k id = some pj' ∧ pj'.total = total ∧ pj'.wordFlags = fl ∧ pj'.orec = pj.orec ∧
      pj'.shares = pj.shares ∧ pj'.outcome = (pathOf pj.opt pj.u total fl).1 ∧ pj'.fs = pathState (pathOf pj.opt pj.u total fl).1 ∧
      pj'.clipc = (pathOf pj.opt pj.u total fl).2.1 := by
  have hm : pj.mirrorsReady s.bidx (pathOf pj.opt pj.u total fl).1 = true := by simp [PJob.mirrorsReady, hk]
  unfold State.choosePath
  simp only [hp, hg, hm, Bool.false_eq_true, if_false, Bool.not_true]
  refine ⟨?_, ?_⟩
  · rw [State.updPJob, plane_updPlane_same, Plane.updPJob, State.arith_plane]
  · rw [pjob_updPJob_same, State.arith_pjob, hp]
    · exact ⟨_, rfl, rfl, rfl, rfl, rfl, rfl, rfl, rfl⟩
    · exact fun _ => rfl

/-- Where the generation numbers would run out, the job is fenced instead (R124). -/
theorem State.choosePath_fences {j : Job} (hp : s.pjob k id = some pj) (hg : pj.genLimit (pathOf pj.opt pj.u total fl).1 = true)
    (hj : s.findJob id = some j) (ha : j.st.isActive = true) : (s.choosePath k id total fl).FencedBy id 5 := by
  unfold State.choosePath
  simp only [hp, hg, if_true]
  exact State.fenceJob_fencedBy (s := s.updPJob k id fun pj => { pj with waitWord := none }) hj ha 5

end

/-! ### The word arrives -/

theorem State.popDown_calm (s : State) (k : PlaneIx) : s.Calm (s.updPlane k Plane.popDown) := .updPlane s k fun _ => rfl

theorem State.popDown_scalarDown {s : State} {k : PlaneIx} {w : DownWord} {rest : List DownWord} (h : (s.plane k).scalarDown = w :: rest) :
    ((s.updPlane k Plane.popDown).plane k).scalarDown = rest ++ (s.plane k).downWait.take 1 := by
  rw [plane_updPlane_same, Plane.popDown, h]
  rfl

section
variable {s : State} {k : PlaneIx} {id step : Nat} {total : W32} {fl : Flags} {rest : List DownWord} {pj : PJob}
  (hd : (s.plane k).scalarDown = .combined id step total fl :: rest) (hp : s.pjob k id = some pj)
  (hw : ∀ q ∈ (s.plane k).jobs, q.waitWord = none)
include hd hp hw

/-- With no word kept back on the plane, the word at the front is taken, and acts where it names the step awaited (R91). -/
theorem combinedScalars_takes : exec (.combinedScalars k) s = .next
    (if pj.fs = .await ∧ pj.orec.step = step then (s.updPlane k Plane.popDown).choosePath k id total fl else s.updPlane k Plane.popDown) := by
  have hn : (s.plane k).jobs.find? (fun pj => pj.waitWord.any fun w => pj.mirrorsReady s.bidx (pathOf pj.opt pj.u w.1 w.2).1) = none := by
    rw [List.find?_eq_none]
    intro q hq
    simp [hw q hq]
  have hu : (s.updPlane k Plane.popDown).pjob k id = some pj := ((s.popDown_calm k).toQuiet.pjob k id).trans hp
  have hww : pj.waitWord = none := hw pj (List.mem_of_find?_eq_some hp)
  show execCombinedScalars k s = _
  simp [execCombinedScalars, State.takeScalars, hn, hd, hu, hww]

theorem combinedScalars_begins (hf : pj.fs = .await) (hs : pj.orec.step = step) (hk : pj.opt.kernel ≠ 4)
    (hg : pj.genLimit (pathOf pj.opt pj.u total fl).1 = false) : Runs (.combinedScalars k) s fun t =>
      (t.plane k).scalarDown = rest ++ (s.plane k).downWait.take 1 ∧
      ∃ pj', t.pjob k id = some pj' ∧ pj'.total = total ∧ pj'.wordFlags = fl ∧ pj'.orec = pj.orec ∧ pj'.shares = pj.shares ∧
        pj'.outcome = (pathOf pj.opt pj.u total fl).1 ∧ pj'.fs = pathState (pathOf pj.opt pj.u total fl).1 ∧
        pj'.clipc = (pathOf pj.opt pj.u total fl).2.1 := by
  have hu : (s.updPlane k Plane.popDown).pjob k id = some pj := ((s.popDown_calm k).toQuiet.pjob k id).trans hp
  refine ⟨_, combinedScalars_takes hd hp hw, ?_⟩
  rw [if_pos ⟨hf, hs⟩, ← State.popDown_scalarDown hd]
  exact State.choosePath_begins hu hk hg

theorem combinedScalars_fences {j : Job} (hf : pj.fs = .await) (hs : pj.orec.step = step)
    (hg : pj.genLimit (pathOf pj.opt pj.u total fl).1 = true) (hj : s.findJob id = some j) (ha : j.st.isActive = true) :
    Runs (.combinedScalars k) s fun t => t.FencedBy id 5 := by
  have hu : (s.updPlane k Plane.popDown).pjob k id = some pj := ((s.popDown_calm k).toQuiet.pjob k id).trans hp
  refine ⟨_, combinedScalars_takes hd hp hw, ?_⟩
  rw [if_pos ⟨hf, hs⟩]
  exact State.choosePath_fences hu hg hj ha

theorem combinedScalars_passes (hs : pj.orec.step ≠ step) : Runs (.combinedScalars k) s fun t =>
    (t.plane k).scalarDown = rest ++ (s.plane k).downWait.take 1 ∧ t.pjob k id = some pj := by
  refine ⟨_, combinedScalars_takes hd hp hw, ?_⟩
  rw [if_neg fun h => hs h.2]
  exact ⟨State.popDown_scalarDown hd, ((s.popDown_calm k).toQuiet.pjob k id).trans hp⟩

end

end Sys2Proof.Machine

section
open Sys2Proof Sys2Proof.Machine

/-- Settles O32: the word at the front acts where it names the step awaited, and its flags and norm give the outcome. -/
theorem combinedWordChoosesPath : Obligations.CombinedWordChoosesPath := by
  intro k id step total fl rest pj s hd hp hw left gn
  refine ⟨fun hf hs hk hg => ?_, fun j hf hs hg hj ha => combinedScalars_fences hd hp hw hf hs hg hj ha,
    fun hs => combinedScalars_passes hd hp hw hs⟩
  obtain ⟨t, ht, hdown, pj', hp', htot, hfl, horec, hsh, hout, hfs, hclip⟩ := combinedScalars_begins hd hp hw hf hs hk hg
  refine ⟨t, ht, hdown, pj', hp', htot, hfl, horec, hsh, fun ha => ?_, fun ha hpo => ?_, fun ha hpo ho => ?_, fun ha hpo ho hge => ⟨fun hc => ?_, fun hc h1 => ?_⟩⟩
  · rw [hout, hfs, pathOf_abandon ha]
    exact ⟨rfl, rfl⟩
  · rw [hout, hfs, pathOf_poisoned ha hpo]
    exact ⟨rfl, rfl⟩
  · rw [hout, hfs, pathOf_overflow ha hpo ho]
    exact ⟨rfl, rfl⟩
  · obtain ⟨h1, h2⟩ := pathOf_within ha hpo ho hge hc
    rw [hout, hfs, hclip, h1, h2]
    exact ⟨rfl, rfl, rfl⟩
  · obtain ⟨h2, h3⟩ := pathOf_above ha hpo ho hge hc h1
    rw [hout, hfs, hclip, h2, h3]
    exact ⟨rfl, rfl, rfl⟩

end

/-! ## A full stop whose end retires the plane (R125, R177, R244, R253)

Taking a path's held gathers again discards one whose stored entry fails parity (R177), which is an error of the frame queues' block.  Under
observation with one error less than the limit, that error retires the block, and with it the plane: nothing of the job is left there to have
recorded a step. -/

namespace Sys2Proof.Machine

/-- A gather of job 1 that waits in the hold list with its entry damaged. -/
def damagedGather : HeldFrame := { lane := 0, frame := { hdr := { op := opGreq, job := 1 } }, cells := 0, serve := true, later := .entry }

/-- A running job on plane 0. -/
def discardingJob : Job := { id := 1, st := .running, hdr := { job := 1, planes := 1 } }

/-- Its plane discards an abandoned step. -/
def discardingPJob : PJob := { id := 1, fs := .discard, outcome := 5, opt := { kernel := 1 } }

/-- The plane holds the damaged gather, and the block of its queues has had three of the four errors that retire it. -/
def discardingState : State := ({ State.reset with jobs := [discardingJob] } : State).updPlane 0 fun p =>
  { p with jobs := [discardingPJob], held := [damagedGather], obs := [{ block := 3, unit := 0, errs := 3 }] }

theorem discardDone_retires : (discardingState.discardDone 0 1).pjob 0 1 = none := by decide +kernel

end Sys2Proof.Machine

section
open Sys2Proof Sys2Proof.Machine

/-- Refutes O33: on a discard a held gather whose stored entry fails parity retires the plane under observation, and the job's record with it. -/
theorem not_pathsRecordTheirStep : ¬ Obligations.PathsRecordTheirStep := by
  intro h
  obtain ⟨-, -, hdiscard⟩ := h 0 1 discardingJob discardingPJob discardingState (by decide +kernel) (by decide +kernel)
  obtain ⟨t, ht, pj', hp, -⟩ := hdiscard rfl (by decide) (by decide)
  obtain rfl : discardingState.discardDone 0 1 = t := Host.Outcome.next.inj ht
  rw [discardDone_retires] at hp
  cases hp

end

/-! ## Fence orders and the timers of a job (R101, R148, R161, R162) -/

namespace Sys2Proof.Machine

/-! ### The Scalar down queues -/

/-- The words on their way down to a plane. -/
def Plane.down (p : Plane) : List DownWord × List DownWord := (p.scalarDown, p.downWait)

/-- Every plane keeps the words on their way down to it. -/
structure State.SameDown (s t : State) : Prop where
  down : ∀ q, (t.plane q).down = (s.plane q).down

theorem State.SameDown.refl (s : State) : s.SameDown s := ⟨fun _ => rfl⟩

theorem State.SameDown.trans {s t u : State} (h : s.SameDown t) (g : t.SameDown u) : s.SameDown u :=
  ⟨fun q => (g.down q).trans (h.down q)⟩

theorem State.SameDown.each {α : Type} {f : State → α → State} (h : ∀ (s : State) a, s.SameDown (f s a)) : ∀ (l : List α) (s : State),
    s.SameDown (s.each l f)
  | [], s => .refl s
  | a :: l, s => (h s a).trans (State.SameDown.each h l (f s a))

theorem State.SameDown.updPlane (s : State) (k : PlaneIx) {f : Plane → Plane} (h : ∀ p, (f p).down = p.down) :
    s.SameDown (s.updPlane k f) where
  down q := by
    rw [plane_updPlane]
    split
    · next e => subst e; exact h _
    · rfl

theorem State.Sends.sameDown {s t : State} (h : s.Sends t) : s.SameDown t := ⟨fun q => by rw [h.plane q]; rfl⟩

theorem State.planeAnswer_sameDown (s : State) (id : Nat) (k : PlaneIx) (st : Status) (sec : List Byte) :
    s.SameDown (s.planeAnswer id k st sec) := ⟨fun q => by rw [State.planeAnswer_plane]⟩

theorem State.endWait_sameDown (s : State) (k : PlaneIx) (w : Wait) (st : Status) : s.SameDown (s.endWait k w st) := by
  have h := State.SameDown.updPlane s k (f := fun p => { p with waits := p.waits.filter (·.id != w.id) }) fun _ => rfl
  unfold State.endWait
  dsimp only
  split
  · exact h.trans (State.planeAnswer_sameDown ..)
  · split
    · exact h.trans (State.toMember_sends ..).sameDown
    · exact h

theorem State.endApply_sameDown (s : State) (k : PlaneIx) (c : PlaneCmd) : s.SameDown (s.endApply k c) := by
  unfold State.endApply
  dsimp only
  split <;> exact s.planeAnswer_sameDown ..

theorem State.endReads_sameDown (s : State) (k : PlaneIx) (id : Nat) : s.SameDown (s.endReads k id) := by
  refine .trans ?_ (.each (fun s _ => s.planeAnswer_sameDown ..) _ _)
  exact .updPlane s k fun _ => rfl

theorem State.reclaimReport_plane (s : State) (j : Job) (st : Status) (q : PlaneIx) : (s.reclaimReport j st).plane q = s.plane q := by
  unfold State.reclaimReport
  split
  · rfl
  · exact State.report_plane ..

/-- Settling a job leaves the planes. -/
theorem State.settleJob_plane (s : State) (id : Nat) (q : PlaneIx) : (s.settleJob id).plane q = s.plane q := by
  unfold State.settleJob
  split
  · rfl
  · dsimp only
    split
    · rfl
    · split
      · split
        · exact (State.reclaimReport_plane ..).trans (State.report_plane ..)
        · rfl
      · split
        · exact State.reclaimReport_plane ..
        · rfl

/-! ### A plane takes a fence order (R101) -/

/-- The plane's record of a job that it has fenced. -/
def PJob.fencedOff (a : PJob) : PJob :=
  { a with
    fs := .fenced, fencePend := 0, waitWord := none,
    cutStep := a.fs == .run || a.fs == .await || a.fs == .commit || a.fs == .rescale || a.fs == .discard }

/-- A plane that fences a job leaves it with its resources released, and the words on their way down to it wait on. -/
theorem State.fencePlane_releases {s : State} {k : PlaneIx} {id : Nat} {j : Job} {pj : PJob} (hj : s.findJob id = some j)
    (hp : s.pjob k id = some pj) (hf : pj.fs ≠ .fenced) (hr : pj.fs ≠ .reclaimed) :
    s.SameDown (s.fencePlane k id) ∧ (s.fencePlane k id).pjob k id = some pj.released.fencedOff := by
  unfold State.fencePlane
  rw [hj, hp]
  simp -zeta only [hf, hr]
  extract_lets published s1 s2 s3 s4 s5 s6 s7
  have h6 : s5.Sends s6 := by
    unfold s6
    split
    · exact State.multicastAll_sends ..
    · exact .refl s5
  simp only [Bool.or_self, decide_false, Bool.false_eq_true, if_false]
  constructor
  · have h2 : s1.SameDown s2 := .updPlane s1 k fun _ => rfl
    have h3 : s2.SameDown s3 := .each (fun s _ => s.endWait_sameDown ..) _ s2
    have h4 : s3.SameDown s4 := .each (fun s _ => s.endApply_sameDown ..) _ s3
    have h5 : s4.SameDown s5 := .updPlane s4 k fun _ => rfl
    have h7 : s6.SameDown s7 := .updPlane s6 k fun _ => rfl
    have h8 : s7.SameDown (s7.settleJob id) := ⟨fun q => by rw [State.settleJob_plane]⟩
    exact (s.endReads_sameDown k id).trans (h2.trans (h3.trans (h4.trans (h5.trans (h6.sameDown.trans (h7.trans h8))))))
  · have h2 : s1.Calm s2 := .updPlane s1 k fun _ => rfl
    have h4 : s.Calm s4 := (s.endReads_calm k id).trans (h2.trans ((s2.endWaits_calm ..).trans (.each (fun s _ => s.endApply_calm ..) _ s3)))
    have h5 : s5.pjob k id = some pj.released := by rw [State.releaseJob_pjob, h4.toQuiet.pjob, hp, Option.map_some]
    have h7 : s7.pjob k id = (s6.pjob k id).map PJob.fencedOff := pjob_updPJob_same s6 k id PJob.fencedOff fun _ => rfl
    rw [(State.settleJob_quiet ..).pjob, h7, h6.calm.toQuiet.pjob, h5, Option.map_some]

section
variable {s : State} {k : PlaneIx} {id c : Nat} {rest : List DownWord} {pj : PJob} (hd : (s.plane k).scalarDown = .fence id c :: rest)
  (hp : s.pjob k id = some pj)
include hd hp

/-- A fence order leaves its queue; a path begun keeps it pending, and otherwise the plane fences the job. -/
theorem scalarFenceOrder_takes : exec (.scalarFenceOrder k) s = .next
    (if pj.fs = .commit ∨ pj.fs = .rescale ∨ pj.fs = .discard ∨ pj.fs = .drain then
      (s.updPlane k Plane.popDown).updPJob k id fun pj => { pj with fencePend := c }
    else (s.updPlane k Plane.popDown).fencePlane k id) := by
  have hu : (s.updPlane k Plane.popDown).pjob k id = some pj := ((s.popDown_calm k).toQuiet.pjob k id).trans hp
  show execScalarFenceOrder k s = _
  simp [execScalarFenceOrder, State.fenceOrder, hd, hu, or_assoc]

theorem scalarFenceOrder_fences {j : Job} (hj : s.findJob id = some j) (hf : pj.fs = .run ∨ pj.fs = .await ∨ pj.fs = .loading) :
    Runs (.scalarFenceOrder k) s fun t => (t.plane k).scalarDown = rest ++ (s.plane k).downWait.take 1 ∧
      t.pjob k id = some pj.released.fencedOff := by
  have hu : (s.updPlane k Plane.popDown).pjob k id = some pj := ((s.popDown_calm k).toQuiet.pjob k id).trans hp
  have hn : ¬ (pj.fs = .commit ∨ pj.fs = .rescale ∨ pj.fs = .discard ∨ pj.fs = .drain) := by
    obtain h | h | h := hf <;> simp [h]
  obtain ⟨hdown, hpj⟩ := State.fencePlane_releases (s := s.updPlane k Plane.popDown) hj hu
    (by obtain h | h | h := hf <;> simp [h]) (by obtain h | h | h := hf <;> simp [h])
  refine ⟨_, scalarFenceOrder_takes hd hp, ?_⟩
  rw [if_neg hn, ← State.popDown_scalarDown hd]
  exact ⟨congrArg Prod.fst (hdown.down k), hpj⟩

theorem scalarFenceOrder_waits (hf : pj.fs = .commit ∨ pj.fs = .rescale ∨ pj.fs = .discard ∨ pj.fs = .drain) :
    Runs (.scalarFenceOrder k) s fun t => t = { s with planes := t.planes } ∧
      (t.plane k).scalarDown = rest ++ (s.plane k).downWait.take 1 ∧ t.pjob k id = some { pj with fencePend := c } := by
  have hu : (s.updPlane k Plane.popDown).pjob k id = some pj := ((s.popDown_calm k).toQuiet.pjob k id).trans hp
  refine ⟨_, scalarFenceOrder_takes hd hp, ?_⟩
  rw [if_pos hf, ← State.popDown_scalarDown hd]
  refine ⟨rfl, ?_, ?_⟩
  · rw [State.updPJob, plane_updPlane_same, Plane.updPJob]
  · rw [pjob_updPJob_same, hu]
    · rfl
    · exact fun _ => rfl

end

/-! ### The deadline of a reclaim, and the held fence (R161, R162) -/

section
variable {s : State} {id : Nat} {j : Job} (hj : s.findJob id = some j)
include hj

theorem reclaimDeadline_fences (hst : j.st = .reclaiming) (hr : s.ringWaits j = false) :
    Runs (.reclaimDeadline id) s fun t => t.FencedBy id 1 := by
  have hx : exec (.reclaimDeadline id) s = .next (s.fenceJob id 1) := by
    show execReclaimDeadline id s = _
    simp [execReclaimDeadline, hj, hst, hr]
  exact ⟨_, hx, State.fenceJob_fencedBy hj (by rw [hst]; rfl) 1⟩

theorem reclaimDeadline_holds (hst : j.st = .reclaiming) (hr : s.ringWaits j = true) :
    Runs (.reclaimDeadline id) s fun t => t = { s with jobs := t.jobs } ∧ t.findJob id = some { j with ringHold := true } := by
  have hx : exec (.reclaimDeadline id) s = .next (s.updJob id fun j => { j with ringHold := true }) := by
    show execReclaimDeadline id s = _
    simp [execReclaimDeadline, hj, hst, hr]
  refine ⟨_, hx, rfl, ?_⟩
  rw [findJob_updJob, hj]
  · rfl
  · exact fun _ => rfl

theorem ringFenceHoldExpiry_fences (hh : j.ringHold = true) (ha : j.st.isActive = true) :
    Runs (.ringFenceHoldExpiry id) s fun t => t.FencedBy id 1 := by
  have hx : exec (.ringFenceHoldExpiry id) s = .next (s.fenceJob id 1) := by
    show execRingFenceHoldExpiry id s = _
    simp [execRingFenceHoldExpiry, hj, hh]
  exact ⟨_, hx, State.fenceJob_fencedBy hj ha 1⟩

end

/-! ### The end of `CKHOLD` (R148) -/

/-- An update of each plane of a list changes those planes once each, and no more of the state. -/
theorem State.each_updPlane_plane (f : Plane → Plane) (q : PlaneIx) : ∀ {ks : List PlaneIx}, ks.Nodup → ∀ s : State,
    (s.each ks fun s k => s.updPlane k f).host = s.host ∧
    (s.each ks fun s k => s.updPlane k f).plane q = if q ∈ ks then f (s.plane q) else s.plane q
  | [], _, s => by simp
  | k :: ks, hn, s => by
    obtain ⟨hk, hks⟩ := List.nodup_cons.1 hn
    obtain ⟨h1, h2⟩ := State.each_updPlane_plane f q hks (s.updPlane k f)
    rw [State.each_cons]
    refine ⟨h1, h2.trans ?_⟩
    by_cases h : q = k
    · subst h
      simp [hk]
    · simp [h]

/-- Nothing of a removed job is left; the host port's block stays. -/
theorem State.removeJob_spec (s : State) (id : Nat) : (s.removeJob id).findJob id = none ∧ (∀ k, (s.removeJob id).pjob k id = none) ∧
    (s.removeJob id).host = s.host := by
  let f (p : Plane) : Plane := { p.releaseJob id with jobs := (p.releaseJob id).jobs.filter (·.id != id) }
  refine ⟨?_, fun k => ?_, (State.each_updPlane_plane f 0 (List.nodup_finRange 8) s).1⟩
  · rw [State.removeJob, State.findJob, List.find?_eq_none]
    intro j h
    simpa using (List.mem_filter.1 h).2
  · have hk : (s.removeJob id).plane k = f (s.plane k) := by
      have := (State.each_updPlane_plane f k (List.nodup_finRange 8) s).2
      rwa [if_pos (List.mem_finRange k)] at this
    rw [State.pjob, hk, Plane.findPJob, List.find?_eq_none]
    intro pj h
    simpa using (List.mem_filter.1 h).2

/-- The job report waits in the queue with its status (R150, R292). -/
theorem State.jobReport_mem (s : State) (j : Job) (st : Status) (cause : Nat) :
    ∃ r ∈ (s.jobReport j st cause).host.reports, r.opcode = 0xF003 ∧ r.job = j.id ∧ r.status = st.code := by
  unfold State.jobReport State.report
  dsimp only
  split
  · exact ⟨_, List.mem_append_right _ (List.mem_singleton_self _), rfl, rfl, rfl⟩
  · rw [State.setErrsum_reports]
    exact ⟨_, List.mem_append_right _ (List.mem_singleton_self _), rfl, rfl, rfl⟩

theorem ckholdExpiry_removes {s : State} {id : Nat} {j : Job} (hj : s.findJob id = some j) (hst : j.st = .reclaimed ∨ j.st = .fenced)
    (he : j.ended = true) (hc : j.closing = none) : Runs (.ckholdExpiry id) s fun t =>
      t.findJob id = none ∧ (∀ k, t.pjob k id = none) ∧ ∃ r ∈ t.host.reports, r.opcode = 0xF003 ∧ r.job = id ∧ r.status = 0 := by
  have hx : exec (.ckholdExpiry id) s =
      .next (((s.each j.planes fun s k => s.endReads k id).jobReport j .ok 0).removeJob id) := by
    have hs : (j.st == .reclaimed || j.st == .fenced) = true := by simpa using hst
    show execCkholdExpiry id s = _
    simp [execCkholdExpiry, hj, hs, he, hc]
  obtain ⟨hf, hp, hh⟩ := State.removeJob_spec ((s.each j.planes fun s k => s.endReads k id).jobReport j .ok 0) id
  refine ⟨_, hx, hf, hp, ?_⟩
  rw [hh]
  have h := State.jobReport_mem (s.each j.planes fun s k => s.endReads k id) j .ok 0
  rwa [State.findJob_id hj] at h

end Sys2Proof.Machine

section
open Sys2Proof Sys2Proof.Machine

/-- Settles O35: a fence order acts by the plane's state, the two timers fence the job, and `CKHOLD` removes an ended one. -/
theorem fencesAndTimersEndJobs : Obligations.FencesAndTimersEndJobs := by
  refine ⟨fun k id c rest j pj s hd hj hp => ⟨fun hf => ?_, scalarFenceOrder_waits hd hp⟩, fun id j s hj _ =>
    ⟨reclaimDeadline_fences hj, reclaimDeadline_holds hj, ringFenceHoldExpiry_fences hj, ckholdExpiry_removes hj⟩⟩
  obtain ⟨t, ht, hdown, hpj⟩ := scalarFenceOrder_fences hd hp hj hf
  exact ⟨t, ht, hdown, _, hpj, rfl, rfl, rfl⟩

end

/-! ## Checkpoint reads and `LOAD` frames (R75, R76, R163, R278) -/

namespace Sys2Proof.Machine

/-! ### The end of a read -/

/-- Of a run over distinct entries of which only one has an effect, that effect is all. -/
theorem State.each_only {α : Type} {f : State → α → State} {a : α} : ∀ {l : List α}, l.Nodup → a ∈ l → ∀ {s : State},
    (∀ b, b ≠ a → f s b = s) → (∀ b, b ≠ a → f (f s a) b = f s a) → s.each l f = f s a
  | b :: l, hn, ha, s, hs, ht => by
    obtain ⟨hb, hl⟩ := List.nodup_cons.1 hn
    rw [State.each_cons]
    by_cases h : b = a
    · subst h
      have stays (u : State) (hu : ∀ c, c ≠ b → f u c = u) : ∀ l : List α, b ∉ l → u.each l f = u := by
        intro l
        induction l with
        | nil => exact fun _ => rfl
        | cons c l ih =>
          intro hc
          obtain ⟨hcb, hc⟩ := not_or.1 (List.mem_cons.not.1 hc)
          rw [State.each_cons, hu c (Ne.symm hcb), ih hc]
      exact stays _ ht l hb
    · rw [hs b h]
      exact State.each_only hl ((List.mem_cons.1 ha).resolve_left (Ne.symm h)) hs ht

/-- The status with which a plane ends a read (R163, R278). -/
def State.readStatus (s : State) (k : PlaneIx) (x : CkptJob) : Status :=
  if !x.isLog && ((s.pjob k x.job).map fun pj => pj.shares.any fun h => h.kept && h.expelled.contains s.bidx).getD false then .check else .ok

theorem State.readStatus_ok {s : State} {k : PlaneIx} {x : CkptJob} {pj : PJob} (hp : s.pjob k x.job = some pj)
    (h : x.isLog = true ∨ ∀ h ∈ pj.shares, h.kept = true → s.bidx ∉ h.expelled) : s.readStatus k x = .ok := by
  unfold State.readStatus
  rw [if_neg]
  rw [hp]
  obtain h | h := h
  · simp [h]
  · simpa using fun _ => h

theorem State.readStatus_check {s : State} {k : PlaneIx} {x : CkptJob} {pj : PJob} (hp : s.pjob k x.job = some pj) (hl : x.isLog = false)
    (h : ∃ h ∈ pj.shares, h.kept = true ∧ s.bidx ∈ h.expelled) : s.readStatus k x = .check := by
  unfold State.readStatus
  rw [if_pos]
  rw [hp]
  simpa [hl] using h

/-- The one read of a job whose frames have all left is over on its plane, which answers its command. -/
theorem State.ckptDone_eq {s : State} {k : PlaneIx} {x : CkptJob} (hx : (s.plane k).ckpts = [x]) (hst : x.started = true)
    (hr : s.readSent k x = true) (ho : ∀ q, q ≠ k → ∀ y ∈ (s.plane q).ckpts, y.job ≠ x.job) :
    s.ckptDone x.job = (s.updPlane k fun p => { p with ckpts := [] }).planeAnswer x.held k (s.readStatus k x)
      (leBytes 4 x.gen ++ zeros 4 ++ leBytes 8 x.bytes) := by
  have idle (u : State) (q : PlaneIx) (hq : ∀ y ∈ (u.plane q).ckpts, y.job ≠ x.job) :
      (u.plane q).ckpts.filter (fun c => c.job == x.job && c.started && u.readSent q c) = [] :=
    List.filter_eq_nil_iff.2 fun y hy => by simp [hq y hy]
  have hk : (s.plane k).ckpts.filter (fun c => c.job == x.job && c.started && s.readSent k c) = [x] := by simp [hx, hst, hr]
  have hf : (s.updPlane k fun p => { p with ckpts := p.ckpts.filter (·.held != x.held) }) = s.updPlane k fun p => { p with ckpts := [] } := by
    simp [State.updPlane, hx]
  unfold State.ckptDone
  rw [State.each_only (l := allPlanes) (List.nodup_finRange 8) (List.mem_finRange k)]
  · rw [hk, State.each_cons, State.each_nil, hf]
    rfl
  · intro q hq
    rw [idle s q (ho q hq), State.each_nil]
  · intro q hq
    rw [hk, State.each_cons, State.each_nil, idle _ q, State.each_nil]
    intro y hy
    rw [State.planeAnswer_plane, plane_updPlane_other _ _ _ _ hq] at hy
    exact ho q hq y hy

theorem ckptReadDone_answers {s : State} {k : PlaneIx} {x : CkptJob} {o : Held} (hx : (s.plane k).ckpts = [x]) (hst : x.started = true)
    (hr : s.readSent k x = true) (ho : ∀ q, q ≠ k → ∀ y ∈ (s.plane q).ckpts, y.job ≠ x.job) (hm : o ∈ s.host.held) (hid : o.id = x.held)
    (how : o.owes = [k.val]) (han : o.answers = []) (hu : ∀ y ∈ s.host.held, y.id = o.id → y = o) (hop : o.pkt.opcode = 0x0208) :
    Runs (.ckptReadDone x.job) s fun t => t.Answered o (s.readStatus k x) (statusBlock k (s.readStatus k x) ++
      (leBytes 4 x.gen ++ zeros 4 ++ leBytes 8 x.bytes)) ∧ (t.plane k).ckpts = [] := by
  have hs : (opScope o.pkt.opcode.toNat o.pkt.params).any Scope.planes = true := by rw [hop]; rfl
  have hw : (s.updPlane k fun p => { p with ckpts := [] }).WaitsFor k o := ⟨o, hm, rfl, rfl, how, han, rfl, hu⟩
  refine ⟨_, congrArg Host.Outcome.next (State.ckptDone_eq hx hst hr ho), ?_, ?_⟩
  · rw [← hid]
    exact State.planeAnswer_planes hw hs _ _
  · rw [State.planeAnswer_plane, plane_updPlane_same]

/-! ### Status frames (R174) -/

theorem Status.code_lt (st : Status) : st.code < 256 ^ 2 := by cases st <;> decide

/-- The fields of a status frame that name what it answers. -/
theorem statusFrame_fields (pj : Option PJob) (f : Frame) (st : Status) (chunk nmiss retry gen layer : Nat) :
    (statusFrame pj f st chunk nmiss retry gen layer).hdr.op = opStatus ∧
    (statusFrame pj f st chunk nmiss retry gen layer).hdr.bucket = f.hdr.bucket ∧
    fieldAt (statusFrame pj f st chunk nmiss retry gen layer).payload 2 2 = st.code ∧
    fieldAt (statusFrame pj f st chunk nmiss retry gen layer).payload 4 1 = f.hdr.op % 256 := by
  refine ⟨rfl, rfl, ?_, ?_⟩
  · simp only [statusFrame, List.append_assoc]
    have h := fieldAt_append_right (leBytes 2 f.hdr.job)
    simp only [leBytes_length] at h
    rw [h _ 0 2, fieldAt_leBytes_append, Nat.mod_eq_of_lt st.code_lt]
  · simp only [statusFrame, List.append_assoc]
    rw [← List.append_assoc]
    have h := fieldAt_append_right (leBytes 2 f.hdr.job ++ leBytes 2 st.code)
    simp only [List.length_append, leBytes_length] at h
    rw [h _ 0 1, fieldAt_leBytes_append, Nat.pow_one]

theorem devLane_planeOf_laneIn (d : DevLane) : devLane (planeOf d) (laneIn d) = d := by
  refine Fin.ext ?_
  simp only [devLane, planeOf, laneIn]
  omega

theorem State.replyTo_sends (s : State) (lane : DevLane) (src f : Frame) : s.Sends (s.replyTo lane src f) := by
  unfold State.replyTo
  dsimp only
  split
  · split
    · exact State.toDevice_sends ..
    · exact State.enqueue_sends ..
  · exact State.enqueue_sends ..

theorem State.status_sends (s : State) (lane : DevLane) (src : Frame) (st : Status) (retry gen layer : Nat) :
    s.Sends (s.status lane src st retry gen layer) := s.replyTo_sends ..

/-- A status frame to a member here whose lane is up is on its way. -/
theorem State.status_sent {s : State} {lane : DevLane} (h : s.MemberUp (planeOf lane) (laneIn lane)) (src : Frame) (st : Status)
    (retry gen layer : Nat) : (s.status lane src st retry gen layer).StatusSent lane src st := by
  have hp : s.isPeer lane = false := by rw [← devLane_planeOf_laneIn lane]; exact h.2
  unfold State.status State.replyTo
  simp only [hp, Bool.false_eq_true, if_false]
  exact ⟨_, State.enqueue_outgoing h _, statusFrame_fields ..⟩

/-! ### Words written into a share (R75) -/

/-- The indicative copy with words of one array, and its image, written from a position. -/
theorem Share.setInd_spec (h : Share) (a : List (List W32)) (img : List W16) :
    (h.setInd a img).bucket = h.bucket ∧ (h.setInd a img).ind = a ∧ (h.setInd a img).sub = h.sub ∧ (h.setInd a img).kblocks = h.kblocks ∧
    (h.setInd a img).indImg = img := by
  unfold Share.setInd Share.ind Share.sub Share.indImg
  split <;> simp

/-- Master words alone are written in a copy's first array. -/
theorem write_first (ws : List W32) (as : List (List W32)) (at' : Nat) (vs : List W32) :
    ((ws :: as).zipIdx.map fun x => if x.2 = 0 then writeWords x.1 at' vs else x.1) = writeWords ws at' vs :: as := by
  rw [List.zipIdx_cons, List.map_cons, if_pos rfl]
  congr 1
  refine List.ext_getElem (by simp) fun i h1 h2 => ?_
  simp

theorem State.writeArray_share {s : State} {k : PlaneIx} {id b : Nat} {h : Share} {ws : List W32} {as : List (List W32)}
    (hs : s.share k id b = some h) (hi : h.ind = ws :: as) (at' : Nat) (vs : List W32) :
    (s.writeArray k id b 0 at' vs).share k id b =
      some (h.setInd (writeWords ws at' vs :: as) (writeImage h.indImg at' vs).1) := by
  unfold State.writeArray
  rw [show (s.pjob k id).bind (·.findShare b) = some h from hs]
  simp only [if_true, hi, write_first]
  rw [(State.arith_sameShares ..).share, share_updShare_some hs fun h => (h.setInd_spec ..).1]

theorem State.writeArray_carries (s : State) (k : PlaneIx) (id b i at' : Nat) (vs : List W32) : s.Carries (s.writeArray k id b i at' vs) := by
  unfold State.writeArray
  split
  · exact .refl s
  · exact (State.Carries.updShare ..).trans (State.arith_carries ..)

/-! ### A `LOAD` frame (R76) -/

theorem State.admitSender_openOn {s : State} {lane : DevLane} {f : Frame} {g : Bool} {j : Job} {pj : PJob} {m : Nat}
    (h : s.admitSender lane f g = .ok (j, pj, m)) : s.openOn (planeOf lane) f.hdr.job = some (j, pj) := by
  unfold State.admitSender at h
  split at h
  · cases h
  · next j' pj' ho =>
    split at h
    · cases h
    · split at h
      · cases h
      · split at h
        · cases h
        · obtain ⟨rfl, rfl, -⟩ := by simpa using h
          exact ho

theorem State.handleBy_load (s : State) {x : Parked} (h : x.frame.hdr.op = opLoad) : s.handleBy x = s.load x.lane x.frame x.keep := by
  have ha : aboutCopy x.frame = false := by simp [aboutCopy, h, opLoad, opStatus]
  unfold State.handleBy
  rw [h, ha]
  rfl

/-- A `LOAD` frame that a receiver takes. -/
theorem loadFrame_runs {lane : DevLane} {f : RxFrame} {fr : Frame} {s : State} (h : s.Receives lane f [opLoad] fr) :
    ∃ kp, exec (.loadFrame lane f) s = .next ((s.landed lane f fr).load lane fr kp) := by
  obtain ⟨x, hl, hx, -, hw, hin⟩ := State.frameIn_receives h
  have hop : x.frame.hdr.op = opLoad := by rw [hx]; simpa using h.2.2.2.1
  refine ⟨x.keep, hin.trans ?_⟩
  rw [State.handle_eq_handleBy _ hw, State.handleBy_load _ hop, hl, hx]

theorem State.police_carries (s : State) (d : DevLane) (job n : Nat) : s.Carries (s.police d job n).2 := by
  have frmDrop (s : State) (k : PlaneIx) : s.Carries (s.frmDrop k) := by
    unfold State.frmDrop State.planeCtr
    exact .beside s k fun _ => ⟨rfl, rfl, rfl⟩
  have spent (s : State) (k : PlaneIx) (serve : Bool) : s.Carries (s.updPlane k fun p =>
      if serve then { p with tokServe := p.tokServe - n } else { p with tokLend := p.tokLend - n }) :=
    .beside s k fun p => by split <;> exact ⟨rfl, rfl, rfl⟩
  have billed (s : State) (k : PlaneIx) (id : Nat) (c : JCtr) (n : Nat) : s.Carries (s.jobCtr64 k id c n) := .updPJob s k id _
  unfold State.police
  dsimp only
  split
  · split
    · exact .refl s
    · split
      · exact (State.jobCtr_carries ..).trans (frmDrop ..)
      · exact (State.jobCtr_carries ..).trans (frmDrop ..)
      · exact (((State.Carries.updPJob ..).trans (spent ..)).trans (billed ..)).trans (billed ..)
  · exact .refl s

/-- The lane layer and the policer leave alone what is on its way out. -/
theorem State.landed_carries (s : State) (lane : DevLane) (f : RxFrame) (fr : Frame) : s.Carries (s.landed lane f fr) := by
  refine .trans ?_ (State.police_carries ..)
  exact .updLane s lane (fun _ => rfl) fun _ => List.Subset.refl _

section
variable {s : State} {lane : DevLane} {f : Frame} {j : Job} {pj : PJob} {m : Nat} {d : BucketDesc} {h : Share}

/-- A `LOAD` frame of a job that is not under restore writes master words; after it, frames alone go out: to the mirrors, and the status frame. -/
theorem State.load_writes (ha : s.admitSender lane f false = .ok (j, pj, m)) (hhome : s.homeDev j f.hdr.bucket = s.bidx)
    (hfs : pj.fs = .loading) (hre : pj.restore = false) (hk : pj.opt.kernel ≠ 0) (hc : f.hdr.comma = 0)
    (hd : j.bucketDesc f.hdr.bucket = some d) (hh : pj.findShare d.bucket = some h) (hrole : h.role = .home)
    (hok : j.chunkOk (planeOf lane) d f = true) (hfmt : fmtFloat f.hdr.fmt = true) (kp : Keep) :
    ∃ (u : State) (fl : W32), s.load lane f kp = u.status lane f .ok ∧
      let v := (s.arith (planeOf lane) j.id uCvt fl).writeArray (planeOf lane) j.id d.bucket 0 (h.posOf (d.chunkRange f.hdr.chunk).1)
        (decodeVals f.hdr.fmt (d.chunkRange f.hdr.chunk).2 f.payload)
      v.Sends u ∧ v.Carries u := by
  have hj : s.findJob f.hdr.job = some j := State.openOn_findJob (State.admitSender_openOn ha)
  have hint : fmtInt f.hdr.fmt = false := by
    simp only [fmtFloat, decide_eq_true_eq] at hfmt
    simp only [fmtInt, Bool.or_eq_false_iff, beq_eq_false_iff_ne]
    omega
  have hkept : h.kept = true := by rw [Share.kept, hrole]; rfl
  unfold State.load State.loadRows State.loadWrite loadVals
  simp only [ha, hj, hhome, hfs, hre, hk, hc, hd, hh, hkept, hok, hint, Option.map_some, Option.getD_some, bne_self_eq_false, Bool.and_false,
    Bool.false_and, Bool.false_eq_true, if_false, Bool.not_true, Bool.not_false, if_true, decide_false, Bool.or_false]
  refine ⟨_, _, rfl, .each (fun s _ => s.toDevice_sends ..) _ _, .each (fun s _ => s.toDevice_carries ..) _ _⟩

end

end Sys2Proof.Machine

section
open Sys2Proof Sys2Proof.Machine

/-- Settles O26: the job's one read that has left ends on its plane alone; a `LOAD` frame writes the share before any frame goes out. -/
theorem checkpointsReadAndLoad : Obligations.CheckpointsReadAndLoad := by
  refine ⟨?_, ?_⟩
  · intro k x o j pj s hx hst hr hj hp ho hm hid how han hu hop sec
    have h := ckptReadDone_answers hx hst hr ho hm hid how han hu hop
    refine ⟨fun hk => ?_, fun hl he => ?_⟩
    · rwa [State.readStatus_ok hp hk] at h
    · rwa [State.readStatus_check hp hl he] at h
  · intro lane f fr j pj m d h ws as s hrec k u ha hhome hid hst hfs hre hk hc hd hdb hh hrole hok hfmt hind r
    obtain ⟨kp, hx⟩ := loadFrame_runs hrec
    have hhome' : u.homeDev j fr.hdr.bucket = u.bidx := (s.landed_homeDev ..).trans (hhome.trans (s.landed_bidx ..).symm)
    obtain ⟨w, fl, hload, hsends, hcarries⟩ := State.load_writes ha hhome' hfs hre hk hc hd hh hrole hok hfmt kp
    refine ⟨_, hx.trans (congrArg _ hload), _, ?_, (h.setInd_spec _ _).2.1, (h.setInd_spec _ _).2.2.1, (h.setInd_spec _ _).2.2.2.1,
      (h.setInd_spec _ _).2.2.2.2, fun hp => ?_⟩
    · rw [(State.status_sends ..).sameShares.share, hsends.sameShares.share]
      refine State.writeArray_share ?_ hind ..
      rw [(State.arith_sameShares ..).share]
      exact State.openOn_share (State.admitSender_openOn ha) hh
    · refine State.status_sent (hcarries.up _ _ ((State.writeArray_carries ..).up _ _ ((State.arith_carries ..).up _ _
        ((s.landed_carries lane f fr).up _ _ ⟨?_, ?_⟩)))) ..
      · rw [devLane_planeOf_laneIn]; exact hrec.1
      · rw [devLane_planeOf_laneIn]; exact hp

end

/-! ## Kernel runs and root refreshes (R85, R86, R115, R116) -/

namespace Sys2Proof.Machine

/-! ### Items without a fault -/

/-- An item whose words have no fault stands as it is; only the sampling of check items moves (R237). -/
theorem State.checkItem_unfaulted (s : State) (k : PlaneIx) (redund : Nat) (e : ErrInfo) (ws : List W32) (lane : Nat → Nat) :
    s.checkItem k redund e ws [] lane = (ws, false, (s.itemChecked k e.block redund).2) := by
  simp [State.checkItem, settleItem]

theorem State.checkItems_unfaulted (s : State) (k : PlaneIx) (redund : Nat) (e : ErrInfo) (ws : List W32) (items : Nat) (itemOf lane : Nat → Nat) :
    ∃ t, s.checkItems k redund e ws [] items itemOf lane = (ws, false, t) ∧ s.Calm t := by
  unfold State.checkItems
  generalize List.range items = l
  induction l generalizing s with
  | nil => exact ⟨s, rfl, .refl s⟩
  | cons i l ih =>
    obtain ⟨t, ht, hc⟩ := ih (s.itemChecked k e.block redund).2
    refine ⟨t, ?_, (s.itemChecked_calm ..).trans hc⟩
    rw [List.foldl_cons, List.filter_nil, State.checkItem_unfaulted]
    exact ht

theorem State.checkVector_unfaulted (s : State) (k : PlaneIx) (redund : Nat) (e : ErrInfo) (n : Nat) (ws : List W32) :
    ∃ t, s.checkVector k redund e n ws [] = (ws, false, t) ∧ s.Calm t := s.checkItems_unfaulted ..

theorem State.checkTiles_unfaulted (s : State) (k : PlaneIx) (redund : Nat) (e : ErrInfo) (b : Nat) (ws : List W32) :
    ∃ t, s.checkTiles k redund e b ws [] = (ws, false, t) ∧ s.Calm t := by
  unfold State.checkTiles
  exact s.checkItems_unfaulted ..

/-! ### The root of a side (R115) -/

/-- A checked computation goes on: nothing stayed unresolved, and the state keeps what a computation does not write. -/
structure Checked.Follows (c c' : Checked) : Prop where
  calm : c.s.Calm c'.s
  bad : c'.bad = c.bad

theorem Checked.Follows.trans {a b c : Checked} (h : a.Follows b) (g : b.Follows c) : a.Follows c :=
  ⟨h.calm.trans g.calm, g.bad.trans h.bad⟩

section
variable (c : Checked) (k : PlaneIx) (redund : Nat) (e : ErrInfo)

theorem Checked.vec_unfaulted (n base : Nat) (l : List FR) :
    ∃ c', c.vec k redund e n [] base l = (frWords l, c') ∧ c.Follows c' := by
  obtain ⟨t, ht, hc⟩ := c.s.checkVector_unfaulted k redund e n (frWords l)
  unfold Checked.vec
  rw [show shiftFaults [] base l.length = [] from rfl, ht]
  exact ⟨_, rfl, hc, Bool.or_false _⟩

theorem Checked.mat_unfaulted (b base : Nat) (l : List FR) :
    ∃ c', c.mat k redund e b [] base l = (frWords l, c') ∧ c.Follows c' := by
  obtain ⟨t, ht, hc⟩ := c.s.checkTiles_unfaulted k redund e b (frWords l)
  unfold Checked.mat
  rw [show shiftFaults [] base l.length = [] from rfl, ht]
  exact ⟨_, rfl, hc, Bool.or_false _⟩

theorem laneSquares_length (ls : List FR) (xs : List W32) : (laneSquares ls xs).length = ls.length := by
  induction ls generalizing xs with
  | nil => cases xs <;> rfl
  | cons l ls ih => cases xs <;> simp [laneSquares, ih]

theorem squareLanes_length (xs : List W32) : (squareLanes xs).length = 512 := by
  have keep (ps : List (List W32)) (ls : List FR) : (ps.foldl laneSquares ls).length = ls.length := by
    induction ps generalizing ls with
    | nil => rfl
    | cons p ps ih => rw [List.foldl_cons, ih, laneSquares_length]
  exact (keep ..).trans List.length_replicate

/-- With the lane sums standing, the total that follows them is the sum of squares (R66). -/
theorem Checked.squares_unfaulted (base : Nat) (xs : List W32) :
    ∃ c', c.squares k redund e [] base xs = ((sumSquares xs).1, c') ∧ c.Follows c' := by
  obtain ⟨c', hv, hf⟩ := c.vec_unfaulted k redund e 512 base (squareLanes xs ++ [sumSquares xs])
  refine ⟨c', ?_, hf⟩
  have hl : (frWords (squareLanes xs)).length = 512 := by simp [frWords, squareLanes_length]
  have hw : frWords (squareLanes xs ++ [sumSquares xs]) = frWords (squareLanes xs) ++ [(sumSquares xs).1] := by simp [frWords]
  unfold Checked.squares
  dsimp only
  rw [hv, hw]
  dsimp only
  rw [List.take_left' hl, if_pos rfl, ← hl]
  simp

/-- The checked iterations settle on the iterates of R115. -/
theorem Checked.newton_unfaulted (b : Nat) (n base : Nat) (y z : List W32) (fv fm : W32) :
    ∃ c', Checked.newton k redund e b [] n base y z c = ((newtonIter b n (y, z, fv, fm)).2.1, c') ∧ c.Follows c' := by
  induction n generalizing base y z fv fm c with
  | zero => exact ⟨c, rfl, .refl _, rfl⟩
  | succ n ih =>
    obtain ⟨c1, h1, f1⟩ := c.mat_unfaulted k redund e b base (matMul b z y)
    obtain ⟨c2, h2, f2⟩ := c1.vec_unfaulted k (redund / 2 * 2) e (b * b) (base + b * b) (newtonT b (frWords (matMul b z y)))
    obtain ⟨c3, h3, f3⟩ := c2.mat_unfaulted k redund e b (base + 2 * (b * b)) (matMul b y (frWords (newtonT b (frWords (matMul b z y)))))
    obtain ⟨c4, h4, f4⟩ := c3.mat_unfaulted k redund e b (base + 3 * (b * b)) (matMul b (frWords (newtonT b (frWords (matMul b z y)))) z)
    obtain ⟨c5, h5, f5⟩ := ih c4 (base + 4 * (b * b)) _ _ _ _
    refine ⟨c5, ?_, f1.trans (f2.trans (f3.trans (f4.trans f5)))⟩
    simp only [Checked.newton, h1, h2, h3, h4]
    exact h5

/-- A checked root is the one of R115. -/
theorem Checked.root_unfaulted (p : PrecBlock) (stat : List W32) : ∃ c', c.root k redund e p stat [] =
    (frWords (rootScale (rootRefresh p stat).1 (rootRefresh p stat).2.1.1), c') ∧ c.Follows c' := by
  obtain ⟨b, hb⟩ : ∃ b, blockEdge p = b := ⟨_, rfl⟩
  obtain ⟨full, hfull⟩ : ∃ full, redund / 2 * 2 = full := ⟨_, rfl⟩
  obtain ⟨sd, hsd⟩ : ∃ sd, frWords (dampStat p stat) = sd := ⟨_, rfl⟩
  obtain ⟨fn, hfn⟩ : ∃ fn, frSqrt (frOf (sumSquares sd).1) = fn := ⟨_, rfl⟩
  obtain ⟨y, hy⟩ : ∃ y, (sd.map fun w => frMul (frOf w) (frOf (frDiv (frOf fone) fn).1)) = y := ⟨_, rfl⟩
  have hz : (newtonIter b p.nsiter (frWords y, identity b, 0, 0)).2.1 = (rootRefresh p stat).1 := by
    subst hb hsd hfn hy; rfl
  have hk : (frDiv (frOf fone) (frSqrt fn)).1 = (rootRefresh p stat).2.1.1 := by
    subst hsd hfn; rfl
  obtain ⟨c1, h1, f1⟩ := c.vec_unfaulted k full e (b * b) 0 (dampStat p stat)
  obtain ⟨c2, h2, f2⟩ := c1.squares_unfaulted k full e (b * b) sd
  obtain ⟨c3, h3, f3⟩ := c2.vec_unfaulted k full e 512 (b * b + 513) [frDiv (frOf fone) fn, frDiv (frOf fone) (frSqrt fn)]
  obtain ⟨c4, h4, f4⟩ := c3.vec_unfaulted k full e (b * b) (b * b + 515) y
  obtain ⟨c5, h5, f5⟩ := Checked.newton_unfaulted { c4 with fv := c4.fv ||| inFlagsAll stat } k redund e b p.nsiter (2 * (b * b) + 515)
    (frWords y) (identity b) 0 0
  obtain ⟨c6, h6, f6⟩ := c5.vec_unfaulted k full e (b * b) (2 * (b * b) + 515 + 4 * (b * b) * p.nsiter)
    (rootScale (rootRefresh p stat).1 (rootRefresh p stat).2.1.1)
  refine ⟨c6, ?_, f1.trans (f2.trans (f3.trans (f4.trans (.trans ⟨f5.calm, f5.bad⟩ f6))))⟩
  have hks : frWords [frDiv (frOf fone) fn, frDiv (frOf fone) (frSqrt fn)] = [(frDiv (frOf fone) fn).1, (rootRefresh p stat).2.1.1] := by
    rw [← hk]; rfl
  simp only [Checked.root, hb, hfull, h1, hsd, h2, hfn, h3, hks, List.getD_cons_zero, List.getD_cons_succ, hy, h4, h5, hz, h6]

end

/-! ### A refresh (R115, R116) -/

theorem Share.updBlock_get {h : Share} {q : Nat} {x : KBlock} (hx : h.kblocks[q]? = some x) (f : KBlock → KBlock) :
    (h.updBlock q f).kblocks[q]? = some (f x) := by
  simp [Share.updBlock, List.getElem?_zipIdx, hx]

section
variable {s : State} {k : PlaneIx} {id b qi i side : Nat} {xs : List (Nat × Nat)} {j : Job} {pj : PJob} {h : Share} {q : KBlock}

/-- A refresh without a fault stages the root of R115 in its block. -/
theorem State.refreshRoot_stages (hp : s.pjob k j.id = some pj) (hb : pj.blockList[i]? = some (b, qi)) (hh : pj.findShare b = some h)
    (hq : h.kblocks[qi]? = some q) :
    let r := rootRefresh pj.prec (pj.statOf q side)
    ∃ pj' h', (s.refreshRoot k j i side {}).pjob k j.id = some pj' ∧ pj'.refreshQ = pj.refreshQ ∧ pj'.findShare b = some h' ∧
      h'.kblocks[qi]? = some (q.stage side (frWords (rootScale r.1 r.2.1.1))) := by
  intro r
  have hbl : (pj.blockList[i]?.bind fun x => (pj.findShare x.1).bind fun h => h.kblocks[x.2]?.map fun q => (x, q)) = some ((b, qi), q) := by
    simp [hb, hh, hq]
  obtain ⟨c, hc, hf⟩ := Checked.root_unfaulted ({ s := s } : Checked) k j.hdr.redund
    { block := 7, cls := 0, job := j.id, op := 4, opk := 7, bucket := b, kernel := 4, poisons := false } pj.prec (pj.statOf q side)
  unfold State.refreshRoot State.refreshFrom
  simp only [hp, hbl]
  rw [hc]
  simp only [hf.bad, Bool.false_eq_true, if_false]
  let staged (h : Share) : Share := h.updBlock qi fun q => q.stage side (frWords (rootScale r.1 r.2.1.1))
  refine ⟨((pj.flagged (unitFlags uVec c.fv)).flagged (unitFlags uMat c.fm)).updShare b staged, staged h, ?_, rfl, ?_,
    Share.updBlock_get hq _⟩
  · unfold State.updShare
    rw [pjob_updPJob_same, State.arith_pjob, State.arith_pjob, hf.calm.pjob, hp]
    · rfl
    · exact fun _ => rfl
  · exact (PJob.findShare_updShare _ b staged fun _ => rfl).trans (congrArg _ hh)

theorem State.refreshDone_stages (hj : s.findJob id = some j) (hp : s.pjob k id = some pj) (hr : pj.refreshQ = (i, side) :: xs)
    (ht : s.refreshTurn k id = true) (hb : pj.blockList[i]? = some (b, qi)) (hh : pj.findShare b = some h) (hq : h.kblocks[qi]? = some q) :
    let r := rootRefresh pj.prec (pj.statOf q side)
    ∃ pj' h', (s.refreshDone k id {}).pjob k id = some pj' ∧ pj'.refreshQ = xs ∧ pj'.findShare b = some h' ∧
      h'.kblocks[qi]? = some (q.stage side (frWords (rootScale r.1 r.2.1.1))) := by
  have hp' : (s.updPJob k id fun pj => { pj with refreshQ := xs }).pjob k id = some { pj with refreshQ := xs } := by
    rw [pjob_updPJob_same, hp]
    · rfl
    · exact fun _ => rfl
  have hdone : s.refreshDone k id {} = (s.updPJob k id fun pj => { pj with refreshQ := xs }).refreshRoot k j i side {} := by
    unfold State.refreshDone
    simp only [hj, hp, hr, ht, State.ctlFault, State.parityRead, hp', Bool.not_true, Bool.false_eq_true, if_false, if_true, Option.isNone_some,
      Bool.or_false]
  obtain rfl : j.id = id := State.findJob_id hj
  rw [hdone]
  exact State.refreshRoot_stages hp' hb hh hq

end

/-! ### A kernel run (R85, R86) -/

theorem Plane.flowFuel_core (n : Nat) (p : Plane) : (p.flowFuel n).core = p.core := by
  induction n generalizing p with
  | zero => rfl
  | succ n ih =>
    unfold Plane.flowFuel
    split
    · rfl
    · split
      · exact ih _
      · split
        · rfl
        · exact ih _

theorem Plane.flow_core (p : Plane) : p.flow.core = p.core := by
  unfold Plane.flow
  dsimp only
  split
  · exact p.flowFuel_core _
  · exact p.flowFuel_core _

theorem State.sendBlocks_calm (s : State) (k : PlaneIx) (id b words : Nat) : s.Calm (s.sendBlocks k id b words) := by
  refine .updPlane s k fun p => (Plane.flow_core _).trans ?_
  generalize List.range _ = l
  induction l generalizing p with
  | nil => rfl
  | cons i l ih => exact ih _

theorem State.sendPSN_sends (s : State) (k : PlaneIx) (j : Job) (b gen : Nat) (arr : List (List W32 × List W32)) :
    s.Sends (s.sendPSN k j b gen arr) :=
  .each (fun s _ => .each (fun s _ => (s.sendArray_sends ..).trans (State.sendArray_sends ..)) _ s) _ s

/-- The items of a list read by their positions. -/
theorem map_getD_range {α : Type} (l : List α) (d : α) : ((List.range l.length).map fun i => l.getD i d) = l :=
  List.ext_getElem (by simp) fun i _ h => by simp [h]

/-- Rows of one length, set out in a line, are cut apart again. -/
theorem map_take_drop_flatten {α : Type} {n : Nat} : ∀ {l : List (List α)}, (∀ a ∈ l, a.length = n) →
    ((List.range l.length).map fun i => (l.flatten.drop (i * n)).take n) = l
  | [], _ => rfl
  | a :: l, h => by
    obtain ⟨ha, hl⟩ := List.forall_mem_cons.1 h
    rw [List.length_cons, List.range_succ_eq_map, List.map_cons, List.map_map, List.flatten_cons]
    refine congrArg₂ List.cons ?_ (.trans (List.map_congr_left fun i _ => ?_) (map_take_drop_flatten hl))
    · rw [Nat.zero_mul, List.drop_zero, List.take_left' ha]
    · rw [Function.comp_apply, Nat.succ_mul, Nat.add_comm, ← List.drop_drop, List.drop_left' ha]

/-- A share as a kernel leaves it: the subjunctive copy written, the indicative one in place. -/
structure Share.Ran (h : Share) (arrays : List (List W32)) (h' : Share) : Prop where
  sub : h'.sub = arrays
  ind : h'.ind = h.ind
  indImg : h'.indImg = h.indImg
  sel : h'.sel = h.sel
  ran : h'.kernelRan = true

theorem Share.setSub_ran (h : Share) (qs : List KBlock) (a : List (List W32)) (img : List W16) :
    h.Ran a { ({ h with kblocks := qs } : Share).setSub a img with kernelRan := true } := by
  unfold Share.setSub
  cases e : h.sel <;> constructor <;> simp [Share.sub, Share.ind, Share.indImg, e]

theorem Share.setSub_bucket (h : Share) (a : List (List W32)) (img : List W16) : (h.setSub a img).bucket = h.bucket := by
  unfold Share.setSub
  split <;> rfl

/-- The vector kernels of R80 to R82 do not fault. -/
theorem kVector_fault {kc : KConst} (hk : kc.opt.kernel ∈ [1, 2, 3]) (img : List Byte) (rs : List W32) (as : List (List W32)) :
    (kVector img kc rs as).fault = none := by
  have h : kernelOf kc.opt.kernel = .momentum ∨ kernelOf kc.opt.kernel = .adaptive ∨ kernelOf kc.opt.kernel = .layerwise := by
    simp only [List.mem_cons, List.not_mem_nil, or_false] at hk
    obtain h | h | h := hk <;> simp [h, kernelOf]
  unfold kVector
  obtain h | h | h := h <;> rw [h] <;> rfl

section
variable {s : State} {k : PlaneIx} {b : Nat} {j : Job} {pj : PJob} {h : Share}

/-- A vector kernel without a fault writes what it gives into the subjunctive copy, and finds nothing wrong. -/
theorem State.runKernel_vector (hp : s.pjob k j.id = some pj) (hh : pj.findShare b = some h) (hk : pj.opt.kernel ∈ [1, 2, 3])
    (hq : h.kblocks = []) (c : W32) (redund opk : Nat) (own : Bool) (gen : Nat) (vals : List W32) :
    let out := kVector j.kimg (stepConsts pj.opt pj.orec.pow1 pj.orec.pow2 pj.u c).1 vals h.ind
    out.arrays.length = wordsOf pj.opt → (∀ a ∈ out.arrays, a.length = vals.length) →
    let r := s.runKernel k j b c redund opk own gen vals []
    r.bad = false ∧ r.fault = false ∧ r.ovf = false ∧ ∃ h', r.s.share k j.id b = some h' ∧ h.Ran out.arrays h' := by
  intro out hn hl
  have h4 : pj.opt.kernel ≠ 4 := by rintro e; simp [e] at hk
  have hf : out.fault = none := kVector_fault hk ..
  have hkr (e : ErrInfo) (kc : KConst) : s.kronBlocks k j pj h kc redund e own gen vals [] = { s := s } := by
    simp [State.kronBlocks, hq]
  have ho : kVector j.kimg (stepConsts pj.opt pj.orec.pow1 pj.orec.pow2 pj.u c).1 vals h.ind = out := rfl
  have hrows : ((List.range (wordsOf pj.opt)).map fun i => out.arrays.getD i []) = out.arrays := hn ▸ map_getD_range ..
  have hcut : ((List.range (wordsOf pj.opt)).map fun i => (out.arrays.flatten.drop (i * vals.length)).take vals.length) = out.arrays :=
    hn ▸ map_take_drop_flatten hl
  obtain ⟨t, ht, hc⟩ := (s.arith k j.id uVec ((koutOf (wordsOf pj.opt) []).flags ||| out.flags)).checkVector_unfaulted k redund
    { block := 6, cls := 0, job := j.id, op := pj.opt.kernel, opk := opk, bucket := b, kernel := pj.opt.kernel, poisons := opk != 5 }
    vals.length out.arrays.flatten
  have hs : t.share k j.id b = some h := by
    rw [hc.share, (State.arith_sameShares ..).share, State.share_of_findShare hp hh]
  unfold State.runKernel
  simp only [hp, Option.bind_some, hh, h4, hkr, List.drop_zero, List.map_id', ho, hf, if_true, if_false, decide_false, Bool.false_and,
    Bool.false_eq_true, List.nil_append, List.filter_nil, hrows, ht, hcut]
  refine ⟨rfl, rfl, trivial, _, share_updShare_some ?_ fun h => ?_, Share.setSub_ran ..⟩
  · rw [(State.arith_sameShares ..).share]
    exact hs
  · exact Share.setSub_bucket ..

/-- A share whose kernel may not run has its slots released. -/
theorem State.kernelRun_skips {e : QEntry} (hj : s.findJob e.job = some j) (hp : s.pjob k e.job = some pj)
    (hh : pj.findShare e.bucket = some h) (hskip : pj.skipKernel s.bidx h = true) (flt : ItemFault) :
    (s.kernelRun k e flt).share k e.job e.bucket = some h.release := by
  have hid : j.id = e.job := State.findJob_id hj
  unfold State.kernelRun
  simp only [hj, hp, Option.bind_some, hh, hskip, if_true, hid]
  rw [(State.checkPair_sameShares ..).share]
  exact share_updShare_some (State.share_of_findShare hp hh) fun _ => rfl

/-- A vector kernel runs on a share, whose slots are then released. -/
theorem State.kernelRun_vector {e : QEntry} (hj : s.findJob e.job = some j) (hp : s.pjob k e.job = some pj)
    (hh : pj.findShare e.bucket = some h) (hskip : pj.skipKernel s.bidx h = false) (hk : pj.opt.kernel ∈ [1, 2, 3]) (hq : h.kblocks = []) :
    let out := kVector j.kimg (stepConsts pj.opt pj.orec.pow1 pj.orec.pow2 pj.u fone).1 h.reduced h.ind
    out.arrays.length = wordsOf pj.opt → (∀ a ∈ out.arrays, a.length = h.reduced.length) →
    ∃ h', (s.kernelRun k e {}).share k e.job e.bucket = some h'.release ∧ h.Ran out.arrays h' := by
  intro out hn hl
  have hid : j.id = e.job := State.findJob_id hj
  obtain ⟨hbad, hfault, hovf, h', hs, hran⟩ := State.runKernel_vector (hid ▸ hp) hh hk hq fone j.hdr.redund 4 (h.role == .home) pj.subgen
    h.reduced hn hl
  refine ⟨h', ?_, hran⟩
  rw [hid] at hs
  unfold State.kernelRun
  simp only [hj, hp, Option.bind_some, hh, hskip, State.ctlFault, State.parityRead, hid, hbad, hfault, hovf, if_true, if_false,
    Bool.false_eq_true, Bool.or_false, Bool.false_and, Option.isNone_some]
  rw [(State.checkPair_sameShares ..).share]
  refine share_updShare_some ?_ fun _ => rfl
  rw [(State.sendBlocks_calm ..).share]
  split
  · rw [(State.sendPSN_sends ..).sameShares.share, hs]
  · exact hs

end

/-- The sequencer takes an entry of the Complete queue; what passes through the queues leaves the plane's jobs. -/
theorem execKernelRun_takes {s : State} {k : PlaneIx} {e : QEntry} (hs : (s.plane k).qResult.stalled 256 = false)
    (he : ((s.plane k).qComplete.taken ++ (s.plane k).qComplete.entries).find? (s.kernelReady k) = some e) :
    ∃ u, s.Calm u ∧ u.bidx = s.bidx ∧ ∀ flt, execKernelRun k flt s = .next (u.kernelRun k e flt) := by
  refine ⟨s.updPlane k fun p => Plane.flow { p with qComplete := p.qComplete.takeOne e }, .updPlane s k fun p => Plane.flow_core _, rfl,
    fun flt => ?_⟩
  unfold execKernelRun
  rw [hs, he]
  rfl

end Sys2Proof.Machine

section
open Sys2Proof Sys2Proof.Machine

/-- Settles O30: without a fault, a run writes what the kernel gives and a refresh stages the root of R115. -/
theorem kernelsAndRefreshes : Obligations.KernelsAndRefreshes := by
  refine ⟨?_, ?_⟩
  · intro k e j pj h s he hj hp hh
    refine ⟨fun hs => ⟨s, by simp [exec, execKernelRun, hs], rfl⟩, fun hs => ?_⟩
    obtain ⟨u, hc, hb, hx⟩ := execKernelRun_takes hs he
    have hj' : u.findJob e.job = some j := by unfold State.findJob; rw [hc.jobs]; exact hj
    have hp' : u.pjob k e.job = some pj := (hc.pjob ..).trans hp
    refine ⟨fun hskip => ⟨_, hx {}, State.kernelRun_skips hj' hp' hh (hb ▸ hskip) _⟩, fun hskip hk hq => ?_⟩
    intro kc out hn hl
    obtain ⟨h', hs', hran⟩ := State.kernelRun_vector hj' hp' hh (hb ▸ hskip) hk hq hn hl
    exact ⟨_, hx {}, _, hs', hran.sub, hran.ind, hran.indImg, hran.sel, hran.ran, rfl, rfl⟩
  · intro k id i side b qi xs j pj h q s hj hp hr ht hb hh hq r
    exact ⟨_, rfl, State.refreshDone_stages hj hp hr ht hb hh hq⟩

end

/-! ## A plane takes the opening of a job (R75, R77, R111, R230) -/

namespace Sys2Proof.Machine

/-! ### The identity matrix -/

/-- Rows of one length, set out in a line: item `c` of row `r`. -/
theorem getElem?_flatten_row {α : Type} {n r c : Nat} {l : List (List α)} (hl : ∀ a ∈ l, a.length = n) (hr : r < l.length) (hc : c < n) :
    l.flatten[r * n + c]? = l[r][c]? := by
  have hrow : (l.flatten.drop (r * n)).take n = l[r] := by
    have h := congrArg (·[r]?) (map_take_drop_flatten hl)
    simpa [hr] using h
  rw [← hrow, List.getElem?_take_of_lt hc, List.getElem?_drop]

/-- The rows of the identity matrix. -/
def identityRows (b : Nat) : List (List W32) := (List.range b).map fun y => (List.range b).map fun x => if x = y then fone else 0

theorem identity_eq_flatten (b : Nat) : identity b = (identityRows b).flatten := List.flatMap_def

theorem identityRows_row {b : Nat} : ∀ a ∈ identityRows b, a.length = b := by
  simp [identityRows]

theorem identity_length (b : Nat) : (identity b).length = b * b := by
  simp [identity, List.length_flatMap]

/-- The identity matrix has 1.0 on its diagonal and +0 elsewhere (R111). -/
theorem identity_getElem? {b r c : Nat} (hr : r < b) (hc : c < b) : (identity b)[r * b + c]? = some (if r = c then fone else 0) := by
  have hlen : r < (identityRows b).length := by simpa [identityRows] using hr
  rw [identity_eq_flatten, getElem?_flatten_row identityRows_row hlen hc]
  simp [identityRows, hc, eq_comm]

/-! ### The shares as the job opens -/

/-- Both copies of a share are +0, copy A is the indicative one, and its KRONECKER blocks of edge `b` are fresh (R75, R111). -/
structure Share.Opened (h : Share) (b : Nat) : Prop where
  copies : ∀ a ∈ h.ind ++ h.sub, ∀ w ∈ a, w = 0
  sel : h.sel = false
  blocks : ∀ q ∈ h.kblocks, q = KBlock.fresh b

/-- Every word of both copies of a share with cleared copies is +0 (R75). -/
theorem Share.zeroCopies_copies (h : Share) (o : OptBlock) : ∀ a ∈ (h.zeroCopies o).ind ++ (h.zeroCopies o).sub, ∀ w ∈ a, w = 0 := by
  have hsub : (h.zeroCopies o).sub = (h.zeroCopies o).ind := by
    unfold Share.sub Share.ind Share.zeroCopies
    split <;> rfl
  rw [hsub]
  exact fun a ha => h.zeroCopies_ind o a ((List.mem_append.1 ha).elim id id)

theorem State.openShareOf_opened (s : State) (j : Job) (k : PlaneIx) (d : BucketDesc) :
    (s.openShareOf j k d).Opened (blockEdge j.hdr.prec) := by
  unfold State.openShareOf
  dsimp only
  split
  · exact ⟨by simp [Share.ind, Share.sub], rfl, by simp⟩
  · refine ⟨Share.zeroCopies_copies _ _, rfl, fun q hq => ?_⟩
    split at hq
    · exact List.eq_of_mem_replicate hq
    · cases hq

theorem State.openPJob_share {s : State} {j : Job} {k : PlaneIx} {phys : List Nat} {n : Nat} {h : Share}
    (hh : (s.openPJob j k phys).findShare n = some h) : h.Opened (blockEdge j.hdr.prec) := by
  obtain ⟨d, -, rfl⟩ := List.mem_map.1 (List.mem_of_find?_eq_some hh)
  exact s.openShareOf_opened j k d

/-! ### Taking `JOB_OPEN` -/

theorem State.wakeLane_sends (s : State) (d : DevLane) : s.Sends (s.wakeLane d) := by
  unfold State.wakeLane
  split
  · exact .updLane ..
  · exact .refl s

/-- A job that a plane does not yet hold is found there once it is added. -/
theorem pjob_updPlane_added {s : State} {k : PlaneIx} {pj : PJob} {f : Plane → Plane} (hf : ∀ p, (f p).jobs = p.jobs ++ [pj])
    (hp : s.pjob k pj.id = none) : (s.updPlane k f).pjob k pj.id = some pj := by
  unfold State.pjob Plane.findPJob at *
  rw [plane_updPlane_same, hf, List.find?_append, hp]
  simp

/-- A plane that takes `JOB_OPEN` of an active job that it does not hold answers `OK` and holds the job as it opens. -/
theorem jobOpen_taken {s : State} {k : PlaneIx} {rest : List PlaneCmd} {o : Held} {j : Job}
    (h : s.TakesNext k { held := o.id, pkt := o.pkt } rest o) (hop : o.pkt.opcode = 0x0203) (hj : s.findJob o.pkt.job = some j)
    (ha : j.st.isActive = true) (hp : s.pjob k o.pkt.job = none) :
    Runs (.planeCommandTake k) s fun t => t.Answered o .ok o.extra ∧
      t.pjob k o.pkt.job = some (s.openPJob j k ((s.plane k).freeSync.take j.hdr.syncn)) := by
  refine planeCommandTake_runs h fun t ht => ?_
  have hcmd : t.takeCmd k { held := o.id, pkt := o.pkt } = t.takeJobOpen k { held := o.id, pkt := o.pkt } := by
    rw [State.takeCmd, hop]; rfl
  have hs : (opScope o.pkt.opcode.toNat o.pkt.params).any Scope.planes = false := by rw [hop]; rfl
  have hid : j.id = o.pkt.job := State.findJob_id hj
  have hpt : t.pjob k j.id = none := by rw [ht.pjob, hid, hp]
  have hopen : t.openPJob j k ((t.plane k).freeSync.take j.hdr.syncn) = s.openPJob j k ((s.plane k).freeSync.take j.hdr.syncn) := by
    rw [ht.plane, ht.frame]; rfl
  rw [hcmd, State.takeJobOpen, (ht.findJob _).trans hj]
  simp only [ha, hpt, hopen, Bool.not_true, Option.isSome_none, Bool.false_eq_true, if_false]
  refine ⟨State.planeAnswer_job ?_ hs (by rw [hop]; decide) (by rw [hop]; decide) .ok [], ?_⟩
  · rw [(State.Sends.each (fun s _ => s.wakeLane_sends _) _ _).planes]
    exact ht.waits
  · rw [State.planeAnswer_pjob, (State.Sends.each (fun s _ => s.wakeLane_sends _) _ _).calm.pjob, ← hid]
    exact pjob_updPlane_added (pj := s.openPJob j k _) (fun _ => rfl) hpt

end Sys2Proof.Machine

section
open Sys2Proof Sys2Proof.Machine

/-- Settles O60: the plane keeps the job's record as it opens, of which every share is cleared and every block fresh. -/
theorem openedSharesStartFromZero : Obligations.OpenedSharesStartFromZero := by
  intro k x rest o j s h hop hj _ hst hp
  obtain rfl := h.cmd_eq
  obtain ⟨t, ht, hans, hpj⟩ := jobOpen_taken h hop hj (by rw [hst]; rfl) hp
  refine ⟨t, ht, hans, _, hpj, rfl, rfl, rfl, rfl, rfl, rfl, rfl, fun n g hg => ?_⟩
  obtain ⟨hcopies, hsel, hblocks⟩ := State.openPJob_share hg
  refine ⟨hcopies, hsel, fun q hq => ?_⟩
  rw [hblocks q hq]
  exact ⟨by simp [KBlock.fresh], rfl, rfl, List.length_replicate, List.length_replicate, List.length_replicate, identity_length _, rfl,
    fun r c => identity_getElem?⟩

end

/-! ## What waits on a plane for its moment (R131, R136, R155 to R158, R308)

Commands and member fences wait on a plane for an apply point, members for an object, and results for acknowledgement.  `State.SameAgenda` says
once which operations leave all of that alone. -/

namespace Sys2Proof.Machine

/-- What waits on a plane for an apply point, for an object, and for acknowledgement. -/
def Plane.agenda (p : Plane) : List PlaneCmd × List (Nat × Nat) × List Wait × List Retained := (p.applyQ, p.fenceQ, p.waits, p.retained)

/-- Every plane keeps its agenda, and every job on it the members counted as fenced. -/
structure State.SameAgenda (s t : State) : Prop where
  agenda : ∀ q, (t.plane q).agenda = (s.plane q).agenda
  fenced : ∀ q id, (t.pjob q id).map (·.fenced) = (s.pjob q id).map (·.fenced)

section
variable {s t u : State}

theorem State.SameAgenda.refl (s : State) : s.SameAgenda s := ⟨fun _ => rfl, fun _ _ => rfl⟩

theorem State.SameAgenda.trans (h : s.SameAgenda t) (g : t.SameAgenda u) : s.SameAgenda u :=
  ⟨fun q => (g.agenda q).trans (h.agenda q), fun q id => (g.fenced q id).trans (h.fenced q id)⟩

theorem State.SameAgenda.applyQ (h : s.SameAgenda t) (q : PlaneIx) : (t.plane q).applyQ = (s.plane q).applyQ := congrArg (·.1) (h.agenda q)

theorem State.SameAgenda.fenceQ (h : s.SameAgenda t) (q : PlaneIx) : (t.plane q).fenceQ = (s.plane q).fenceQ := congrArg (·.2.1) (h.agenda q)

theorem State.SameAgenda.waits (h : s.SameAgenda t) (q : PlaneIx) : (t.plane q).waits = (s.plane q).waits := congrArg (·.2.2.1) (h.agenda q)

theorem State.SameAgenda.retained (h : s.SameAgenda t) (q : PlaneIx) : (t.plane q).retained = (s.plane q).retained :=
  congrArg (·.2.2.2) (h.agenda q)

theorem State.Sends.sameAgenda (h : s.Sends t) : s.SameAgenda t where
  agenda q := by rw [h.plane q]; rfl
  fenced q id := by rw [h.calm.toQuiet.pjob]

/-- What an update of one job's record leaves of it is what is read of every job's record. -/
theorem Plane.findPJob_updPJob_map {β : Type} {π : PJob → β} {g : PJob → PJob} (hi : ∀ a, (g a).id = a.id) (hg : ∀ a, π (g a) = π a)
    (p : Plane) (i id : Nat) : ((p.updPJob i g).findPJob id).map π = (p.findPJob id).map π := by
  have hid : ((fun a : PJob => a.id == id) ∘ fun a => if a.id == i then g a else a) = fun a => a.id == id := by
    funext a
    simp only [Function.comp_apply]
    split <;> simp [hi]
  have hπ : (π ∘ fun a : PJob => if a.id == i then g a else a) = π := by
    funext a
    simp only [Function.comp_apply]
    split <;> simp [hg]
  unfold Plane.findPJob Plane.updPJob
  rw [List.find?_map, hid, Option.map_map, hπ]

/-- A plane's jobs may be brought up to date in everything but their identifiers and the members they count as fenced. -/
theorem State.SameAgenda.updPlane (s : State) (k : PlaneIx) (id : Nat) {f : Plane → Plane} {g : PJob → PJob}
    (ha : ∀ p, (f p).agenda = p.agenda) (hj : ∀ p, (f p).jobs = (p.updPJob id g).jobs) (hi : ∀ a, (g a).id = a.id)
    (hf : ∀ a, (g a).fenced = a.fenced) : s.SameAgenda (s.updPlane k f) where
  agenda q := by
    rw [plane_updPlane]
    split
    · next e => subst e; exact ha _
    · rfl
  fenced q i := by
    unfold State.pjob
    rw [plane_updPlane]
    split
    · next e =>
      subst e
      rw [← Plane.findPJob_updPJob_map hi hf (s.plane q) id i]
      unfold Plane.findPJob
      rw [hj]
    · rfl

theorem State.SameAgenda.updPJob (s : State) (k : PlaneIx) (id : Nat) {g : PJob → PJob} (hi : ∀ a, (g a).id = a.id)
    (hf : ∀ a, (g a).fenced = a.fenced) : s.SameAgenda (s.updPJob k id g) :=
  .updPlane s k id (fun _ => rfl) (fun _ => rfl) hi hf

/-- An update of a plane that touches neither its jobs nor its agenda. -/
theorem State.SameAgenda.beside (s : State) (k : PlaneIx) {f : Plane → Plane} (h : ∀ p, (f p).agenda = p.agenda ∧ (f p).jobs = p.jobs) :
    s.SameAgenda (s.updPlane k f) := by
  refine .updPlane s k 0 (g := fun a => a) (fun p => (h p).1) (fun p => (h p).2.trans ?_) (fun _ => rfl) fun _ => rfl
  simp [Plane.updPJob]

theorem State.jobCtr_sameAgenda (s : State) (k : PlaneIx) (id : Nat) (c : JCtr) (n : Nat) : s.SameAgenda (s.jobCtr k id c n) :=
  .updPJob s k id (fun _ => rfl) fun _ => rfl

theorem State.arith_sameAgenda (s : State) (k : PlaneIx) (id : Nat) (unit fl : W32) : s.SameAgenda (s.arith k id unit fl) := by
  unfold State.arith
  exact .updPlane s k id (g := fun j => { j with histNow := { j.histNow with sflags := j.histNow.sflags ||| unitFlags unit fl } })
    (fun _ => rfl) (fun _ => rfl) (fun _ => rfl) fun _ => rfl

/-! ### A plane's pair (R12, R136, R188) -/

theorem State.normCheck_sameAgenda (s : State) (k : PlaneIx) (id step : Nat) : s.SameAgenda (s.normCheck k id step) := by
  unfold State.normCheck
  split
  · exact .refl s
  · dsimp only
    split
    · refine (s.arith_sameAgenda ..).trans (.beside _ k fun p => ?_)
      unfold Plane.pushUp
      split <;> exact ⟨rfl, rfl⟩
    · exact .refl s

theorem State.sendPair_sameAgenda (s : State) (k : PlaneIx) (j : Job) (pj : PJob) (norm : W32) (fl : Flags) :
    s.SameAgenda (s.sendPair k j pj norm fl) := by
  unfold State.sendPair
  extract_lets step s1 s2 s3 s4
  have h1 : s.Sends s1 := .each (fun s _ => s.toDevice_sends ..) _ s
  have h2 : s1.SameAgenda s2 := .beside s1 k fun _ => ⟨rfl, rfl⟩
  have h3 : s2.SameAgenda s3 := .updPJob s2 k j.id (fun _ => rfl) fun _ => rfl
  have h4 : s3.SameAgenda s4 := by
    unfold s4
    split
    · exact ⟨fun _ => rfl, fun _ _ => rfl⟩
    · exact .refl s3
  exact h1.sameAgenda.trans (h2.trans (h3.trans (h4.trans (State.normCheck_sameAgenda ..))))

theorem State.checkPair_sameAgenda (s : State) (k : PlaneIx) (id : Nat) : s.SameAgenda (s.checkPair k id) := by
  unfold State.checkPair
  split
  · dsimp only
    split
    · exact .refl s
    · split
      · exact s.sendPair_sameAgenda ..
      · split
        · exact (s.arith_sameAgenda ..).trans (State.sendPair_sameAgenda ..)
        · exact .refl s
  · exact .refl s

end

end Sys2Proof.Machine

/-! ## Synchronisation objects and member fences (R131, R155 to R158, R308) -/

namespace Sys2Proof.Machine

/-! ### Waits that end (R158) -/

/-- A wait that ends leaves its plane's list; for the rest its frame alone changes the plane. -/
theorem State.endWait_plane (s : State) (k : PlaneIx) (w : Wait) (st : Status) : (s.endWait k w st).plane k = { s.plane k with
    waits := (s.plane k).waits.filter (·.id != w.id), lanes := ((s.endWait k w st).plane k).lanes,
    qPublish := ((s.endWait k w st).plane k).qPublish } := by
  have h := plane_updPlane_same s k fun p => { p with waits := p.waits.filter (·.id != w.id) }
  unfold State.endWait
  dsimp only
  split
  · rw [State.planeAnswer_plane, h]
  · split
    · rw [(State.toMember_sends ..).plane, h]
    · rw [h]

section
variable {s t : State} {k : PlaneIx} {id obj : Nat} {pj : PJob}

theorem State.Calm.syncValue (h : s.Calm t) (k : PlaneIx) (id obj : Nat) : t.syncValue k id obj = s.syncValue k id obj := by
  unfold State.syncValue
  rw [h.toQuiet.pjob]

theorem State.wakeWaits_calm (s : State) (k : PlaneIx) (id obj : Nat) : s.Calm (s.wakeWaits k id obj) := .each (fun s _ => s.endWait_calm ..) _ s

theorem State.wakeWaits_applyQ (s : State) (k : PlaneIx) (id obj : Nat) : ((s.wakeWaits k id obj).plane k).applyQ = (s.plane k).applyQ :=
  List.foldlRecOn (motive := fun t : State => (t.plane k).applyQ = (s.plane k).applyQ) _ _ rfl fun t ht w _ => by
    rw [State.endWait_plane]
    exact ht

/-! ### The value of an object (R156) -/

theorem State.setSync_applyQ (s : State) (k : PlaneIx) (id obj : Nat) (v : W64) :
    ((s.setSync k id obj v).plane k).applyQ = (s.plane k).applyQ := by
  unfold State.setSync
  rw [State.wakeWaits_applyQ, State.updPJob, plane_updPlane_same]
  rfl

theorem State.addSync_applyQ (s : State) (k : PlaneIx) (id obj : Nat) (x : W64) :
    ((s.addSync k id obj x).plane k).applyQ = (s.plane k).applyQ := by
  unfold State.addSync
  dsimp only
  rw [State.setSync_applyQ]
  split
  · exact (s.jobCtr_sameAgenda ..).applyQ k
  · rfl

/-- An object of the job reads as it was set. -/
theorem State.setSync_syncValue (hp : s.pjob k id = some pj) (ho : obj < pj.syncs.length) (v : W64) :
    (s.setSync k id obj v).syncValue k id obj = v := by
  unfold State.setSync
  rw [(State.wakeWaits_calm ..).syncValue, State.syncValue,
    pjob_updPJob_same s k id (fun a => { a with syncs := a.syncs.set obj v }) fun _ => rfl, hp]
  simp [List.getD, ho]

/-- An addition saturates (R156). -/
theorem State.addSync_syncValue (hp : s.pjob k id = some pj) (ho : obj < pj.syncs.length) (x : W64) :
    ((s.addSync k id obj x).syncValue k id obj).toNat = min ((s.syncValue k id obj).toNat + x.toNat) (2 ^ 64 - 1) := by
  have hmin : min ((s.syncValue k id obj).toNat + x.toNat) syncMax < 2 ^ 64 := Nat.lt_of_le_of_lt (Nat.min_le_right ..) (by decide)
  have hval (u : State) (hu : ∃ a, u.pjob k id = some a ∧ obj < a.syncs.length) (v : W64) : (u.setSync k id obj v).syncValue k id obj = v :=
    hu.elim fun a ha => State.setSync_syncValue ha.1 ha.2 v
  unfold State.addSync
  dsimp only
  rw [hval, BitVec.toNat_ofNat, Nat.mod_eq_of_lt hmin, syncMax]
  split
  · exact ⟨_, State.jobCtr_pjob hp .syncSat, ho⟩
  · exact ⟨pj, hp, ho⟩

end

/-- An 8-byte field fits an object. -/
theorem toNat_ofNat_fieldAt_8 (b : List Byte) (off : Nat) : (BitVec.ofNat 64 (fieldAt b off 8)).toNat = fieldAt b off 8 := by
  rw [BitVec.toNat_ofNat]
  exact Nat.mod_eq_of_lt (fieldAt_lt b off 8)

/-! ### Synchronisation frames (R157, R158) -/

theorem State.handleBy_sync (s : State) {x : Parked} (h : x.frame.hdr.op = opSync) : s.handleBy x = s.sync x.lane x.frame := by
  have ha : aboutCopy x.frame = false := by simp [aboutCopy, h, opSync, opStatus]
  unfold State.handleBy
  rw [h, ha]
  rfl

/-- A synchronisation frame that a receiver takes. -/
theorem syncFrame_runs {lane : DevLane} {f : RxFrame} {fr : Frame} {s : State} (h : s.Receives lane f [opSync] fr) :
    exec (.syncFrame lane f) s = .next ((s.landed lane f fr).sync lane fr) := by
  obtain ⟨x, hl, hx, -, hw, hin⟩ := State.frameIn_receives h
  have hop : x.frame.hdr.op = opSync := by rw [hx]; simpa using h.2.2.2.1
  refine hin.trans ?_
  rw [State.handle_eq_handleBy _ hw, State.handleBy_sync _ hop, hl, hx]

section
variable {s : State} {lane : DevLane} {f : Frame} {j : Job} {pj : PJob} {m : Nat} (ha : s.admitSender lane f true = .ok (j, pj, m))
  (hok : syncOk f.payload j.hdr.syncn = true)
include ha hok

/-- An addition that is admitted is made; an answer may follow (R156, R157). -/
theorem State.sync_adds (h1 : fieldAt f.payload 4 1 = 1) :
    (s.addSync (planeOf lane) j.id (fieldAt f.payload 2 2) (BitVec.ofNat 64 (fieldAt f.payload 8 8))).Sends (s.sync lane f) := by
  unfold State.sync
  simp only [ha, hok, h1, Bool.not_true, Bool.false_eq_true, if_false, if_true]
  split
  · exact State.replyTo_sends ..
  · exact .refl _

/-- The wait that a frame asks for (R158). -/
def Plane.syncWait (p : Plane) (f : Frame) (id m : Nat) : Wait :=
  { id := p.nextWait, job := id, obj := fieldAt f.payload 2 2, operand := BitVec.ofNat 64 (fieldAt f.payload 8 8), member := some m,
    stag := wordAt f.payload 0x14, tmo := fieldAt f.payload 0x10 4, sflags := fieldAt f.payload 5 1 }

/-- A wait whose operand is not met is held while there is room (R158). -/
theorem State.sync_waits (h2 : fieldAt f.payload 4 1 = 2)
    (hv : (s.syncValue (planeOf lane) j.id (fieldAt f.payload 2 2)).toNat < fieldAt f.payload 8 8)
    (hr : (s.plane (planeOf lane)).waitRoom j.id = true) : s.sync lane f = s.updPlane (planeOf lane) fun p => { p with
      waits := p.waits ++ [p.syncWait f j.id m], nextWait := p.nextWait + 1 } := by
  unfold State.sync
  simp only [ha, hok, h2, hr, Nat.not_le.2 hv, Bool.not_true, Bool.false_eq_true, if_false, OfNat.ofNat_ne_one]
  rfl

end

/-! ### Commands at their apply point (R308) -/

/-- The first command that passes the test leaves the queue and takes effect. -/
theorem State.applyFirst_eq {s : State} {k : PlaneIx} {f : PlaneCmd → Bool} {c : PlaneCmd} (h : (s.plane k).applyQ.find? f = some c) :
    s.applyFirst k f = (s.updPlane k fun p => { p with applyQ := p.applyQ.filter (·.held != c.held) }).applyCmd k c := by
  unfold State.applyFirst
  rw [h]

section
variable {s : State} {k : PlaneIx} {c : PlaneCmd} {pj : PJob} (hp : s.pjob k c.pkt.job = some pj)
  (ho : fieldAt c.pkt.params 0 2 < pj.syncs.length)
include hp ho

theorem State.applyCmd_syncAdd (hop : c.pkt.opcode = 0x0303) :
    ((s.applyCmd k c).syncValue k c.pkt.job (fieldAt c.pkt.params 0 2)).toNat =
      min ((s.syncValue k c.pkt.job (fieldAt c.pkt.params 0 2)).toNat + fieldAt c.pkt.params 8 8) (2 ^ 64 - 1) ∧
    ((s.applyCmd k c).plane k).applyQ = (s.plane k).applyQ := by
  have hcmd : s.applyCmd k c = s.applySyncAdd k c := by rw [State.applyCmd, hop]; rfl
  rw [hcmd, State.applySyncAdd, (State.planeAnswer_calm ..).syncValue, State.planeAnswer_plane]
  exact ⟨(State.addSync_syncValue hp ho _).trans (by rw [pf, toNat_ofNat_fieldAt_8]), State.addSync_applyQ ..⟩

theorem State.applyCmd_syncSet (hop : c.pkt.opcode = 0x0304) :
    ((s.applyCmd k c).syncValue k c.pkt.job (fieldAt c.pkt.params 0 2)).toNat = fieldAt c.pkt.params 8 8 ∧
    ((s.applyCmd k c).plane k).applyQ = (s.plane k).applyQ := by
  have hcmd : s.applyCmd k c = s.applySyncSet k c := by rw [State.applyCmd, hop]; rfl
  rw [hcmd, State.applySyncSet, (State.planeAnswer_calm ..).syncValue, State.planeAnswer_plane]
  exact ⟨(congrArg BitVec.toNat (State.setSync_syncValue hp ho _)).trans (toNat_ofNat_fieldAt_8 ..), State.setSync_applyQ ..⟩

end

/-! ### The fence of a member (R131, R155) -/

section
variable {s : State} {k : PlaneIx} {id m : Nat} {j : Job} {pj : PJob} (hj : s.findJob id = some j) (hp : s.pjob k id = some pj)
  (hm : m ∉ pj.fenced)
include hj hp hm

/-- A plane that applies the fence of a member takes its entry from the list, drops its waits, and counts it. -/
theorem State.applyFence_applies : (((s.applyFence k id m).plane k).fenceQ = (s.plane k).fenceQ.filter (· != (id, m))) ∧
    ((s.applyFence k id m).plane k).waits = (s.plane k).waits.filter (fun w => !(w.job == id && w.member == some m)) ∧
    ((s.applyFence k id m).pjob k id).map (·.fenced) = some (m :: pj.fenced) := by
  have hn : pj.fenced.contains m = false := by simpa using hm
  generalize ht : s.applyFence k id m = t
  unfold State.applyFence at ht
  extract_lets s0 mine at ht
  have h0 : s0.plane k = { s.plane k with fenceQ := (s.plane k).fenceQ.filter (· != (id, m)) } := plane_updPlane_same ..
  have hp0 : s0.pjob k id = some pj := by
    unfold State.pjob at hp ⊢
    rw [h0]
    exact hp
  rw [show s0.findJob id = some j from hj, hp0] at ht
  simp -zeta only [hn, Bool.false_eq_true, if_false] at ht
  extract_lets here l ln leg pub cut s1 s2 s3 s4 at ht
  have h1 : s0.SameAgenda s1 := by
    unfold s1
    split
    · exact .beside s0 _ fun _ => ⟨rfl, rfl⟩
    · exact .refl s0
  have h2 : s1.SameAgenda s2 := .beside s1 k fun _ => ⟨rfl, rfl⟩
  have h3 : s0.SameAgenda s3 := h1.trans (h2.trans (s2.jobCtr_sameAgenda ..))
  have h4 : s4.plane k = _ := plane_updPlane_same ..
  have hp4 : (s4.pjob k id).map (·.fenced) = some pj.fenced := by
    have h := h3.fenced k id
    rw [hp0] at h
    unfold State.pjob at h ⊢
    rw [h4]
    exact h
  subst ht
  refine ⟨?_, ?_, ?_⟩
  · rw [State.updPJob, plane_updPlane_same, h4]
    exact (h3.fenceQ k).trans (by rw [h0])
  · rw [State.updPJob, plane_updPlane_same, h4]
    exact congrArg (List.filter _) ((h3.waits k).trans (by rw [h0]))
  · obtain ⟨a, ha, hf⟩ := Option.map_eq_some_iff.1 hp4
    refine (congrArg (Option.map PJob.fenced) (pjob_updPJob_same s4 k id _ ?_)).trans ?_
    · exact fun _ => rfl
    · rw [ha, ← hf]
      rfl

/-- Applying the fence of a member releases results, and the pair may follow; the rest of the agenda is as the fence left it (R136). -/
theorem State.fenceMember_applies : (((s.fenceMember k id m).plane k).fenceQ = (s.plane k).fenceQ.filter (· != (id, m))) ∧
    ((s.fenceMember k id m).plane k).waits = (s.plane k).waits.filter (fun w => !(w.job == id && w.member == some m)) ∧
    ((s.fenceMember k id m).pjob k id).map (·.fenced) = some (m :: pj.fenced) := by
  obtain ⟨hq, hw, hf⟩ := State.applyFence_applies hj hp hm
  unfold State.fenceMember State.releaseResults
  have hc := State.checkPair_sameAgenda ((s.applyFence k id m).updPlane k fun p => { p with retained := p.retained.filter fun r =>
    !(r.job == id && r.admitted && r.owes.isEmpty && r.needDesc.isEmpty) }) k id
  refine ⟨(hc.fenceQ k).trans ?_, (hc.waits k).trans ?_, (hc.fenced k id).trans ?_⟩
  · rw [plane_updPlane_same]; exact hq
  · rw [plane_updPlane_same]; exact hw
  · unfold State.pjob at hf ⊢
    rw [plane_updPlane_same]
    exact hf

end

/-- With no `MEMBER_FENCE` of the job queued, the first loss of a member that waits is applied (R155). -/
theorem memberFenceApply_runs {s : State} {k : PlaneIx} {job m : Nat} (hq : ∀ c ∈ (s.plane k).applyQ, c.pkt.job = job → c.pkt.opcode ≠ 0x0302)
    (hf : (s.plane k).fenceQ.find? (·.1 == job) = some (job, m)) : exec (.memberFenceApply k job) s = .next (s.fenceMember k job m) := by
  have hno : ((s.plane k).applyQ.any fun c => c.pkt.job == job && c.pkt.opcode == 0x0302) = false := by
    simpa [List.any_eq_false] using hq
  show execMemberFenceApply k job s = _
  unfold execMemberFenceApply
  rw [hno, hf]
  rfl

end Sys2Proof.Machine

section
open Sys2Proof Sys2Proof.Machine

/-- Settles O19: what wakes, answers or is sent after an object takes its value leaves the value and the queue; a fence is applied to the
agenda before results are released. -/
theorem applyPointEffects : Obligations.ApplyPointEffects := by
  refine ⟨⟨?_, ?_, ?_⟩, ?_⟩
  · intro lane f fr j pj m s hr k u obj ha hok ho
    have hrun := syncFrame_runs hr
    have hopen := State.admitSender_openOn ha
    have hpj : u.pjob k j.id = some pj := (State.findJob_id (State.openOn_findJob hopen)).symm ▸ State.openOn_pjob hopen
    refine ⟨fun h1 => ⟨_, hrun, ?_⟩, fun h2 hv hroom => ?_⟩
    · have hv := (State.sync_adds ha hok h1).calm.syncValue k j.id obj
      exact (congrArg BitVec.toNat hv).trans ((State.addSync_syncValue hpj ho _).trans (by rw [toNat_ofNat_fieldAt_8]))
    · rw [State.sync_waits ha hok h2 hv hroom] at hrun
      exact ⟨_, hrun, rfl, _, congrArg Plane.waits (plane_updPlane_same ..), rfl, rfl, toNat_ofNat_fieldAt_8 .., rfl, rfl⟩
  · intro k job c pj s hc hp ho
    obtain ⟨hjob, -⟩ : c.pkt.job = job ∧ c.pkt.opcode ≠ 0x0302 := by simpa using List.find?_some hc
    subst hjob
    have hrun : exec (.commandApplyPoint k c.pkt.job) s = .next _ := congrArg Host.Outcome.next (State.applyFirst_eq hc)
    have hcalm := State.Calm.updPlane s k (f := fun p => { p with applyQ := p.applyQ.filter (·.held != c.held) }) fun _ => rfl
    have hp' := (hcalm.toQuiet.pjob k c.pkt.job).trans hp
    have hq := congrArg Plane.applyQ (plane_updPlane_same s k fun p => { p with applyQ := p.applyQ.filter (·.held != c.held) })
    refine ⟨fun hop => ⟨_, hrun, ?_⟩, fun hop => ⟨_, hrun, ?_⟩⟩
    · obtain ⟨hv, ha⟩ := State.applyCmd_syncAdd hp' ho hop
      exact ⟨hv.trans (by rw [hcalm.syncValue]), ha.trans hq⟩
    · obtain ⟨hv, ha⟩ := State.applyCmd_syncSet hp' ho hop
      exact ⟨hv, ha.trans hq⟩
  · intro k id w s hw
    have hid : w.id = id := by simpa using List.find?_some hw
    refine ⟨s.endWait k w .timeout, ?_, ?_⟩
    · show execSyncWaitTimeout k id s = _
      rw [execSyncWaitTimeout, hw]
    · exact hid ▸ congrArg Plane.waits (s.endWait_plane k w .timeout)
  · intro k job m j pj s hj hp hm hq hf
    obtain ⟨hfq, hws, hfen⟩ := State.fenceMember_applies hj hp hm
    obtain ⟨pj', hp', hf'⟩ := Option.map_eq_some_iff.1 hfen
    refine ⟨_, memberFenceApply_runs hq hf, ?_, ⟨pj', hp', hf'⟩, fun w hw ⟨hwj, hwm⟩ => ?_⟩
    · simp [hfq]
    · rw [hws] at hw
      simp [hwj, hwm] at hw

end

/-! ## The retention of results (R135 to R138) -/

namespace Sys2Proof.Machine

/-! ### Frames to one member, and the release of results -/

theorem State.toMember_carries (s : State) (k : PlaneIx) (j : Job) (pj : PJob) (m : Nat) (f : Frame) (u : Bool) :
    s.Carries (s.toMember k j pj m f u) := by
  unfold State.toMember
  split
  · exact s.enqueue_carries ..
  · exact s.toDevice_carries ..

/-- A frame to a member here whose lane is up is on its way in the member's delivery form (R185). -/
theorem State.toMember_outgoing {s : State} {k : PlaneIx} {j : Job} {m : Nat} (hd : j.memberDev m = s.bidx)
    (hup : s.MemberUp k (j.memberLane k m)) (pj : PJob) (f : Frame) :
    ∃ y ∈ (s.toMember k j pj m f).outgoing k (j.memberLane k m), y.frame = deliver j pj m f := by
  unfold State.toMember
  rw [if_pos hd]
  exact ⟨_, State.enqueue_outgoing hup _, rfl⟩

/-- Frames to one member here are all on their way. -/
theorem State.toMembers_outgoing {s : State} {k : PlaneIx} {j : Job} {m : Nat} {x : Frame} {fs : List Frame} (hx : x ∈ fs)
    (hd : j.memberDev m = s.bidx) (hup : s.MemberUp k (j.memberLane k m)) (pj : PJob) :
    ∃ y ∈ (s.each fs fun s f => s.toMember k j pj m f).outgoing k (j.memberLane k m), y.frame = deliver j pj m x :=
  State.Carries.each_mem (fun s _ => s.toMember_carries ..) hx fun _ hu =>
    State.toMember_outgoing (hd.trans hu.bidx.symm) (hu.up k _ hup) pj x

/-- The results of a job that no destination owes any more are gone; the pair that may follow leaves the others (R136). -/
theorem State.releaseResults_retained (s : State) (k : PlaneIx) (id : Nat) : ((s.releaseResults k id).plane k).retained =
    (s.plane k).retained.filter fun r => !(r.job == id && r.admitted && r.owes.isEmpty && r.needDesc.isEmpty) := by
  unfold State.releaseResults
  rw [(State.checkPair_sameAgenda ..).retained, plane_updPlane_same]

/-! ### A result leaves for its destinations (R135) -/

/-- The members here for whose descriptors a result waits (R164). -/
def State.descWaiters (s : State) (j : Job) (pj : PJob) (b : Nat) : List Nat :=
  pj.liveMembers.filter fun m => j.memberDev m == s.bidx && !PJob.canTake j pj b m

/-- The members here that a result goes out to at once. -/
theorem State.filter_descWaiters (s : State) (j : Job) (pj : PJob) (b : Nat) :
    ((pj.liveMembers.filter fun m => !(s.descWaiters j pj b).contains m).filter fun m => j.memberDev m == s.bidx) =
      pj.liveMembers.filter fun m => j.memberDev m == s.bidx && PJob.canTake j pj b m := by
  rw [List.filter_filter]
  refine List.filter_congr fun m hm => ?_
  by_cases hd : j.memberDev m = s.bidx
  · rw [Bool.eq_iff_iff]
    simp [State.descWaiters, hm, hd]
  · rw [beq_false_of_ne hd, Bool.false_and, Bool.false_and]

/-- A result that has left for its destinations: each of them owes an acknowledgement, and some wait for a descriptor first. -/
def Retained.owed (x : Retained) (ms wait : List Nat) : Retained := { x with owes := ms.map fun m => (m, 0), needDesc := wait }

section
variable {s : State} {k : PlaneIx} {j : Job} {pj : PJob} {r : Retained} {d : BucketDesc} (hd : j.bucketDesc r.bucket = some d)
include hd

theorem State.deliverResult_eq : s.deliverResult k j pj r =
    (s.each (r.frames j k d fun _ => true) fun u f =>
      u.multicast k j pj (pj.liveMembers.filter fun m => !(s.descWaiters j pj r.bucket).contains m) f).updPlane k fun p => { p with
        retained := p.retained.map fun x =>
          if x.job == r.job && x.bucket == r.bucket then x.owed pj.liveMembers (s.descWaiters j pj r.bucket) else x } := by
  unfold State.deliverResult
  rw [hd]
  rfl

/-- The results are as before, but for those of the bucket, which are owed by every live member. -/
theorem State.deliverResult_retained : ((s.deliverResult k j pj r).plane k).retained = (s.plane k).retained.map fun x =>
    if x.job == r.job && x.bucket == r.bucket then x.owed pj.liveMembers (s.descWaiters j pj r.bucket) else x := by
  rw [State.deliverResult_eq hd, plane_updPlane_same]
  exact congrArg _ ((State.Sends.each (fun s _ => s.multicast_sends ..) _ s).sameAgenda.retained k)

theorem State.deliverResult_sameShares : s.SameShares (s.deliverResult k j pj r) := by
  rw [State.deliverResult_eq hd]
  refine (State.Sends.each (fun s _ => s.multicast_sends ..) _ s).sameShares.trans (State.Calm.updPlane _ k fun _ => ?_).toQuiet.sameShares
  rfl

/-- The frames of a result go out on the lanes of the members here that can take it (R128, R164). -/
theorem State.deliverResult_outgoing {l : LaneIx} {m : Nat} {x : Frame} (hx : x ∈ r.frames j k d fun _ => true)
    (hm : ((pj.liveMembers.filter fun m => j.memberDev m == s.bidx && PJob.canTake j pj r.bucket m).find? fun m =>
      j.memberLane k m == l) = some m) (hup : s.MemberUp k l) :
    ∃ y ∈ (s.deliverResult k j pj r).outgoing k l, y.frame = deliver j pj m x := by
  rw [← State.filter_descWaiters] at hm
  obtain ⟨y, hy, hf⟩ := State.multicasts_outgoing hx hm hup pj
  rw [State.deliverResult_eq hd]
  refine ⟨y, State.Carries.out ?_ k l hy, hf⟩
  exact .beside _ k fun _ => ⟨rfl, rfl, rfl⟩

end

/-! ### A result is admitted (R135) -/

/-- The result has its place: in the retention buffer, or in the job's area in HBM. -/
def Retained.placed (x : Retained) (hbm : Bool) : Retained := { x with admitted := true, inHbm := hbm }

/-- The state in which an admitted result is delivered: it has its place, and its bucket's slots are released. -/
def State.placeResult (s : State) (k : PlaneIx) (r : Retained) (hbm : Bool) : State :=
  (s.updPlane k fun p => { p with retained := p.retained.map fun x =>
    if x.job == r.job && x.bucket == r.bucket then x.placed hbm else x }).updShare k r.job r.bucket Share.release

section
variable {s : State} {k : PlaneIx} {j : Job} {pj : PJob} {r : Retained} {d : BucketDesc} {h : Share}

theorem State.placeResult_retained (s : State) (k : PlaneIx) (r : Retained) (hbm : Bool) :
    ((s.placeResult k r hbm).plane k).retained = (s.plane k).retained.map fun x =>
      if x.job == r.job && x.bucket == r.bucket then x.placed hbm else x := by
  unfold State.placeResult
  rw [State.updShare, State.updPJob, plane_updPlane_same, plane_updPlane_same]
  rfl

theorem State.placeResult_share (hs : s.share k r.job r.bucket = some h) (hbm : Bool) :
    (s.placeResult k r hbm).share k r.job r.bucket = some h.release := by
  refine share_updShare_some ?_ fun _ => rfl
  rw [(State.Calm.updPlane s k fun _ => ?_).toQuiet.share]
  · exact hs
  · rfl

theorem State.placeResult_carries (s : State) (k : PlaneIx) (r : Retained) (hbm : Bool) : s.Carries (s.placeResult k r hbm) := by
  refine .trans ?_ (.updShare _ k r.job r.bucket _)
  exact .beside s k fun _ => ⟨rfl, rfl, rfl⟩

section
variable (hr : ((s.plane k).retained.find? fun r => !r.admitted) = some r) (ho : s.openOn k r.job = some (j, pj))
include hr ho

/-- The first waiting result, once it has room, is placed and delivered; its word is read without a fault. -/
theorem State.admitResult_admits {hbm : Bool} (hroom : retRoom (s.plane k) j r.bytes = some hbm) :
    s.admitResult k = (s.placeResult k r hbm).deliverResult k j pj r := by
  unfold State.admitResult
  simp only [hr, ho, hroom]
  rfl

theorem State.admitResult_waits (hroom : retRoom (s.plane k) j r.bytes = none) : s.admitResult k = s := by
  unfold State.admitResult
  simp only [hr, ho, hroom]

end

/-- Once admitted, a result stands with its place and owed by every live member. -/
theorem State.admitted_retained (hr : r ∈ (s.plane k).retained) (hd : j.bucketDesc r.bucket = some d) (hbm : Bool) :
    ∃ x ∈ (((s.placeResult k r hbm).deliverResult k j pj r).plane k).retained, x.job = r.job ∧ x.bucket = r.bucket ∧ x.admitted = true ∧
      x.inHbm = hbm ∧ x.owes = pj.liveMembers.map fun m => (m, 0) := by
  rw [State.deliverResult_retained hd, State.placeResult_retained]
  refine ⟨_, List.mem_map_of_mem (List.mem_map_of_mem hr), ?_⟩
  simp [Retained.placed, Retained.owed]

end

/-- Where a result has room (R135). -/
theorem retRoom_eq_some {p : Plane} {j : Job} {bytes : Nat} {hbm : Bool}
    (h : (hbm = false ∧ p.retBufUsed + bytes + 256 * p.unitsOut 32768 32768 ≤ 8388608) ∨
      (hbm = true ∧ ¬ p.retBufUsed + bytes + 256 * p.unitsOut 32768 32768 ≤ 8388608 ∧ p.retAreaUsed j.id + bytes ≤ j.hdr.retq * 65536)) :
    retRoom p j bytes = some hbm := by
  unfold retRoom
  obtain ⟨rfl, hb⟩ | ⟨rfl, hb, ha⟩ := h
  · rw [if_pos hb]
  · rw [if_neg hb, if_pos ha]

/-! ### Acknowledgements (R136) -/

theorem State.handleBy_ack (s : State) {x : Parked} (h : x.frame.hdr.op = opAck) : s.handleBy x = s.ack x.lane x.frame x.keep := by
  have ha : aboutCopy x.frame = false := by simp [aboutCopy, h, opAck, opStatus]
  unfold State.handleBy
  rw [h, ha]
  rfl

/-- An acknowledgement that a receiver takes. -/
theorem ackFrame_runs {lane : DevLane} {f : RxFrame} {fr : Frame} {s : State} (h : s.Receives lane f [opAck] fr) :
    ∃ kp, exec (.ackFrame lane f) s = .next ((s.landed lane f fr).ack lane fr kp) := by
  obtain ⟨x, hl, hx, -, hw, hin⟩ := State.frameIn_receives h
  have hop : x.frame.hdr.op = opAck := by rw [hx]; simpa using h.2.2.2.1
  refine ⟨x.keep, hin.trans ?_⟩
  rw [State.handle_eq_handleBy _ hw, State.handleBy_ack _ hop, hl, hx]

/-- The result without a member that has acknowledged it. -/
def Retained.acked (r : Retained) (m : Nat) : Retained :=
  { r with owes := r.owes.filter (·.1 != m), needDesc := r.needDesc.filter (· != m), reported := r.reported.filter (· != m) }

/-- What a frame's bucket and step name is an admitted result of the job. -/
theorem State.resultFor_some {s : State} {k : PlaneIx} {pj : PJob} {f : Frame} {b : Bool} {r : Retained} (h : s.resultFor k pj f b = some r) :
    r ∈ (s.plane k).retained ∧ r.job = pj.id ∧ r.admitted = true := by
  refine ⟨List.mem_of_find?_eq_some h, ?_⟩
  have hr := List.find?_some h
  simp only [Bool.and_eq_true, beq_iff_eq] at hr
  obtain ⟨⟨⟨⟨hj, -⟩, ha⟩, -⟩, -⟩ := hr
  exact ⟨hj, ha⟩

/-- An acknowledgement takes its member from the result, and a result that no member owes or waits for any more is released. -/
theorem State.ack_retained {s : State} {lane : DevLane} {f : Frame} {j : Job} {pj : PJob} {m n : Nat} {r : Retained}
    (ha : s.admitSender lane f true = .ok (j, pj, m)) (hh : s.homeDev j f.hdr.bucket = s.bidx)
    (hr : s.resultFor (planeOf lane) pj f true = some r) (hm : (m, n) ∈ r.owes) (kp : Keep) :
    ((s.ack lane f kp).plane (planeOf lane)).retained =
      ((s.plane (planeOf lane)).retained.map fun x => if x == r then r.acked m else x).filter fun x =>
        !(x.job == j.id && x.admitted && x.owes.isEmpty && x.needDesc.isEmpty) := by
  have hany : r.owes.any (·.1 == m) = true := List.any_eq_true.2 ⟨_, hm, by simp⟩
  unfold State.ack
  simp only [ha, hh, hr, hany, bne_self_eq_false, Bool.and_false, Bool.not_true, Bool.false_eq_true, if_false]
  rw [State.releaseResults_retained, State.updPJob, plane_updPlane_same]
  exact congrArg _ (congrArg Plane.retained (plane_updPlane_same ..))

/-! ### Acknowledgement timers (R136) -/

/-- One more expiry of a member that owes a result. -/
theorem lookup_map_bump {l : List (Nat × Nat)} {m n : Nat} (h : l.lookup m = some n) (v : Nat) :
    (l.map fun o => if o.1 == m then (m, v) else o).lookup m = some v := by
  induction l with
  | nil => cases h
  | cons o l ih =>
    by_cases e : o.1 = m
    · simp [e]
    · have e' : (m == o.1) = false := by simpa using Ne.symm e
      rw [List.lookup_cons, e'] at h
      rw [List.map_cons, if_neg (by simpa using e), List.lookup_cons, e']
      exact ih h

/-- The result with one more expiry of a member that had `n`; the fourth in a row of the member is reported. -/
def Retained.expired (r : Retained) (m n run : Nat) : Retained :=
  { r with owes := r.owes.map fun o => if o.1 == m then (m, n + 1) else o, reported := if run = 4 then m :: r.reported else r.reported }

/-- The expiries of a member in a row, this one included. -/
def PJob.ackRun (pj : PJob) (m : Nat) : Nat := (pj.ackRuns.lookup m).getD 0 + 1

/-- The expiry of a member's timer is kept with the result and with the member (R136). -/
def State.noteExpiry (s : State) (k : PlaneIx) (pj : PJob) (r : Retained) (id m n : Nat) : State :=
  (s.updPlane k fun p => { p with retained := p.retained.map fun x => if x == r then r.expired m n (pj.ackRun m) else x }).updPJob k id
    fun a => { a with ackRuns := (m, pj.ackRun m) :: a.ackRuns.filter (·.1 != m) }

/-- The whole result goes out again to the member whose timer has expired, and is counted (R136). -/
def State.resendResult (s : State) (k : PlaneIx) (j : Job) (pj : PJob) (r : Retained) (d : BucketDesc) (id m n : Nat) : State :=
  ((s.noteExpiry k pj r id m n).each (r.frames j k d fun _ => true) fun s f => s.toMember k j pj m f).jobCtr k id .retSend

section
variable {s : State} {k : PlaneIx} {id b m n : Nat} {j : Job} {pj : PJob} {r : Retained} {d : BucketDesc}

theorem State.noteExpiry_retained (hr : r ∈ (s.plane k).retained) :
    r.expired m n (pj.ackRun m) ∈ ((s.noteExpiry k pj r id m n).plane k).retained := by
  unfold State.noteExpiry
  rw [State.updPJob, plane_updPlane_same, plane_updPlane_same]
  exact List.mem_map.2 ⟨r, hr, by simp⟩

theorem State.noteExpiry_pjob (hp : s.pjob k id = some pj) : (s.noteExpiry k pj r id m n).pjob k id =
    some { pj with ackRuns := (m, pj.ackRun m) :: pj.ackRuns.filter (·.1 != m) } := by
  refine (pjob_updPJob_same _ k id (fun a => { a with ackRuns := (m, pj.ackRun m) :: a.ackRuns.filter (·.1 != m) }) fun _ => rfl).trans ?_
  rw [(State.Calm.updPlane s k fun _ => ?_).toQuiet.pjob, hp]
  · rfl
  · rfl

theorem State.noteExpiry_carries (s : State) (k : PlaneIx) (pj : PJob) (r : Retained) (id m n : Nat) :
    s.Carries (s.noteExpiry k pj r id m n) := by
  refine .trans ?_ (.updPJob _ k id _)
  exact .beside s k fun _ => ⟨rfl, rfl, rfl⟩

theorem State.resendResult_retained (hr : r ∈ (s.plane k).retained) :
    r.expired m n (pj.ackRun m) ∈ ((s.resendResult k j pj r d id m n).plane k).retained := by
  unfold State.resendResult
  rw [(State.jobCtr_sameAgenda ..).retained, (State.Sends.each (fun s _ => s.toMember_sends ..) _ _).sameAgenda.retained]
  exact State.noteExpiry_retained hr

theorem State.resendResult_pjob (hp : s.pjob k id = some pj) : ∃ pj', (s.resendResult k j pj r d id m n).pjob k id = some pj' ∧
    ctrGet pj'.ctrs .retSend = satAdd 32 (ctrGet pj.ctrs .retSend) 1 := by
  have hsend := State.Sends.each (fun s f => s.toMember_sends k j pj m f false) (r.frames j k d fun _ => true) (s.noteExpiry k pj r id m n)
  exact ⟨_, State.jobCtr_pjob ((hsend.calm.toQuiet.pjob k id).trans (State.noteExpiry_pjob hp)) .retSend, ctrGet_ctrAdd_same ..⟩

theorem State.resendResult_outgoing (hd : j.memberDev m = s.bidx) (hup : s.MemberUp k (j.memberLane k m)) {x : Frame}
    (hx : x ∈ r.frames j k d fun _ => true) :
    ∃ y ∈ (s.resendResult k j pj r d id m n).outgoing k (j.memberLane k m), y.frame = deliver j pj m x := by
  have hc := s.noteExpiry_carries k pj r id m n
  obtain ⟨y, hy, hf⟩ := State.toMembers_outgoing hx (hd.trans hc.bidx.symm) (hc.up k _ hup) pj
  exact ⟨y, (State.jobCtr_carries ..).out k _ hy, hf⟩

variable (ho : s.openOn k id = some (j, pj)) (hr : ((s.plane k).retained.find? fun r => r.job == id && r.bucket == b && r.admitted) = some r)
  (hd : j.bucketDesc b = some d) (hn : r.owes.lookup m = some n) (hm : m ∉ r.needDesc)
include ho hr hd hn hm

/-- An expiry of a member that owes the result sends it again; the fourth in a row is reported (R136). -/
theorem State.ackTimeout_eq : ∃ pl, s.ackTimeout k id b m =
    if pj.ackRun m = 4 then (s.resendResult k j pj r d id m n).report 0xF001 Status.timeout.code id (planeBit k) pl
    else s.resendResult k j pj r d id m n := by
  have hc : r.needDesc.contains m = false := by simpa using hm
  unfold State.ackTimeout
  simp only [ho, hr, hd, hn, hc, Bool.false_eq_true, if_false]
  exact ⟨_, rfl⟩

theorem State.ackTimeout_plane : (s.ackTimeout k id b m).plane k = (s.resendResult k j pj r d id m n).plane k := by
  obtain ⟨pl, h⟩ := State.ackTimeout_eq ho hr hd hn hm
  rw [h]
  split
  · exact State.report_plane ..
  · rfl

theorem State.ackTimeout_reports (h3 : pj.ackRuns.lookup m = some 3) :
    ∃ x ∈ (s.ackTimeout k id b m).host.reports, x.opcode = 0xF001 ∧ x.job = id := by
  obtain ⟨pl, h⟩ := State.ackTimeout_eq ho hr hd hn hm
  rw [h, if_pos (by rw [PJob.ackRun, h3]; rfl)]
  exact State.report_mem ..

end

end Sys2Proof.Machine

section
open Sys2Proof Sys2Proof.Machine

/-- Settles O24: an admitted result has its place and leaves; an acknowledgement or an expiry changes the member's debt and nothing else of
what is retained. -/
theorem resultsAreRetainedUntilAcknowledged : Obligations.ResultsAreRetainedUntilAcknowledged := by
  refine ⟨?_, ?_, ?_⟩
  · intro k j pj r h d s hr ho hid hd hh buffer area
    refine ⟨fun hbm hfit => ?_, fun hb ha => ?_⟩
    · have hrun : exec (.resultRetentionAdmit k) s = .next _ := congrArg Host.Outcome.next (State.admitResult_admits hr ho (retRoom_eq_some hfit))
      have hc := s.placeResult_carries k r hbm
      refine ⟨_, hrun, State.admitted_retained (List.mem_of_find?_eq_some hr) hd hbm, ⟨h.release, ?_, rfl, rfl, rfl⟩,
        fun l m x hx hm hup => ?_⟩
      · rw [(State.deliverResult_sameShares hd).share]
        exact State.placeResult_share (hid ▸ State.openOn_share ho hh) hbm
      · exact State.deliverResult_outgoing hd hx (by rw [hc.bidx]; exact hm) (hc.up k l hup)
    · have hno : retRoom (s.plane k) j r.bytes = none := by
        unfold retRoom
        rw [if_neg hb, if_neg ha]
      exact ⟨_, congrArg Host.Outcome.next (State.admitResult_waits hr ho hno), rfl⟩
  · intro lane f fr j pj m r s hrec k u ha hhome hr ⟨n, hm⟩ r'
    obtain ⟨kp, hrun⟩ := ackFrame_runs hrec
    have hopen := State.admitSender_openOn ha
    have hid : r'.job = j.id := (State.resultFor_some hr).2.1.trans
      ((State.pjob_id (State.openOn_pjob hopen)).trans (State.findJob_id (State.openOn_findJob hopen)).symm)
    have hhome' : u.homeDev j fr.hdr.bucket = u.bidx := (s.landed_homeDev ..).trans (hhome.trans (s.landed_bidx ..).symm)
    have hret := State.ack_retained ha hhome' hr hm kp
    refine ⟨_, hrun, fun howes => ?_, fun howes hneed hmem => ?_⟩
    · refine hret ▸ List.mem_filter.2 ⟨List.mem_map.2 ⟨r, (State.resultFor_some hr).1, by simp [Retained.acked, r']⟩, ?_⟩
      simp [howes]
    · have hkept := (List.mem_filter.1 (hret ▸ hmem)).2
      have hadm : r'.admitted = true := (State.resultFor_some hr).2.2
      simp [hid, hadm, howes, hneed] at hkept
  · intro k id b m n j pj r d s ho hr hd hn hm
    have hpl := State.ackTimeout_plane ho hr hd hn hm
    have hmem := List.mem_of_find?_eq_some hr
    refine ⟨_, rfl, ⟨r.expired m n (pj.ackRun m), ?_, rfl, rfl, lookup_map_bump hn _⟩, ?_, fun hdev hup x hx => ?_,
      State.ackTimeout_reports ho hr hd hn hm⟩
    · rw [hpl]
      exact State.resendResult_retained hmem
    · unfold State.pjob
      rw [hpl]
      exact State.resendResult_pjob (State.openOn_pjob ho)
    · rw [State.outgoing_eq, hpl, ← State.outgoing_eq]
      exact State.resendResult_outgoing hdev hup hx

end

/-! ## A descriptor whose registration retires the plane (R164, R177, R244, R253)

A descriptor frame sends on the results that waited for it in the frame buffer.  One whose stored entry fails parity is discarded (R177), which
is an error of the frame queues' block.  Under observation with one error less than the limit, that error retires the block, and with it the
plane: the job's record, in which the descriptor was registered, is gone. -/

namespace Sys2Proof.Machine

/-- A running job of one member on lane 0 of plane 0, with one bucket of 16 elements. -/
def describedJob : Job :=
  { id := 1, st := .running, hdr := { job := 1, planes := 1 }, members := [⟨0, 0⟩], buckets := [⟨0, 32, 16, 0, 0, 0, true⟩] }

/-- The job on plane 0. -/
def describedPJob : PJob := { id := 1, fs := .run, group := [0], rate := { rflags := 1 } }

/-- A result from another device that waits for the member's descriptor, with its entry in the hold list damaged. -/
def damagedResult : HeldFrame :=
  { lane := 1, frame := { hdr := { op := opRslt, job := 1, uni := true } }, cells := 1, from' := some 0, later := .entry }

/-- Plane 0 is in service with lane 0 up and holds the damaged result, which came on the peer lane 1; the block of its queues has had three
of the four errors that retire it. -/
def describedState : State := ({ State.reset with jobs := [describedJob], part := { far := [0xFF, 1] } } : State).updPlane 0 fun p => { p with
  ps := .inService, lanes := p.lanes.set 0 { st := .up }, tokLend := 100, jobs := [describedPJob], held := [damagedResult],
  obs := [{ block := 3, unit := 0, errs := 3 }] }

/-- The member's descriptor for bucket 0, at address 64. -/
def descriptor : Frame := { hdr := { op := opDesc, job := 1, len := 64 }, payload := zeros 8 ++ leBytes 8 64 ++ zeros 48 }

/-- The descriptor as the member's lane delivers it. -/
def descriptorRx : RxFrame := { bytes := frameBytes false descriptor }

/-- The job's record once the policer has billed the frame of 100 bytes. -/
def billedPJob : PJob := { describedPJob with ctrs := [(.billGF, 1), (.billGB, 100)] }

theorem descriptor_received : describedState.Receives 0 descriptorRx [opDesc] descriptor := by
  unfold State.Receives
  decide +kernel

theorem descriptor_admitted :
    (describedState.landed 0 descriptorRx descriptor).admitSender 0 descriptor true = .ok (describedJob, billedPJob, 0) := by
  decide +kernel

theorem descriptor_landed : (describedState.landed 0 descriptorRx descriptor).pjob 0 1 = some billedPJob ∧
    (describedState.landed 0 descriptorRx descriptor).findJob 1 = some describedJob := by
  decide +kernel

theorem descriptor_fields : (describedJob.bucketDesc (fieldAt descriptor.payload 2 2)).isSome = true ∧ fieldAt descriptor.payload 8 8 % 64 = 0 ∧
    zeroAt descriptor.payload 4 4 = true ∧ zeroAt descriptor.payload 0x14 44 = true ∧ describedJob.hdr.staging = false := by
  decide +kernel

/-- The damaged entry retires the plane as the descriptor sends it on. -/
theorem desc_retires : ((describedState.landed 0 descriptorRx descriptor).desc 0 descriptor).pjob 0 1 = none := by
  decide +kernel

/-- A descriptor frame that a receiver takes. -/
theorem descFrame_runs {lane : DevLane} {f : RxFrame} {fr : Frame} {s : State} (h : s.Receives lane f [opDesc] fr) :
    exec (.descFrame lane f) s = .next ((s.landed lane f fr).desc lane fr) := by
  obtain ⟨x, hl, hx, -, hw, hin⟩ := State.frameIn_receives h
  have hop : x.frame.hdr.op = opDesc := by rw [hx]; simpa using h.2.2.2.1
  have hby (s : State) : s.handleBy x = s.desc x.lane x.frame := by
    have ha : aboutCopy x.frame = false := by simp [aboutCopy, hop, opDesc, opStatus]
    unfold State.handleBy
    rw [hop, ha]
    rfl
  refine hin.trans ?_
  rw [State.handle_eq_handleBy _ hw, hby, hl, hx]

end Sys2Proof.Machine

section
open Sys2Proof Sys2Proof.Machine

/-- Refutes O25: its last clause lets a result wait for the descriptor with its stored entry damaged; discarding it retires a plane whose queues
are under observation, and the job's record with the descriptor is gone. -/
theorem not_requestsForResultsAnswer : ¬ Obligations.RequestsForResultsAnswer := by
  intro h
  obtain ⟨hpj, hj⟩ := descriptor_landed
  obtain ⟨hb, ha, hz, hz', hs⟩ := descriptor_fields
  obtain ⟨-, -, hdesc⟩ := h 0 descriptorRx descriptor describedJob billedPJob 0 describedState descriptor_admitted hpj hj
  obtain ⟨t, ht, pj', hp, -⟩ := hdesc descriptor_received hb ha hz hz' hs
  obtain rfl := Host.Outcome.next.inj ((descFrame_runs descriptor_received).symm.trans ht)
  rw [show planeOf 0 = 0 from rfl, show describedJob.id = 1 from rfl, desc_retires] at hp
  cases hp

end

/-! ## The dispatcher's part of a command (R287, R291, R308)

A head command is answered at once, answered for the planes it names, or handed to planes; and what else of the state changes with it. -/

namespace Sys2Proof.Machine

@[simp] theorem State.updHost_findJob (s : State) (f : HostPort → HostPort) (id : Nat) : (s.updHost f).findJob id = s.findJob id := rfl

/-- A job that the state holds, after an update that keeps its identifier. -/
theorem findJob_updJob_some {s t : State} {id : Nat} {j : Job} (f : Job → Job) (hj : s.findJob id = some j)
    (hf : ∀ x, x.id = j.id → (f x).id = j.id) (ht : t.jobs = (s.updJob j.id f).jobs) : t.findJob id = some (f j) := by
  have hid := State.findJob_id hj
  have hfind : (s.updJob j.id f).findJob j.id = (s.findJob j.id).map f :=
    find?_map_same _ f (fun x hx => by simpa using hf x (by simpa using hx)) s.jobs
  rw [findJob_congr ht, ← hid, hfind, hid, hj, Option.map_some]

theorem State.forall_findJob_some {s : State} {id : Nat} {j : Job} {P : Job → Prop} (hj : s.findJob id = some j) (h : P j) :
    ∀ x, s.findJob id = some x → P x := fun _ hx => Option.some.inj (hj.symm.trans hx) ▸ h

theorem State.forall_findJob_none {s : State} {id : Nat} {P : Job → Prop} (hj : s.findJob id = none) : ∀ x, s.findJob id = some x → P x :=
  fun x hx => by simp [hj] at hx

theorem Runs.imp {i : Instr} {s : State} {P Q : State → Prop} (h : Runs i s P) (hpq : ∀ t, P t → Q t) : Runs i s Q := by
  obtain ⟨t, ht, hP⟩ := h
  exact ⟨t, ht, hpq t hP⟩

/-! ### A stretch of bytes within others -/

theorem slice_of_append {bs a b c : List Byte} {off n : Nat} (h : bs = a ++ b ++ c) (ha : a.length = off) (hb : b.length = n) :
    slice bs off n = b := by
  subst h ha hb
  simp [slice, fixLen]

theorem fieldAt_of_append {bs a c : List Byte} {off n v : Nat} (h : bs = a ++ leBytes n v ++ c) (ha : a.length = off) :
    fieldAt bs off n = v % 256 ^ n := by
  rw [fieldAt, slice_of_append h ha (leBytes_length n v), leNat_leBytes]

/-- Entry `k` of a table of `n` little-endian fields of `w` bytes. -/
theorem fieldAt_table (f : Nat → Nat) (w : Nat) {n k : Nat} (hk : k < n) (rest : List Byte) :
    fieldAt ((List.range n).flatMap (fun i => leBytes w (f i)) ++ rest) (w * k) w = f k % 256 ^ w := by
  obtain ⟨m, rfl⟩ : ∃ m, n = k + 1 + m := ⟨n - (k + 1), by omega⟩
  refine fieldAt_of_append (a := (List.range k).flatMap fun i => leBytes w (f i))
    (c := ((List.range m).map (k + 1 + ·)).flatMap (fun i => leBytes w (f i)) ++ rest) ?_ ?_
  · rw [List.range_add, List.range_succ]
    simp only [List.flatMap_append, List.flatMap_singleton, List.append_assoc]
  · simp [List.length_flatMap, Nat.mul_comm]

/-! ### The planes of a mask, each with its answer -/

theorem lookup_map_plane {β : Type} (g : PlaneIx → β) (k : PlaneIx) : ∀ ps : List PlaneIx,
    (ps.map fun k => (k.val, g k)).lookup k.val = if k ∈ ps then some (g k) else none
  | [] => rfl
  | a :: ps => by
    by_cases h : k = a
    · simp [h]
    · have hv : (k.val == a.val) = false := beq_false_of_ne fun e => h (Fin.ext e)
      simp [List.lookup, hv, h, lookup_map_plane g k ps]

theorem mem_planesOf {m : Nat} {k : PlaneIx} : k ∈ planesOf m ↔ m.testBit k = true := by
  simp [planesOf, allPlanes]

theorem flatMap_filter_ite {α β : Type} (p : α → Bool) (f : α → List β) : ∀ l : List α,
    (l.flatMap fun a => if p a then f a else []) = (l.filter p).flatMap f
  | [] => rfl
  | a :: l => by
    rw [List.flatMap_cons, flatMap_filter_ite p f l, List.filter_cons]
    cases p a <;> simp

theorem range_eight : List.range 8 = allPlanes.map (·.val) := by decide

section
variable (m : Nat) (g : PlaneIx → Status × List Byte)

/-- The planes of a mask with the status and the section that each answers. -/
def answersOf : List (Nat × Status × List Byte) := (planesOf m).map fun k => (k.val, g k)

theorem answersOf_lookup (k : PlaneIx) : (answersOf m g).lookup k.val = if m.testBit k then some (g k) else none := by
  simp only [answersOf, lookup_map_plane, mem_planesOf]

/-- The status block of R291 holds the status of each plane of the mask, and 0 for the others. -/
theorem planePayload_status (k : PlaneIx) :
    fieldAt (planePayload (answersOf m g)) (2 * k.val) 2 = if k ∈ planesOf m then (g k).1.code else 0 := by
  have hcode : (g k).1.code < 65536 := by cases (g k).1 <;> decide
  refine (fieldAt_table _ 2 k.isLt _).trans ?_
  rw [answersOf_lookup]
  by_cases h : m.testBit k = true
  · simp [h, mem_planesOf, hcode]
  · simp [h, mem_planesOf]

/-- The sections of R291 follow the status block in the order of the planes. -/
theorem planePayload_sections : (planePayload (answersOf m g)).drop 16 = (planesOf m).flatMap fun k => (g k).2 := by
  have hblock (f : Nat → Nat) : ((List.range 8).flatMap fun k => leBytes 2 (f k)).length = 16 := by simp [List.length_flatMap]
  have hsec (k : PlaneIx) : (((answersOf m g).lookup k.val).map (·.2)).getD [] = if m.testBit k then (g k).2 else [] := by
    rw [answersOf_lookup]
    cases m.testBit k <;> rfl
  unfold planePayload
  rw [List.drop_left' (hblock _), range_eight, List.flatMap_map]
  simp only [hsec]
  exact flatMap_filter_ite _ _ _

/-- Where no plane answers `OK`, the reply has the status of the lowest of them (R291). -/
theorem planeStatus_head (hg : ∀ k, (g k).1 ≠ .ok) {k : PlaneIx} (hk : (planesOf m).head? = some k) :
    planeStatus (answersOf m g) = (g k).1 := by
  have hst (k : PlaneIx) : ((answersOf m g).lookup k.val).map (·.1) = if m.testBit k then some (g k).1 else none := by
    rw [answersOf_lookup]
    cases m.testBit k <;> rfl
  have hlist : ((List.range 8).filterMap fun i => ((answersOf m g).lookup i).map (·.1)) = (planesOf m).map fun k => (g k).1 := by
    rw [range_eight, List.filterMap_map, ← List.filterMap_eq_map, planesOf, List.filterMap_filter]
    exact congrArg (List.filterMap · allPlanes) (funext hst)
  obtain ⟨l, hl⟩ := List.head?_eq_some_iff.1 hk
  simp [planeStatus, hlist, hl, hg k]

end

/-! ### Answering, refusing and handing out -/

/-- What plane `k` answers to a command refused with `st` and the section `sec`. -/
def State.refusal (s : State) (st : Status) (sec : List Byte) (k : PlaneIx) : Status × List Byte :=
  if (s.plane k).ps = .inService then (st, sec) else (.planedown, [])

theorem State.replyPlanes_eq (s : State) (c : Held) (m : Nat) (st : Status) (sec : List Byte) : ∃ pm,
    s.replyPlanes c (planesOf m) st sec =
      s.answer c.id (planeStatus (answersOf m (s.refusal st sec))) (planePayload (answersOf m (s.refusal st sec))) pm := by
  have h : ((planesOf m).map fun k => if (s.plane k).ps = .inService then (k.val, st, sec) else (k.val, .planedown, [])) =
      answersOf m (s.refusal st sec) := List.map_congr_left fun k _ => by unfold State.refusal; split <;> rfl
  exact ⟨_, by rw [State.replyPlanes, h]⟩

/-- A refusal for planes answers for every one of them (R291). -/
theorem State.replyPlanes_refused {s : State} {c : Held} (hm : c ∈ s.host.held) (hu : ∀ o ∈ s.host.held, o.id = c.id → o = c) (m : Nat)
    {st : Status} (hst : st ≠ .ok) (sec : List Byte) : s.RefusedBy (s.replyPlanes c (planesOf m) st sec) c (planesOf m) st sec := by
  obtain ⟨pm, heq⟩ := s.replyPlanes_eq c m st sec
  have hne (k : PlaneIx) : (s.refusal st sec k).1 ≠ .ok := by
    unfold State.refusal
    split
    · exact hst
    · decide
  refine ⟨_, _, heq ▸ State.answer_answered hm hu _ _ pm, fun k => ?_, ?_, fun k hk => ?_⟩
  · rw [planePayload_status]
    unfold State.refusal
    split <;> [split; skip] <;> rfl
  · have hsec (k : PlaneIx) : (s.refusal st sec k).2 = if (s.plane k).ps == .inService then sec else [] := by
      unfold State.refusal
      by_cases h : (s.plane k).ps = .inService <;> simp [h]
    rw [planePayload_sections]
    simp only [hsec]
    exact flatMap_filter_ite _ _ _
  · rw [planeStatus_head _ _ hne hk]
    unfold State.refusal
    split <;> rfl

/-- A command handed to planes keeps what was prepared for its reply. -/
theorem State.handOut_extra {s : State} {c : Held} {ps : List PlaneIx} (extra : List Byte) (h : s.Serving ps) (hn : ps.Nodup)
    (hm : c ∈ s.host.held) : ∃ o ∈ (s.handOut c ps extra).host.held, o.id = c.id ∧ o.extra = extra := by
  have he : ps.isEmpty = false := by simpa using h.1
  have hw := (State.each_cmdIn { held := c.id, pkt := c.pkt } c.id (fun s k => s.planeAnswer c.id k .planedown []) ps
    (s.updHeld c.id fun _ => { c with phase := .waiting, owes := ps.map (·.val), extra := extra }) hn h.2).1
  unfold State.handOut
  simp only [he, Bool.false_eq_true, if_false]
  rw [hw]
  refine ⟨_, List.mem_map.2 ⟨_, List.mem_map.2 ⟨c, hm, if_pos (beq_self_eq_true _)⟩, if_pos (beq_self_eq_true _)⟩, rfl, rfl⟩

section
variable {i : Instr} {s : State} {op : Nat} {p : Packet} {c : Held} {f : Held → State → State}
  (h : s.AtHead op p c) (hx : exec i s = .next (s.dispatch op p f))
include h hx

/-- A command row executes its meaning on the head command. -/
theorem State.AtHead.exec_eq : exec i s = .next (f c (s.updHost HostPort.settleTail)) := hx.trans (congrArg _ (h.dispatch_eq f))

/-- A head command that is answered at once. -/
theorem State.AtHead.runs_reply {st : Status} {pl : List Byte}
    (hf : f c (s.updHost HostPort.settleTail) = (s.updHost HostPort.settleTail).reply c st pl) :
    Runs i s fun t => t = { s with host := t.host } ∧ t.Answered c st pl :=
  ⟨_, h.exec_eq hx, hf ▸ h.reply_param st pl⟩

/-- A head command that is refused for the planes it names. -/
theorem State.AtHead.runs_refused {m : Nat} {st : Status} (hst : st ≠ .ok)
    (hf : f c (s.updHost HostPort.settleTail) = (s.updHost HostPort.settleTail).replyPlanes c (planesOf m) st) :
    Runs i s fun t => t = { s with host := t.host } ∧ s.RefusedBy t c (planesOf m) st [] :=
  ⟨_, h.exec_eq hx, hf ▸ ⟨rfl,
    State.replyPlanes_refused (s := s.updHost HostPort.settleTail) (by simpa using h.mem) (by simpa using h.2.2.2) m hst []⟩⟩

/-- A head command that is answered at once, after an update `v` of the state that leaves the host port block. -/
theorem State.AtHead.runs_replyAfter {v : State} {st : Status} {pl : List Byte} (hv : v.host = s.host.settleTail)
    (hf : f c (s.updHost HostPort.settleTail) = v.reply c st pl) :
    Runs i s fun t => t = { v with host := t.host } ∧ t.Answered c st pl :=
  ⟨_, h.exec_eq hx, hf ▸ ⟨rfl, State.reply_answered (by simpa [hv] using h.mem) (by simpa [hv] using h.2.2.2) st pl⟩⟩

/-- A head command that is answered at once, with an update `g` of its job. -/
theorem State.AtHead.runs_replyJob {j : Job} {g : Job → Job} {st : Status} {pl : List Byte} (hj : s.findJob p.job = some j)
    (hg : ∀ x, x.id = j.id → (g x).id = j.id)
    (hf : f c (s.updHost HostPort.settleTail) = ((s.updHost HostPort.settleTail).updJob j.id g).reply c st pl) :
    Runs i s fun t => t = { s with host := t.host, jobs := t.jobs } ∧ t.Answered c st pl ∧ t.findJob p.job = some (g j) := by
  refine (h.runs_replyAfter hx rfl hf).imp fun t ht => ?_
  obtain ⟨hframe, hans⟩ := ht
  have hjobs : t.jobs = (s.updJob j.id g).jobs := by rw [hframe]; rfl
  exact ⟨by rw [hframe]; rfl, hans, findJob_updJob_some g hj hg hjobs⟩

/-- A head command that is handed to planes in service, after an update `v` of the state that leaves the host port block and the planes. -/
theorem State.AtHead.runs_handOut {v : State} {m : Nat} {extra : List Byte} (hv : v.host = s.host.settleTail) (hp : v.planes = s.planes)
    (hs : s.Serving (planesOf m)) (hf : f c (s.updHost HostPort.settleTail) = v.handOut c (planesOf m) extra) :
    Runs i s fun t => t = { v with host := t.host, planes := t.planes } ∧ s.HandedTo t c (planesOf m) ∧
      ∃ o ∈ t.host.held, o.id = c.id ∧ o.extra = extra := by
  have hpl (k : PlaneIx) : v.plane k = s.plane k := by rw [State.plane, hp]; rfl
  have hsv : v.Serving (planesOf m) := ⟨hs.1, fun k hk => by rw [hpl]; exact hs.2 k hk⟩
  have hm : c ∈ v.host.held := by simpa [hv] using h.mem
  obtain ⟨hframe, hto⟩ := State.handOut_handed extra hsv (planesOf_nodup m) hm h.left_nil
  refine ⟨_, h.exec_eq hx, ?_⟩
  rw [hf]
  refine ⟨hframe, ?_, State.handOut_extra extra hsv (planesOf_nodup m) hm⟩
  simpa only [State.HandedTo, hpl] using hto

/-- A head command that is handed to planes in service, with nothing else of the state changed. -/
theorem State.AtHead.runs_handOutOnly {m : Nat} (hs : s.Serving (planesOf m))
    (hf : f c (s.updHost HostPort.settleTail) = (s.updHost HostPort.settleTail).handOut c (planesOf m)) :
    Runs i s fun t => t = { s with host := t.host, planes := t.planes } ∧ s.HandedTo t c (planesOf m) :=
  (h.runs_handOut hx (v := s.updHost HostPort.settleTail) rfl rfl hs hf).imp fun _ ⟨hframe, hto, _⟩ => ⟨hframe, hto⟩

/-- A head command that is handed to its job's planes in service, with an update `g` of the job. -/
theorem State.AtHead.runs_handOutJob {j : Job} {g : Job → Job} (hj : s.findJob p.job = some j) (hg : ∀ x, x.id = j.id → (g x).id = j.id)
    (hs : s.Serving j.planes)
    (hf : f c (s.updHost HostPort.settleTail) = ((s.updHost HostPort.settleTail).updJob j.id g).handOut c j.planes) :
    Runs i s fun t => t = { s with host := t.host, jobs := t.jobs, planes := t.planes } ∧ s.HandedTo t c j.planes ∧
      t.findJob p.job = some (g j) := by
  refine (h.runs_handOut hx (v := (s.updHost HostPort.settleTail).updJob j.id g) rfl rfl hs hf).imp fun t ⟨hframe, hto, _⟩ => ?_
  have hjobs : t.jobs = (s.updJob j.id g).jobs := by rw [hframe]; rfl
  exact ⟨by rw [hframe]; rfl, hto, findJob_updJob_some g hj hg hjobs⟩

end

end Sys2Proof.Machine

/-! ## The description of a job (R142, R144, R262) -/

namespace Sys2Proof.Machine

@[simp] theorem HostPort.settleTail_programming (h : HostPort) : h.settleTail.programming = h.programming := by rw [h.settleTail_eq]
@[simp] theorem HostPort.settleTail_closeReplies (h : HostPort) : h.settleTail.closeReplies = h.closeReplies := by rw [h.settleTail_eq]
@[simp] theorem State.updHost_defining (s : State) (f : HostPort → HostPort) : (s.updHost f).defining = s.defining := rfl

/-! ### Writing a table (R144) -/

theorem lookup_filter_key {β : Type} (q : Nat → Bool) (a : Nat) (hq : q a = true) : ∀ t : List (Nat × β),
    (t.filter fun x => q x.1).lookup a = t.lookup a
  | [] => rfl
  | (b, y) :: t => by
    have ih := lookup_filter_key q a hq t
    by_cases hab : a = b
    · subst hab
      simp [hq]
    · have hb : (a == b) = false := beq_false_of_ne hab
      cases h : q b <;> simp [List.lookup, hb, h, ih]

theorem lookup_segment (off a : Nat) : ∀ (bs : List Byte) (n : Nat),
    ((bs.zipIdx n).map fun x => (off + x.2, x.1)).lookup a = if off + n ≤ a then bs[a - (off + n)]? else none
  | [], n => by simp
  | b :: bs, n => by
    rw [List.zipIdx_cons, List.map_cons, List.lookup_cons, lookup_segment off a bs (n + 1)]
    obtain h | rfl | h := Nat.lt_trichotomy a (off + n)
    · rw [beq_false_of_ne (Nat.ne_of_lt h), if_neg (by omega), if_neg (by omega)]
    · simp
    · rw [beq_false_of_ne (Nat.ne_of_gt h), if_pos (by omega), if_pos (by omega), show a - (off + n) = a - (off + (n + 1)) + 1 by omega,
        List.getElem?_cons_succ]

/-- A segment written reads back. -/
theorem tabWrite_lookup_inside (t : List (Nat × Byte)) (off : Nat) {bs : List Byte} {i : Nat} (hi : i < bs.length) :
    (tabWrite t off bs).lookup (off + i) = some (bs.getD i 0) := by
  rw [tabWrite, List.lookup_append, lookup_segment]
  simp [hi]

/-- A byte outside the segment is kept. -/
theorem tabWrite_lookup_outside (t : List (Nat × Byte)) {off a : Nat} {bs : List Byte} (ha : a < off ∨ off + bs.length ≤ a) :
    (tabWrite t off bs).lookup a = t.lookup a := by
  have hnone : ((bs.zipIdx.map fun x => (off + x.2, x.1)).lookup a) = none := by
    rw [lookup_segment]
    split
    · exact List.getElem?_eq_none (by omega)
    · rfl
  rw [tabWrite, List.lookup_append, hnone, Option.none_or]
  exact lookup_filter_key (fun b => b < off || off + bs.length ≤ b) a (by simpa using ha) t

theorem slice_getD (bs : List Byte) (off : Nat) {n i : Nat} (hi : i < n) : (slice bs off n).getD i 0 = (bs.drop off).getD i 0 := by
  simp only [slice, fixLen, List.getD_eq_getElem?_getD, List.getElem?_take_of_lt hi, List.getElem?_append]
  split
  · rfl
  · next h =>
    rw [zeros, List.getElem?_replicate, if_pos (by omega), List.getElem?_eq_none (Nat.not_lt.1 h)]
    rfl

/-- The table of a description that `JOB_TABLE` numbers `T`. -/
def Job.table (j : Job) (T : Nat) : List (Nat × Byte) := if T = 1 then j.tabBucket else if T = 2 then j.tabPlace else j.tabKimg

section
variable {T : Nat} (hT : T ∈ [1, 2, 3]) (j : Job) (off : Nat) (bs : List Byte)
include hT

theorem Job.writeTable_table : (j.writeTable T off bs).table T = tabWrite (j.table T) off bs := by
  obtain rfl | rfl | rfl : T = 1 ∨ T = 2 ∨ T = 3 := by simpa using hT
  all_goals rfl

/-- Writing one table leaves the rest of the description. -/
theorem Job.writeTable_others : let j' := j.writeTable T off bs
    j' = { j with tabBucket := j'.tabBucket, tabPlace := j'.tabPlace, tabKimg := j'.tabKimg } ∧
    (T ≠ 1 → j'.tabBucket = j.tabBucket) ∧ (T ≠ 2 → j'.tabPlace = j.tabPlace) ∧ (T ≠ 3 → j'.tabKimg = j.tabKimg) := by
  obtain rfl | rfl | rfl : T = 1 ∨ T = 2 ∨ T = 3 := by simpa using hT
  all_goals simp [Job.writeTable]

end

/-- What a `JOB_TABLE` of table `T` leaves of a description: its bytes in that table, and all else as it was (R144). -/
theorem Job.writeTable_stores {T : Nat} (hT : T ∈ [1, 2, 3]) (j : Job) (params : List Byte) (off n : Nat) :
    let j' := j.writeTable T off (slice params 12 n)
    (∀ i < n, (j'.table T).lookup (off + i) = some ((params.drop 12).getD i 0)) ∧
    ∀ a, (a < off ∨ off + n ≤ a) → (j'.table T).lookup a = (j.table T).lookup a := by
  intro j'
  rw [j.writeTable_table hT]
  refine ⟨fun i hi => ?_, fun a ha => tabWrite_lookup_outside _ (by simpa using ha)⟩
  rw [tabWrite_lookup_inside _ _ (by simpa using hi), slice_getD _ _ hi]

theorem Job.writeTable_id (j : Job) (T off : Nat) (bs : List Byte) : (j.writeTable T off bs).id = j.id := by
  unfold Job.writeTable
  split <;> rfl

theorem JobHdr.tabLen_eq {T : Nat} (hT : T ∈ [1, 2, 3]) (h : JobHdr) :
    h.tabLen T = if T = 1 then 32 * h.nbucket else if T = 2 then 16 * h.nplace else h.kimglen := by
  obtain rfl | rfl | rfl : T = 1 ∨ T = 2 ∨ T = 3 := by simpa using hT
  all_goals rfl

/-! ### The three commands -/

section
variable {p : Packet} {c : Held} {s : State}

/-- The reply of a `JOB_CLOSE` of identifier `id` has not been sent (R149). -/
def State.Unsent (s : State) (id : Nat) : Prop := ∃ x ∈ s.host.closeReplies, x.2 = id ∧ ∃ o ∈ s.host.held, o.id = x.1

/-- The job holds the description that the parameters `b` of a `JOB_DEFINE` carry (R142). -/
def Job.Described (j : Job) (id : Nat) (b : List Byte) : Prop :=
  j.id = id ∧ j.st = .defining ∧ j.hdr = parseHdr b ∧ j.members = parseMembers (b.drop 192) (parseHdr b).nmemb ∧
  j.tabBucket = [] ∧ j.tabPlace = [] ∧ j.tabKimg = []

theorem Job.define_described {j : Job} {id : Nat} (hid : j.id = id) (hd : j.st = .defining) (b : List Byte) :
    (j.define b).Described id b := ⟨hid, hd, rfl, rfl, rfl, rfl, rfl⟩

theorem State.unsent_iff (s : State) (id : Nat) :
    (s.host.closeReplies.any fun x => x.2 == id && s.host.held.any (·.id == x.1)) = true ↔ s.Unsent id := by
  simp [State.Unsent]

section
variable (h : s.AtHead 0x0201 p c) (hp : s.host.programming = none)
include h hp

/-- `JOB_DEFINE` of a free identifier, with the defaults of `REPL_SET` (R142, R262). -/
theorem jobDefine_makes (hj : s.findJob p.job = none) (hn : ¬s.Unsent p.job) (hd : s.defining < 4) : Runs (.jobDefine p) s fun t =>
    t = { s with host := t.host, jobs := t.jobs } ∧ t.Answered c .ok [] ∧
    ∃ j, t.jobs = s.jobs ++ [j] ∧ j.Described p.job p.params ∧ j.digk = 50 ∧ j.logl = 8 := by
  obtain rfl : c.pkt = p := h.2.1
  have hrun := h.runs_replyAfter (i := .jobDefine c.pkt) (st := .ok) (pl := [])
    (v := { s.updHost HostPort.settleTail with jobs := s.jobs ++ [Job.define { id := c.pkt.job } c.pkt.params] })
    rfl rfl (by simp [hp, hj, s.unsent_iff, hn, Nat.not_le.2 hd])
  refine hrun.imp fun t ⟨hframe, hans⟩ => ⟨?_, hans, _, congrArg State.jobs hframe, Job.define_described rfl rfl _, rfl, rfl⟩
  rw [hframe]
  rfl

theorem jobDefine_unsent (hj : s.findJob p.job = none) (hn : s.Unsent p.job) :
    Runs (.jobDefine p) s fun t => t = { s with host := t.host } ∧ t.Answered c .param [] := by
  obtain rfl : c.pkt = p := h.2.1
  exact h.runs_reply rfl (by simp [hp, hj, s.unsent_iff, hn])

theorem jobDefine_full (hj : s.findJob p.job = none) (hn : ¬s.Unsent p.job) (hd : 4 ≤ s.defining) :
    Runs (.jobDefine p) s fun t => t = { s with host := t.host } ∧ t.Answered c .busy [] := by
  obtain rfl : c.pkt = p := h.2.1
  exact h.runs_reply rfl (by simp [hp, hj, s.unsent_iff, hn, hd])

variable {j : Job} (hj : s.findJob p.job = some j)
include hj

/-- `JOB_DEFINE` of a job that is still being defined (R142). -/
theorem jobDefine_again (hd : j.st = .defining) : Runs (.jobDefine p) s fun t =>
    t = { s with host := t.host, jobs := t.jobs } ∧ t.Answered c .ok [] ∧
    ∃ j', t.findJob p.job = some j' ∧ j'.Described p.job p.params := by
  obtain rfl : c.pkt = p := h.2.1
  exact (h.runs_replyJob (g := fun j => j.define c.pkt.params) rfl hj (fun _ hx => hx) (by simp [hp, hj, hd])).imp
    fun t ⟨hframe, hans, hjob⟩ => ⟨hframe, hans, _, hjob, Job.define_described (State.findJob_id hj) hd _⟩

theorem jobDefine_refuses (hd : j.st ≠ .defining) :
    Runs (.jobDefine p) s fun t => t = { s with host := t.host } ∧ t.Answered c .param [] := by
  obtain rfl : c.pkt = p := h.2.1
  exact h.runs_reply rfl (by simp [hp, hj, hd])

end

section
variable (h : s.AtHead 0x0202 p c)
include h

/-- `JOB_TABLE` within the declared length of the table (R144). -/
theorem jobTable_writes {j : Job} (hj : s.findJob p.job = some j) (hd : j.st = .defining)
    (hl : fieldAt p.params 4 4 + fieldAt p.params 8 4 ≤ j.hdr.tabLen (fieldAt p.params 0 1)) :
    Runs (.jobTable p) s fun t => t = { s with host := t.host, jobs := t.jobs } ∧ t.Answered c .ok [] ∧
      t.findJob p.job =
        some (j.writeTable (fieldAt p.params 0 1) (fieldAt p.params 4 4) (slice p.params 12 (fieldAt p.params 8 4))) := by
  obtain rfl : c.pkt = p := h.2.1
  exact h.runs_replyJob (g := fun j => j.writeTable (pf c.pkt 0 1) (pf c.pkt 4 4) (psl c.pkt 12 (pf c.pkt 8 4))) rfl hj
    (fun x hx => (x.writeTable_id ..).trans hx) (by simp [hj, hd, pf, Nat.not_lt.2 hl])

theorem jobTable_beyond {j : Job} (hj : s.findJob p.job = some j) (hd : j.st = .defining)
    (hl : j.hdr.tabLen (fieldAt p.params 0 1) < fieldAt p.params 4 4 + fieldAt p.params 8 4) :
    Runs (.jobTable p) s fun t => t = { s with host := t.host } ∧ t.Answered c .param [] := by
  obtain rfl : c.pkt = p := h.2.1
  exact h.runs_reply rfl (by simp [hj, hd, pf, hl])

theorem jobTable_nojob (hn : ∀ j, s.findJob p.job = some j → j.st ≠ .defining) :
    Runs (.jobTable p) s fun t => t = { s with host := t.host } ∧ t.Answered c .nojob [] := by
  obtain rfl : c.pkt = p := h.2.1
  refine h.runs_reply rfl ?_
  cases hj : s.findJob c.pkt.job with
  | none => simp [hj]
  | some j => simp [hj, hn j hj]

end

/-- `REPL_SET` (R262). -/
theorem replSet_sets {j : Job} (h : s.AtHead 0x0209 p c) (hj : s.findJob p.job = some j) (hd : j.st = .defining)
    (hk : fieldAt p.params 0 2 ≤ 10000) (hl : within (fieldAt p.params 2 1) 1 64 = true) :
    Runs (.replSet p) s fun t => t = { s with host := t.host, jobs := t.jobs } ∧ t.Answered c .ok [] ∧
      t.findJob p.job = some { j with digk := fieldAt p.params 0 2, logl := fieldAt p.params 2 1 } := by
  obtain rfl : c.pkt = p := h.2.1
  exact h.runs_replyJob (g := fun j => { j with digk := pf c.pkt 0 2, logl := pf c.pkt 2 1 }) rfl hj (fun _ hx => hx)
    (by simp [hj, hd, pf, Nat.not_lt.2 hk, hl])

theorem replSet_refuses (h : s.AtHead 0x0209 p c) (hn : ¬(fieldAt p.params 0 2 ≤ 10000 ∧ within (fieldAt p.params 2 1) 1 64 = true) ∨
    ∀ j, s.findJob p.job = some j → j.st ≠ .defining) :
    Runs (.replSet p) s fun t => t = { s with host := t.host } ∧ t.Answered c .param [] := by
  obtain rfl : c.pkt = p := h.2.1
  refine h.runs_reply rfl ?_
  cases hj : s.findJob c.pkt.job with
  | none => simp [hj]
  | some j =>
    have hbad : (j.st != .defining || 10000 < pf c.pkt 0 2 || !within (pf c.pkt 2 1) 1 64) = true := by
      obtain hr | hd := hn
      · by_cases hk : fieldAt c.pkt.params 0 2 ≤ 10000
        · simp [pf, show within (fieldAt c.pkt.params 2 1) 1 64 = false by simpa [hk] using hr]
        · simp [pf, Nat.not_le.1 hk]
      · simp [hd j hj]
    simp only [State.updHost_findJob, hj, hbad, if_true]

end

end Sys2Proof.Machine

section
open Sys2Proof Sys2Proof.Machine

/-- Settles O13: a definition, a table and the values of `REPL_SET` each by the state of the job and the ranges of their fields. -/
theorem jobDefinitionIsStored : Obligations.JobDefinitionIsStored := by
  intro p c s
  refine ⟨fun h hp => ?_, fun T hT h hf => ?_, fun h => ?_⟩
  · exact ⟨jobDefine_makes h hp, jobDefine_unsent h hp, jobDefine_full h hp, fun j hj => jobDefine_again h hp hj,
      fun j hj => jobDefine_refuses h hp hj⟩
  · subst hf
    refine ⟨fun j hj hd => ⟨fun hl => ?_, fun hl => jobTable_beyond h hj hd (by rwa [JobHdr.tabLen_eq hT])⟩, jobTable_nojob h⟩
    refine (jobTable_writes h hj hd (by rwa [JobHdr.tabLen_eq hT])).imp fun t ⟨hframe, hans, hjob⟩ => ⟨hframe, hans, _, hjob, ?_⟩
    obtain ⟨hrest, hbucket, hplace, hkimg⟩ := j.writeTable_others hT (fieldAt p.params 4 4) (slice p.params 12 (fieldAt p.params 8 4))
    exact ⟨hrest, hbucket, hplace, hkimg, j.writeTable_stores hT ..⟩
  · intro ok
    have hok : ok ↔ fieldAt p.params 0 2 ≤ 10000 ∧ within (fieldAt p.params 2 1) 1 64 = true := by simp [ok, within]
    exact ⟨fun j hj hd hr => replSet_sets h hj hd (hok.1 hr).1 (hok.1 hr).2, fun hn => replSet_refuses h (hn.imp_left (mt hok.2))⟩

end

/-! ## Opening a job and its groups (R147, R152, R153, R155) -/

namespace Sys2Proof.Machine

/-- The free group record that is taken is the lowest of the 1,024 (R152). -/
theorem freeGroup_eq_some {used : List Nat} {g : Nat} : freeGroup used = some g ↔ g < 1024 ∧ g ∉ used ∧ ∀ g' < g, g' ∈ used := by
  rw [freeGroup, List.find?_range_eq_some]
  simp [and_left_comm]

theorem freeGroup_of_free {used : List Nat} (h : ∃ g < 1024, g ∉ used) : ∃ g, freeGroup used = some g := by
  obtain ⟨g, hg, hn⟩ := h
  exact Option.isSome_iff_exists.1 (List.find?_isSome.2 ⟨g, List.mem_range.2 hg, by simpa using hn⟩)

/-! ### `JOB_OPEN` (R147) -/

@[simp] theorem State.updHost_peerLists (s : State) (f : HostPort → HostPort) (j : Job) : (s.updHost f).peerLists j = s.peerLists j := rfl

@[simp] theorem State.updHost_openStatus (s : State) (f : HostPort → HostPort) (j : Job) (peers : List (Nat × Nat × Nat)) :
    (s.updHost f).openStatus j peers = s.openStatus j peers := rfl

/-- Row 5 of R147: a job that opens finds a group record. -/
theorem State.openStatus_ok_group {s : State} {j : Job} {peers : List (Nat × Nat × Nat)} (h : s.openStatus j peers = .ok) :
    ∃ g, freeGroup s.groups = some g := by
  have hq : s.openQuota j = true := by
    unfold State.openStatus at h
    split_ifs at h with _ _ _ hq
    simpa using hq
  simp only [State.openQuota, Bool.and_eq_true] at hq
  exact Option.isSome_iff_exists.1 hq.1.2

/-- A job as it opens: `LOADING`, with its peer lists, its group record and every member in its group (R152, R183). -/
def Job.opened (j : Job) (peers : List (Nat × Nat × Nat)) (g : Nat) : Job :=
  { j with st := .loading, peers := peers, groupRec := g, group := List.range j.members.length, reform := none, reformStep := none,
           fencedM := [], lostM := [], lostPeers := [], lastComb := -1 }

theorem State.openJob_eq {s : State} {g : Nat} (hg : freeGroup s.groups = some g) (c : Held) (j : Job) (peers : List (Nat × Nat × Nat)) :
    s.openJob c j peers = (({ s with groups := g :: s.groups } : State).updJob j.id fun _ => j.opened peers g).handOut c j.planes := by
  unfold State.openJob
  rw [hg]
  rfl

section
variable {p : Packet} {c : Held} {s : State} {j : Job} (h : s.AtHead 0x0203 p c) (hp : s.host.programming = none) (hj : s.findJob p.job = some j)
include h hp hj

theorem jobOpen_loads (hd : j.st = .defining) (hok : s.openStatus j.parsed (s.peerLists j.parsed) = .ok) (hs : s.Serving j.planes) :
    Runs (.jobOpen p) s fun t =>
      t = { s with host := t.host, jobs := t.jobs, groups := t.groups, planes := t.planes } ∧ s.HandedTo t c j.planes ∧
      ∃ j' g, t.findJob p.job = some j' ∧ j'.st = .loading ∧ j'.groupRec = g ∧ t.groups = g :: s.groups ∧ g < 1024 ∧ g ∉ s.groups ∧
        (∀ g' < g, g' ∈ s.groups) ∧ j'.group = List.range j.members.length ∧ j'.fencedM = [] ∧ j'.hdr = j.hdr := by
  obtain rfl : c.pkt = p := h.2.1
  obtain ⟨g, hg⟩ := State.openStatus_ok_group hok
  obtain ⟨hlt, hnew, hlow⟩ := freeGroup_eq_some.1 hg
  have hopen := State.openJob_eq (s := s.updHost HostPort.settleTail) hg c j.parsed (s.peerLists j.parsed)
  have hrun := h.runs_handOut (i := .jobOpen c.pkt) rfl (v := ({ s.updHost HostPort.settleTail with groups := g :: s.groups } : State).updJob
    j.id fun _ => j.parsed.opened (s.peerLists j.parsed) g) rfl rfl hs (Eq.trans (by simp [hp, hj, hd, hok]) hopen)
  refine hrun.imp fun t ⟨hframe, hto, _⟩ => ?_
  have hjob := findJob_updJob_some (t := t) (fun _ => j.parsed.opened (s.peerLists j.parsed) g) hj (fun _ _ => rfl) (by rw [hframe]; rfl)
  exact ⟨by rw [hframe]; rfl, hto, _, g, hjob, rfl, rfl, by rw [hframe]; rfl, hlt, hnew, hlow, rfl, rfl, rfl⟩

theorem jobOpen_refuses (hd : j.st = .defining) (hbad : s.openStatus j.parsed (s.peerLists j.parsed) ≠ .ok) : Runs (.jobOpen p) s fun t =>
    t = { s with host := t.host } ∧ t.Answered c (s.openStatus j.parsed (s.peerLists j.parsed)) [] := by
  obtain rfl : c.pkt = p := h.2.1
  exact h.runs_reply rfl (by simp [hp, hj, hd])

theorem jobOpen_nojob (hd : j.st ≠ .defining) : Runs (.jobOpen p) s fun t => t = { s with host := t.host } ∧ t.Answered c .nojob [] := by
  obtain rfl : c.pkt = p := h.2.1
  exact h.runs_reply rfl (by simp [hp, hj, hd])

end

end Sys2Proof.Machine

section
open Sys2Proof Sys2Proof.Machine

/-- Settles O14: the checks of R147 decide, and row 5 of them leaves a group record to take. -/
theorem jobOpenLoadsOrRefuses : Obligations.JobOpenLoadsOrRefuses := by
  intro j p c s h hp hj
  refine ⟨jobOpen_loads h hp hj, fun hd hbad => (jobOpen_refuses h hp hj hd hbad).imp fun t ⟨hframe, hans⟩ => ⟨hframe, ?_, hans⟩,
    jobOpen_nojob h hp hj⟩
  rw [hframe]
  exact hj

end

/-! ## The group commands (R153, R155) -/

namespace Sys2Proof.Machine

/-- The command joins the Command in queue of plane `k`, or waits for room there (R21). -/
def State.notifyPlane (s : State) (c : Held) (k : PlaneIx) : State :=
  if (s.plane k).cmdIn.length < 16 then s.updPlane k fun p => { p with cmdIn := p.cmdIn ++ [{ held := c.id, pkt := c.pkt }] }
  else s.updHost fun h => { h with cmdWait := h.cmdWait ++ [(k.val, { held := c.id, pkt := c.pkt })] }

theorem State.notify_eq (s : State) (c : Held) (j : Job) : s.notify c j = s.each (s.heldPlanes j) fun s k => s.notifyPlane c k := rfl

/-- Telling planes of an accepted command leaves the commands that are held, and all but the host port block and the planes. -/
theorem State.each_notifyPlane (c : Held) : ∀ (ks : List PlaneIx) (s : State), let t := s.each ks fun s k => s.notifyPlane c k
    t = { s with host := t.host, planes := t.planes } ∧ t.host.held = s.host.held
  | [], _ => ⟨rfl, rfl⟩
  | k :: ks, s => by
    have hk : s.notifyPlane c k = { s with host := (s.notifyPlane c k).host, planes := (s.notifyPlane c k).planes } ∧
        (s.notifyPlane c k).host.held = s.host.held := by
      unfold State.notifyPlane
      split <;> exact ⟨rfl, rfl⟩
    obtain ⟨hframe, hheld⟩ := State.each_notifyPlane c ks (s.notifyPlane c k)
    refine ⟨?_, hheld.trans hk.2⟩
    rw [State.each_cons, hframe, hk.1]

theorem State.Answered.of_held {s t : State} {c : Held} {st : Status} {pl : List Byte} (h : s.Answered c st pl)
    (ht : t.host.held = s.host.held) : t.Answered c st pl := by
  unfold State.Answered
  rwa [ht]

/-- A head command that is answered at once, after an update `v` of the state, and that its job's planes take once it is (R309). -/
theorem State.AtHead.runs_accepted {i : Instr} {s : State} {op : Nat} {p : Packet} {c : Held} {f : Held → State → State}
    (h : s.AtHead op p c) (hx : exec i s = .next (s.dispatch op p f)) {v : State} {j : Job} {st : Status} {pl : List Byte}
    (hv : v.host = s.host.settleTail) (hf : f c (s.updHost HostPort.settleTail) = (v.reply c st pl).notify c j) :
    Runs i s fun t => t = { v with host := t.host, planes := t.planes } ∧ t.Answered c st pl := by
  have hans : (v.reply c st pl).Answered c st pl := State.reply_answered (by simpa [hv] using h.mem) (by simpa [hv] using h.2.2.2) st pl
  obtain ⟨hframe, hheld⟩ := State.each_notifyPlane c ((v.reply c st pl).heldPlanes j) (v.reply c st pl)
  rw [State.notify_eq] at hf
  exact ⟨_, h.exec_eq hx, hf ▸ ⟨hframe, hans.of_held hheld⟩⟩

/-! ### `GROUP_REFORM` (R153) -/

/-- A job whose re-form to the group without `ms`, under the record `g`, is pending (R153). -/
def Job.reforming (j : Job) (g : Nat) (ms : List Nat) : Job := { j with reform := some (g, j.group.filter fun m => !ms.contains m) }

theorem Job.reformStatus_ok {j : Job} {ms groups : List Nat} {g : Nat} (hr : j.st.isRunning = true) (hnone : j.reform = none)
    (hm : ∀ m ∈ ms, m < j.members.length ∧ m ∈ j.group ∧ m ∈ j.fencedM) (hleft : ∃ m ∈ j.group, m ∉ ms)
    (hg : freeGroup groups = some g) : j.reformStatus ms groups = .ok := by
  have hms : (ms.any fun m => j.members.length ≤ m || !j.group.contains m || !j.fencedM.contains m) = false := by
    simpa [and_assoc, imp_and] using hm
  have hall : j.group.all ms.contains = false := by simpa using hleft
  simp only [Job.reformStatus, hr, hms, hall, hnone, hg, Bool.not_true, Bool.or_false, Bool.false_eq_true, if_false,
    Option.isSome_none, Option.isNone_some]

theorem Job.reformStatus_param {j : Job} {ms groups : List Nat} (hm : ∃ m ∈ ms, m ∉ j.fencedM) : j.reformStatus ms groups = .param := by
  have hms : (ms.any fun m => j.members.length ≤ m || !j.group.contains m || !j.fencedM.contains m) = true := by
    obtain ⟨m, hmem, hn⟩ := hm
    exact List.any_eq_true.2 ⟨m, hmem, by simp [hn]⟩
  simp only [Job.reformStatus, hms, Bool.or_true, Bool.true_or, if_true]

section
variable {p : Packet} {c : Held} {s : State} {j : Job} (h : s.AtHead 0x0301 p c) (hj : s.findJob p.job = some j)
include h hj

theorem groupReform_records (hr : j.reformStatus (maskMembers p) s.groups = .ok) {g : Nat} (hg : freeGroup s.groups = some g) :
    Runs (.groupReform p) s fun t => t = { s with host := t.host, jobs := t.jobs, groups := t.groups, planes := t.planes } ∧
      t.Answered c .ok [] ∧ t.groups = g :: s.groups ∧ t.findJob p.job = some (j.reforming g (maskMembers p)) := by
  obtain rfl : c.pkt = p := h.2.1
  have hrun := h.runs_accepted (i := .groupReform c.pkt) (st := .ok) (pl := []) (j := j)
    (v := ({ s.updHost HostPort.settleTail with groups := g :: s.groups } : State).updJob j.id fun x =>
      x.reforming g (maskMembers c.pkt)) rfl rfl
    (by simp only [State.updHost_findJob, State.updHost_groups, hj, hr, hg, Option.getD_some, Job.reforming])
  refine hrun.imp fun t ⟨hframe, hans⟩ => ⟨by rw [hframe]; rfl, hans, by rw [hframe]; rfl, ?_⟩
  exact findJob_updJob_some (fun x => x.reforming g (maskMembers c.pkt)) hj (fun _ hx => hx) (by rw [hframe]; rfl)

theorem groupReform_refuses {st : Status} (hr : j.reformStatus (maskMembers p) s.groups = st) (hst : st ≠ .ok) :
    Runs (.groupReform p) s fun t => t = { s with host := t.host } ∧ t.Answered c st [] := by
  obtain rfl : c.pkt = p := h.2.1
  exact h.runs_reply rfl (by simp [hj, hr])

end

/-! ### `MEMBER_FENCE` (R155) -/

theorem mem_newlyFenced {ms fenced : List Nat} {m : Nat} :
    m ∈ ms.filter (fun m => !fenced.contains m) ++ fenced ↔ m ∈ ms ∨ m ∈ fenced := by
  by_cases h : m ∈ fenced <;> simp [h]

section
variable {p : Packet} {c : Held} {s : State} {j : Job} (h : s.AtHead 0x0302 p c) (hj : s.findJob p.job = some j)
include h hj

theorem memberFence_hands (ha : j.st.isActive = true) (hm : ∀ m ∈ maskMembers p, m < j.members.length) (hs : s.Serving j.planes) :
    Runs (.memberFence p) s fun t => t = { s with host := t.host, jobs := t.jobs, planes := t.planes } ∧ s.HandedTo t c j.planes ∧
      t.findJob p.job = some { j with fencedM := (maskMembers p).filter (fun m => !j.fencedM.contains m) ++ j.fencedM } := by
  obtain rfl : c.pkt = p := h.2.1
  have hnone : ((maskMembers c.pkt).any fun m => j.members.length ≤ m) = false := by simpa using hm
  exact h.runs_handOutJob rfl (g := fun j => { j with fencedM := (maskMembers c.pkt).filter (fun m => !j.fencedM.contains m) ++ j.fencedM })
    hj (fun _ hx => hx) hs (by simp [hj, ha, hnone])

theorem memberFence_refuses (ha : j.st.isActive = true) (hm : ∃ m ∈ maskMembers p, j.members.length ≤ m) :
    Runs (.memberFence p) s fun t => t = { s with host := t.host } ∧ t.Answered c .param [] := by
  obtain rfl : c.pkt = p := h.2.1
  have hsome : ((maskMembers c.pkt).any fun m => j.members.length ≤ m) = true := by simpa using hm
  exact h.runs_reply rfl (by simp [hj, ha, hsome])

theorem memberFence_nojob (ha : j.st.isActive = false) :
    Runs (.memberFence p) s fun t => t = { s with host := t.host } ∧ t.Answered c .nojob [] := by
  obtain rfl : c.pkt = p := h.2.1
  exact h.runs_reply rfl (by simp [hj, ha])

end

end Sys2Proof.Machine

section
open Sys2Proof Sys2Proof.Machine

/-- Settles O17: the checks of R153 and R155 decide, and the free record that a re-form takes is the lowest. -/
theorem groupCommandsRecord : Obligations.GroupCommandsRecord := by
  intro j p c s hj hid ms
  refine ⟨fun h hr hnone hm hleft hfree => ?_, fun h hr hm => groupReform_refuses h hj (j.reformStatus_param hm) (by decide),
    fun h ha hm hs => (memberFence_hands h hj ha hm hs).imp fun t ⟨hframe, hto, hjob⟩ => ⟨hframe, hto, _, hjob, rfl, fun _ => mem_newlyFenced⟩,
    fun h ha hm => memberFence_refuses h hj ha hm, fun h ha => memberFence_nojob h hj ha⟩
  obtain ⟨g, hg⟩ := freeGroup_of_free hfree
  obtain ⟨hlt, hnew, -⟩ := freeGroup_eq_some.1 hg
  exact (groupReform_records h hj (j.reformStatus_ok hr hnone hm hleft hg) hg).imp fun t ⟨hframe, hans, hgroups, hjob⟩ =>
    ⟨hframe, hans, g, hgroups, hnew, hlt, hjob⟩

end

/-! ## Job commands that planes execute (R148, R163, R197, R271, R273, R274, R298, R303) -/

namespace Sys2Proof.Machine

@[simp] theorem State.updHost_jobStep (s : State) (f : HostPort → HostPort) (j : Job) : (s.updHost f).jobStep j = s.jobStep j := rfl

/-! ### `JOB_START`, `RESTORE_BEGIN` and `RESTORE_REPLAY` -/

section
variable {p : Packet} {c : Held} {s : State}

theorem jobStart_runs {j : Job} (h : s.AtHead 0x0204 p c) (hj : s.findJob p.job = some j) (hl : j.st = .loading) (hs : s.Serving j.planes) :
    Runs (.jobStart p) s fun t => t = { s with host := t.host, jobs := t.jobs, planes := t.planes } ∧ s.HandedTo t c j.planes ∧
      t.findJob p.job = some { j with st := .running, restore := false, lastComb := (s.jobStep j : Int) - 1 } := by
  obtain rfl : c.pkt = p := h.2.1
  exact h.runs_handOutJob rfl (g := fun j' => { j' with st := .running, restore := false, lastComb := (s.jobStep j : Int) - 1 }) hj
    (fun _ hx => hx) hs (by simp [hj, hl])

theorem jobStart_refuses (h : s.AtHead 0x0204 p c) (hn : ∀ j, s.findJob p.job = some j → j.st ≠ .loading) :
    Runs (.jobStart p) s fun t => t = { s with host := t.host } ∧ t.Answered c .param [] := by
  obtain rfl : c.pkt = p := h.2.1
  refine h.runs_reply rfl ?_
  cases hj : s.findJob c.pkt.job with
  | none => simp [hj]
  | some j => simp [hj, hn j hj]

theorem restoreBegin_runs {j : Job} (h : s.AtHead 0x020B p c) (hj : s.findJob p.job = some j) (hl : j.st = .loading) (hs : s.Serving j.planes) :
    Runs (.restoreBegin p) s fun t => t = { s with host := t.host, jobs := t.jobs, planes := t.planes } ∧ s.HandedTo t c j.planes ∧
      t.findJob p.job = some { j with restore := true } := by
  obtain rfl : c.pkt = p := h.2.1
  exact h.runs_handOutJob rfl (g := fun j => { j with restore := true }) hj (fun _ hx => hx) hs (by simp [hj, hl])

theorem restoreBegin_refuses (h : s.AtHead 0x020B p c) (hn : ∀ j, s.findJob p.job = some j → j.st ≠ .loading) :
    Runs (.restoreBegin p) s fun t => t = { s with host := t.host } ∧ t.Answered c .param [] := by
  obtain rfl : c.pkt = p := h.2.1
  refine h.runs_reply rfl ?_
  cases hj : s.findJob c.pkt.job with
  | none => simp [hj]
  | some j => simp [hj, hn j hj]

/-- The record that a job has on the lowest plane that holds it. -/
def State.orecOf (s : State) (j : Job) : OptRec := (((s.heldPlanes j).filterMap fun k => s.pjob k j.id).head?.map (·.orec)).getD {}

theorem State.orecOf_eq {s : State} {j : Job} {k : PlaneIx} {pj : PJob} (hk : (s.heldPlanes j).head? = some k)
    (hp : s.pjob k j.id = some pj) : s.orecOf j = pj.orec := by
  obtain ⟨ks, hks⟩ := List.head?_eq_some_iff.1 hk
  simp [State.orecOf, hks, hp]

theorem replayReply_zero : replayReply 0 0 0 = zeros 20 := rfl

theorem replayReply_length (taken step gen : Nat) : (replayReply taken step gen).length = 20 := by simp [replayReply]

/-- What a refused `RESTORE_REPLAY` returns: no header taken, and `STEP` and `GEN` (R298). -/
theorem replayReply_fields (step gen : Nat) : fieldAt (replayReply 0 step gen) 0 4 = 0 ∧
    slice (replayReply 0 step gen) 4 8 = leBytes 8 step ∧ slice (replayReply 0 step gen) 12 4 = leBytes 4 gen := by
  refine ⟨fieldAt_of_append (v := 0) (a := []) (c := leBytes 8 step ++ leBytes 4 gen ++ zeros 4) ?_ rfl,
    slice_of_append (a := leBytes 4 0) (c := leBytes 4 gen ++ zeros 4) ?_ rfl (leBytes_length ..),
    slice_of_append (a := leBytes 4 0 ++ leBytes 8 step) (c := zeros 4) ?_ rfl (leBytes_length ..)⟩
  all_goals
    simp only [replayReply, List.append_assoc]
    rfl

section
variable (h : s.AtHead 0x020C p c)
include h

theorem restoreReplay_runs {j : Job} (hj : s.findJob p.job = some j) (hl : j.st = .loading) (hr : j.restore = true) (hs : s.Serving j.planes) :
    Runs (.restoreReplay p) s fun t => t = { s with host := t.host, planes := t.planes } ∧ s.HandedTo t c j.planes := by
  obtain rfl : c.pkt = p := h.2.1
  exact h.runs_handOutOnly rfl hs (by simp [hj, hl, hr, Job.planes])

theorem restoreReplay_refuses {j : Job} (hj : s.findJob p.job = some j) (hn : j.st ≠ .loading ∨ j.restore = false) :
    Runs (.restoreReplay p) s fun t => t = { s with host := t.host } ∧
      t.Answered c .param (replayReply 0 (s.orecOf j).step (s.orecOf j).gen) := by
  obtain rfl : c.pkt = p := h.2.1
  have hno : (decide (j.st = .loading) && j.restore) = false := by
    obtain hl | hr := hn
    · simp [hl]
    · simp [hr]
  exact h.runs_reply rfl (by simp only [State.updHost_findJob, hj, hno, Bool.false_eq_true, if_false]; rfl)

theorem restoreReplay_unknown (hj : s.findJob p.job = none) :
    Runs (.restoreReplay p) s fun t => t = { s with host := t.host } ∧ t.Answered c .param (zeros 20) := by
  obtain rfl : c.pkt = p := h.2.1
  exact h.runs_reply rfl (by simp [hj, replayReply_zero])

end

/-! ### `JOB_QUERY` (R298) -/

theorem jobQueryHead_state (j : Job) (n : Nat) : fieldAt (jobQueryHead j n) 0 1 = j.st.code := by
  have hcode : j.st.code % 256 ^ 1 = j.st.code := by cases j.st <;> rfl
  simp only [jobQueryHead, List.append_assoc, fieldAt_leBytes_append, hcode]

theorem jobQueryHead_fenced (j : Job) (n : Nat) : slice (jobQueryHead j n) 8 16 = leBytes 16 (listMask j.fencedM) :=
  slice_of_append (List.append_nil _).symm rfl (leBytes_length ..)

/-- The head of an active job has its group record and the number of its members (R298). -/
theorem jobQueryHead_group {j : Job} (n : Nat) (ha : j.st.isActive = true) :
    fieldAt (jobQueryHead j n) 2 2 = j.groupRec % 65536 ∧ fieldAt (jobQueryHead j n) 4 2 = j.group.length % 65536 := by
  have hd : j.st ≠ .defining := by rintro e; simp [e, JState.isActive] at ha
  have hhead : jobQueryHead j n = (leBytes 1 j.st.code ++ leBytes 1 (j.reform.isSome && j.st.isActive).toNat) ++
      (leBytes 2 j.groupRec ++ (leBytes 2 j.group.length ++ (zeros 2 ++ leBytes 16 (listMask j.fencedM)))) := by
    simp only [jobQueryHead, ha, if_neg hd, if_true, List.append_assoc]
  rw [hhead]
  exact ⟨(fieldAt_append_right _ _ 0 2).trans (fieldAt_leBytes_append ..),
    ((fieldAt_append_right _ _ 2 2).trans (fieldAt_append_right _ _ 0 2)).trans (fieldAt_leBytes_append ..)⟩

theorem jobQuery_runs {j : Job} (h : s.AtHead 0x0206 p c) (hj : s.findJob p.job = some j) (hd : j.st ≠ .defining) (hs : s.Serving j.planes) :
    Runs (.jobQuery p) s fun t => t = { s with host := t.host, planes := t.planes, fresh := s.fresh + 2 } ∧ s.HandedTo t c j.planes ∧
      ∃ o ∈ t.host.held, o.id = c.id ∧ o.extra = jobQueryHead j s.fresh := by
  obtain rfl : c.pkt = p := h.2.1
  exact h.runs_handOut rfl (v := { s.updHost HostPort.settleTail with fresh := s.fresh + 2 }) rfl rfl hs (by simp [hj, hd, Job.planes])

theorem jobQuery_unknown (h : s.AtHead 0x0206 p c) (hj : s.findJob p.job = none) :
    Runs (.jobQuery p) s fun t => t = { s with host := t.host } ∧ t.Answered c .nojob [] := by
  obtain rfl : c.pkt = p := h.2.1
  exact h.runs_reply rfl (by simp [hj])

/-! ### `RATE_SET` (R197, R198, R303) -/

/-- The contract of the parameters is within the ceilings of the job's partition and leaves `UNMETERED` as the job has it (R197, R198). -/
def State.rateOk (s : State) (j : Job) (b : List Byte) : Prop :=
  rateRangeOk (parseRate b) j.hdr.serving (if j.hdr.serving then s.part.serve.jobceil else s.part.lend.jobceil) = true ∧
  (parseRate b).unmetered = j.hdr.rate.unmetered

section
variable (h : s.AtHead 0x0701 p c)
include h

theorem rateSet_runs {j : Job} (hj : s.findJob p.job = some j) (ha : j.st.isActive = true) (hr : s.rateOk j p.params) (hs : s.Serving j.planes) :
    Runs (.rateSet p) s fun t => t = { s with host := t.host, planes := t.planes } ∧ s.HandedTo t c j.planes := by
  obtain rfl : c.pkt = p := h.2.1
  obtain ⟨hrange, hmeter⟩ := hr
  exact h.runs_handOutOnly rfl hs (by simp [hj, ha, hrange, hmeter, Job.planes])

theorem rateSet_refuses {j : Job} (hj : s.findJob p.job = some j) (ha : j.st.isActive = true) (hr : ¬s.rateOk j p.params) :
    Runs (.rateSet p) s fun t => t = { s with host := t.host } ∧ t.Answered c .param [] := by
  obtain rfl : c.pkt = p := h.2.1
  have hbad : (!rateRangeOk (parseRate c.pkt.params) j.hdr.serving (if j.hdr.serving then s.part.serve.jobceil else s.part.lend.jobceil)
      || (parseRate c.pkt.params).unmetered != j.hdr.rate.unmetered) = true := by
    simpa [State.rateOk, Classical.or_iff_not_imp_left] using hr
  exact h.runs_reply rfl (by simp only [State.updHost_findJob, State.updHost_part, hj, ha, hbad, Bool.not_true, Bool.false_eq_true,
    if_false, if_true])

theorem rateSet_nojob (hn : ∀ j, s.findJob p.job = some j → j.st.isActive = false) :
    Runs (.rateSet p) s fun t => t = { s with host := t.host } ∧ t.Answered c .nojob [] := by
  obtain rfl : c.pkt = p := h.2.1
  refine h.runs_reply rfl ?_
  cases hj : s.findJob c.pkt.job with
  | none => simp [hj]
  | some j => simp [hj, hn j hj]

end

/-! ### `CKPT_READ` and `LOG_READ` (R163, R271) -/

/-- A job whose state can be read (R163; a closing one cannot, notes/assumptions 69). -/
def Job.Readable (j : Job) : Prop := j.st.isOpen = true ∧ j.st ≠ .loading ∧ j.closing = none

/-- The step of a checkpoint read: the rule of R72 for a running job, and 0 for another (R163). -/
def Job.ReadsFrom (j : Job) (step : Nat) : Prop := if j.st.isRunning then j.lastComb + 2 ≤ (step : Int) else step = 0

theorem Job.readable_iff (j : Job) : (!(j.st.isOpen && j.st != .loading) || j.closing.isSome) = false ↔ j.Readable := by
  simp [Job.Readable, and_assoc]

theorem Job.readsFrom_iff (j : Job) (step : Nat) : (if j.st.isRunning then !j.fromOk step else step != 0) = false ↔ j.ReadsFrom step := by
  unfold Job.ReadsFrom Job.fromOk
  split <;> simp

theorem namedPlanes_eq (p : Packet) (b : Byte) : ∃ m, namedPlanes p b = planesOf m := by
  unfold namedPlanes
  split <;> exact ⟨_, rfl⟩

section
variable {i : Instr} {op : Nat} {isLog : Bool} (h : s.AtHead op p c) (hx : exec i s = .next (s.dispatch op p fun c s => s.readCmd c isLog))
include h hx

theorem read_unknown (hj : s.findJob p.job = none) :
    Runs i s fun t => t = { s with host := t.host } ∧ s.RefusedBy t c (planesOf p.pmask.toNat) .nojob [] := by
  obtain rfl : c.pkt = p := h.2.1
  exact h.runs_refused hx (by decide) (by simp [State.readCmd, hj])

variable {j : Job} (hj : s.findJob p.job = some j)
include hj

theorem read_nojob (hr : ¬j.Readable) :
    Runs i s fun t => t = { s with host := t.host } ∧ s.RefusedBy t c (namedPlanes p j.hdr.planes) .nojob [] := by
  obtain rfl : c.pkt = p := h.2.1
  obtain ⟨m, hm⟩ := namedPlanes_eq c.pkt j.hdr.planes
  have hclosed := eq_true_of_ne_false (mt j.readable_iff.1 hr)
  rw [hm]
  exact h.runs_refused hx (by decide) (by simp only [State.readCmd, State.updHost_findJob, hj, hclosed, hm, if_true])

variable (hr : j.Readable)
include hr

theorem read_refuses (hd : s.destOk j (fieldAt p.params 0 1) (namedPlanes p j.hdr.planes) = false) :
    Runs i s fun t => t = { s with host := t.host } ∧ s.RefusedBy t c (namedPlanes p j.hdr.planes) .param [] := by
  obtain rfl : c.pkt = p := h.2.1
  obtain ⟨m, hm⟩ := namedPlanes_eq c.pkt j.hdr.planes
  have hdest : (s.updHost HostPort.settleTail).destOk j (pf c.pkt 0 1) (planesOf m) = false := hm ▸ hd
  rw [hm]
  exact h.runs_refused hx (by decide) (by
    simp only [State.readCmd, State.updHost_findJob, hj, j.readable_iff.2 hr, hm, hdest, Bool.not_false, Bool.true_or, Bool.false_eq_true,
      if_false, if_true])

theorem read_runs (hd : s.destOk j (fieldAt p.params 0 1) (namedPlanes p j.hdr.planes) = true)
    (hf : isLog = false → j.ReadsFrom (fieldAt p.params 16 8)) (hs : s.Serving (namedPlanes p j.hdr.planes)) :
    Runs i s fun t => t = { s with host := t.host, planes := t.planes } ∧ s.HandedTo t c (namedPlanes p j.hdr.planes) := by
  obtain rfl : c.pkt = p := h.2.1
  obtain ⟨m, hm⟩ := namedPlanes_eq c.pkt j.hdr.planes
  have hdest : (s.updHost HostPort.settleTail).destOk j (pf c.pkt 0 1) (planesOf m) = true := hm ▸ hd
  have hfrom : (!isLog && (if j.st.isRunning then !j.fromOk (pf c.pkt 16 8) else pf c.pkt 16 8 != 0)) = false := by
    cases isLog
    · simpa [pf] using (j.readsFrom_iff _).2 (hf rfl)
    · rfl
  rw [hm] at hs ⊢
  exact h.runs_handOutOnly hx hs (by
    simp only [State.readCmd, State.updHost_findJob, hj, j.readable_iff.2 hr, hm, hdest, hfrom, Bool.not_true, Bool.or_false,
      Bool.false_eq_true, if_false])

end

end

end Sys2Proof.Machine

section
open Sys2Proof Sys2Proof.Machine

/-- Settles O15: each command by the state of its job, and a read by its destination too. -/
theorem jobCommandsAreHandedOut : Obligations.JobCommandsAreHandedOut := by
  refine ⟨fun p c s => ⟨fun j hj => ?_, fun hj op i hi h => ?_, fun hj h => restoreReplay_unknown h hj⟩, fun p c s => ?_⟩
  · refine ⟨fun h hl hs => (jobStart_runs h hj hl hs).imp fun t ⟨hframe, hto, hjob⟩ => ⟨hframe, hto, _, hjob, rfl⟩,
      fun h hl => jobStart_refuses h (State.forall_findJob_some hj hl), fun h hl hs => restoreBegin_runs h hj hl hs,
      fun h hl => restoreBegin_refuses h (State.forall_findJob_some hj hl),
      fun h hl hr hs => restoreReplay_runs h hj hl hr hs, fun h hn => ?_⟩
    refine (restoreReplay_refuses h hj hn).imp fun t ⟨hframe, hans⟩ => ?_
    obtain ⟨hzero, hstep, hgen⟩ := replayReply_fields (s.orecOf j).step (s.orecOf j).gen
    exact ⟨hframe, _, hans, replayReply_length .., hzero, fun k pj hk hp => State.orecOf_eq hk hp ▸ ⟨hstep, hgen⟩⟩
  · obtain ⟨rfl, rfl⟩ | ⟨rfl, rfl⟩ : (op = 0x0204 ∧ i = .jobStart p) ∨ (op = 0x020B ∧ i = .restoreBegin p) := by simpa using hi
    · exact jobStart_refuses h (State.forall_findJob_none hj)
    · exact restoreBegin_refuses h (State.forall_findJob_none hj)
  · intro reads
    have read {op : Nat} {i : Instr} (hi : (op, i) ∈ reads) :
        ∃ isLog, exec i s = .next (s.dispatch op p fun c s => s.readCmd c isLog) ∧ (isLog = false → op = 0x0208) := by
      obtain ⟨rfl, rfl⟩ | ⟨rfl, rfl⟩ : (op = 0x0208 ∧ i = .ckptRead p) ∨ (op = 0x020A ∧ i = .logRead p) := by
        simpa [reads] using hi
      · exact ⟨false, rfl, fun _ => rfl⟩
      · exact ⟨true, rfl, nofun⟩
    refine ⟨fun j hj => ⟨fun h hd hs => ?_, fun h ha hr hs => rateSet_runs h hj ha hr hs, fun h ha hr => rateSet_refuses h hj ha hr,
      fun h ha => rateSet_nojob h (State.forall_findJob_some hj ha), fun op i hi h hr hd hf hs => ?_,
      fun op i hi h hr hd => ?_, fun op i hi h hr => ?_⟩, fun hj => ⟨fun op i hi h => ?_, fun op i hi h => ?_⟩⟩
    · refine (jobQuery_runs h hj hd hs).imp fun t ⟨hframe, hto, o, ho, hid, hextra⟩ => ⟨hframe, hto, o, ho, hid, ?_⟩
      rw [hextra]
      exact ⟨jobQueryHead_state .., jobQueryHead_fenced .., jobQueryHead_group _⟩
    · obtain ⟨isLog, hx, hop⟩ := read hi
      exact read_runs h hx hj hr hd (fun hl => hf (hop hl)) hs
    · obtain ⟨isLog, hx, -⟩ := read hi
      exact read_refuses h hx hj hr (Bool.eq_false_iff.2 hd)
    · obtain ⟨isLog, hx, -⟩ := read hi
      exact read_nojob h hx hj hr
    · obtain ⟨rfl, rfl⟩ | ⟨rfl, rfl⟩ : (op = 0x0206 ∧ i = .jobQuery p) ∨ (op = 0x0701 ∧ i = .rateSet p) := by simpa using hi
      · exact jobQuery_unknown h hj
      · exact rateSet_nojob h (State.forall_findJob_none hj)
    · obtain ⟨isLog, hx, -⟩ := read hi
      exact read_unknown h hx hj

end

section
/-! ## Frames read back (R169 to R173, R176, R178) -/

namespace Sys2Proof.Machine

/-! ### Fields one after another -/

/-- Bytes behind a field. -/
theorem slice_leBytes_skip {n off : Nat} (h : n ≤ off) (v : Nat) (b : List Byte) (m : Nat) :
    slice (leBytes n v ++ b) off m = slice b (off - n) m := by
  simp [slice, List.drop_append, List.drop_eq_nil_of_le, h]

theorem fieldAt_leBytes_skip {n off : Nat} (h : n ≤ off) (v : Nat) (b : List Byte) (m : Nat) :
    fieldAt (leBytes n v ++ b) off m = fieldAt b (off - n) m := congrArg leNat (slice_leBytes_skip h v b m)

theorem leBytes_add (m n v : Nat) : leBytes (m + n) v = leBytes m v ++ leBytes n (v / 256 ^ m) := by
  induction m generalizing v with
  | zero => simp [leBytes]
  | succ m ih => rw [Nat.succ_add, leBytes, ih, leBytes, Nat.div_div_eq_div_mul, Nat.pow_succ', List.cons_append]

/-- The flags byte of a header (R170) gives its three flags and its format back, and its bit 3 is zero. -/
theorem flagsByte_fields (a b c : Bool) {f : Nat} (hf : f < 16) : let v := (a.toNat + 2 * b.toNat + 4 * c.toNat + 16 * f) % 256
    v.testBit 0 = a ∧ v.testBit 1 = b ∧ v.testBit 2 = c ∧ v.testBit 3 = false ∧ v / 16 = f := by
  intro v
  simp only [Nat.testBit_eq_decide_div_mod_eq, v]
  cases a <;> cases b <;> cases c <;> simp <;> omega

/-- So does the byte of the member and its unicast flag (R171). -/
theorem membByte_fields (u : Bool) {m : Nat} (hm : m < 128) : let v := (m + 128 * u.toNat) % 256
    v % 128 = m ∧ v.testBit 7 = u := by
  intro v
  simp only [Nat.testBit_eq_decide_div_mod_eq, v]
  cases u <;> simp <;> omega

/-! ### A header read back -/

/-- Every field of the transit form but `LEN` is within its width (R170, R171), and the fields of the delivery form are zero. -/
structure Hdr.Fits (h : Hdr) : Prop where
  op : h.op < 256
  rw : h.rw = false
  fmt : h.fmt < 16
  job : h.job < 65536
  bucket : h.bucket < 65536
  comma : h.comma < 65536
  chunk : h.chunk < 2 ^ 20
  elemoff : h.elemoff < 2 ^ 24
  gen : h.gen < 2 ^ 32
  mask : h.mask < 65536
  cls : h.cls < 256
  memb : h.memb < 128
  srcdev : h.srcdev < 8
  rwaddr : h.rwaddr = 0
  rwkey : h.rwkey = 0

/-- The fields that the type does not use go to zero, so they stay within their widths too (R170). -/
theorem Hdr.Fits.sent {h : Hdr} (hf : h.Fits) : h.sent.Fits := by
  have on {l : List Nat} {v b : Nat} (hv : v < b) : (if l.contains h.op then v else 0) < b := by split <;> omega
  exact { hf with
    fmt := on hf.fmt, bucket := on hf.bucket, comma := on hf.comma, chunk := on hf.chunk, elemoff := on hf.elemoff, gen := on hf.gen }

/-- A header whose fields are within their widths parses back from its bytes in the transit form (R170, R171). -/
theorem parseHeader_transit {h : Hdr} (hf : h.Fits) (hl : h.len < 65536) : parseHeader (hdrLow h h.len ++ hdrTransit h) = h := by
  obtain ⟨hop, hrw, hfmt, hjob, hbucket, hcomma, hchunk, heo, hgen, hmask, hcls, hmemb, hsrc, ha, hk⟩ := hf
  obtain ⟨h0, h1, h2, -, h4⟩ := flagsByte_fields h.tent h.final h.rw hfmt
  obtain ⟨hm, hu⟩ := membByte_fields h.uni hmemb
  simp only [Nat.reducePow] at hchunk heo hgen
  have hc : h.chunk < 16777216 := by omega
  have hs : h.srcdev < 256 := by omega
  simp only [parseHeader, hdrLow, hdrTransit, List.append_assoc, fieldAt_leBytes_skip, fieldAt_leBytes_append, Nat.reduceLeDiff,
    Nat.reduceSub, Nat.reducePow, Nat.le_refl, Nat.sub_self, Nat.mod_eq_of_lt, *]
  cases h
  simp_all

/-- The reserved bits of the transit form are sent as zeros (R170, R171). -/
theorem hdrRsvdZero_transit {h : Hdr} (hf : h.Fits) (len : Nat) : hdrRsvdZero (hdrLow h len ++ hdrTransit h) = true := by
  obtain ⟨-, -, -, h3, -⟩ := flagsByte_fields h.tent h.final h.rw hf.fmt
  have hlow (v : Nat) : leBytes 3 v = leBytes 2 v ++ leBytes 1 (v / 256 ^ 2) := leBytes_add 2 1 v
  have hc : h.chunk % 1048576 / 65536 % 256 / 16 = 0 := by omega
  have hs : h.srcdev % 8 % 256 / 8 = 0 := by omega
  have hz : allZero (slice (zeros 7) 0 7) = true := by decide
  simp only [hdrRsvdZero, hdrLow, hdrTransit, zeroAt, hlow, List.append_assoc, fieldAt_leBytes_skip, slice_leBytes_skip,
    fieldAt_leBytes_append, Nat.reduceLeDiff, Nat.reduceSub, Nat.reducePow, Nat.le_refl, Nat.sub_self, h3, hc, hs, hz]
  rfl

/-! ### A header on a lane -/

/-- A header of a lane: within its widths, and on a member lane with no field of the transit form (R172). -/
structure Hdr.OnLane (h : Hdr) (peer : Bool) : Prop extends h.Fits where
  delivery : peer = false → h.mask = 0 ∧ h.cls = 0 ∧ h.memb = 0 ∧ h.uni = false ∧ h.srcdev = 0

variable {h : Hdr} {peer : Bool}

/-- The two forms of a header agree where a member lane's carries neither an address nor a field of the transit form. -/
theorem headerBytes_eq_transit (hl : h.OnLane peer) (len : Nat) : headerBytes peer h len = hdrLow h.sent len ++ hdrTransit h.sent := by
  have hrw : (h.sent.rw && !peer) = h.sent.rw := by simp [hl.sent.rw]
  simp only [headerBytes, hrw]
  cases peer with
  | true => rfl
  | false =>
    obtain ⟨hm, hc, hb, hu, hs⟩ : h.sent.mask = 0 ∧ h.sent.cls = 0 ∧ h.sent.memb = 0 ∧ h.sent.uni = false ∧ h.sent.srcdev = 0 :=
      hl.delivery rfl
    simp only [Bool.false_eq_true, if_false, hdrDelivery, hdrTransit, hl.sent.rwaddr, hl.sent.rwkey, hm, hc, hb, hu, hs]
    exact congrArg (hdrLow h.sent len ++ ·) (by decide)

theorem headerBytes_length (hl : h.OnLane peer) (len : Nat) : (headerBytes peer h len).length = 32 := by
  simp [headerBytes_eq_transit hl, hdrLow, hdrTransit]

/-- What row 5 of R178 asks of a header beyond its bits: a type of the lane with the size and the format that the type has, and a job. -/
structure Hdr.Typed (h : Hdr) (peer : Bool) : Prop where
  op : h.op ∈ if peer then peerOps else memberOps
  fmt : h.op ∈ elemOps → (fmtBits h.fmt).isSome = true
  job : 0 < h.job
  size : fixedLen h.op = none ∨ fixedLen h.op = some h.len

/-- The types that carry elements are those that use the format (R170, R178), so it is sent as it is. -/
theorem Hdr.sent_fmt (he : h.op ∈ elemOps) : h.sent.fmt = h.fmt := by
  have : usesFmt.contains h.op = true := List.contains_iff_mem.2 he
  exact if_pos this

/-- A typed header passes row 5 of R178 on its lane, and parses to itself as it is sent. -/
theorem headerBytes_parses (hl : h.OnLane peer) (ht : h.Typed peer) (hlen : h.len < 65536) :
    parseHeader (headerBytes peer h h.len) = h.sent ∧ headerOk peer h.srcdev (headerBytes peer h h.len) = true := by
  have hp : parseHeader (headerBytes peer h h.len) = h.sent := headerBytes_eq_transit hl h.len ▸ parseHeader_transit hl.sent hlen
  have hz : hdrRsvdZero (headerBytes peer h h.len) = true := headerBytes_eq_transit hl h.len ▸ hdrRsvdZero_transit hl.sent h.len
  have hop : (if peer then peerOps else memberOps).contains h.sent.op = true := List.contains_iff_mem.2 ht.op
  have hfix : (fixedLen h.sent.op).all (· == h.sent.len) = true := by
    show (fixedLen h.op).all (· == h.len) = true
    rcases ht.size with e | e <;> simp [e]
  have helem : (!elemOps.contains h.sent.op || (fmtBits h.sent.fmt).isSome) = true := by
    show (!elemOps.contains h.op || (fmtBits h.sent.fmt).isSome) = true
    by_cases he : h.op ∈ elemOps
    · simp [h.sent_fmt he, ht.fmt he]
    · simp [he]
  have hjob : (h.sent.job != 0) = true := bne_iff_ne.2 (Nat.ne_of_gt ht.job)
  have hfar : (if peer then h.sent.srcdev == h.srcdev else h.sent.mask == 0 && h.sent.memb == 0 && !h.sent.uni && h.sent.srcdev == 0) = true := by
    cases peer with
    | true => exact beq_self_eq_true h.srcdev
    | false =>
      obtain ⟨hm, -, hb, hu, hs⟩ : h.sent.mask = 0 ∧ h.sent.cls = 0 ∧ h.sent.memb = 0 ∧ h.sent.uni = false ∧ h.sent.srcdev = 0 :=
        hl.delivery rfl
      simp [hm, hb, hu, hs]
  exact ⟨hp, by simp only [headerOk, hp, hz, hop, hfix, helem, hjob, hfar, hl.sent.rw]; rfl⟩

/-! ### A frame read back -/

theorem pad64_of_dvd {bs : List Byte} (h : bs.length % 64 = 0) : pad64 bs = bs := by simp [pad64, h, zeros]

/-- Received bytes that are a header, a payload and their CRC pass the checks of R178 where the header does. -/
theorem parseFrame_of_parts {peer : Bool} {far : Nat} {hdr pl : List Byte} (hh : hdr.length = 32) (hlen : (parseHeader hdr).len = pl.length)
    (h64 : pl.length % 64 = 0) (hmax : pl.length ≤ 8192) (hok : headerOk peer far hdr = true) :
    parseFrame peer far { bytes := hdr ++ pl ++ crcBytes (hdr ++ pl) } = .ok { hdr := parseHeader hdr, payload := pl } := by
  have hcrc : (crcBytes (hdr ++ pl)).length = 4 := leBytes_length ..
  have hn : (hdr ++ pl ++ crcBytes (hdr ++ pl)).length = (hdr ++ pl).length + 4 := by rw [List.length_append, hcrc]
  have hb : (hdr ++ pl).length = 32 + pl.length := by simp [hh]
  have htake : (hdr ++ pl ++ crcBytes (hdr ++ pl)).take (hdr ++ pl).length = hdr ++ pl := List.take_left' rfl
  have hdrop : (hdr ++ pl ++ crcBytes (hdr ++ pl)).drop (hdr ++ pl).length = crcBytes (hdr ++ pl) := List.drop_left' rfl
  have hfront : (hdr ++ pl ++ crcBytes (hdr ++ pl)).take 32 = hdr := by rw [List.append_assoc]; exact List.take_left' hh
  have hback : (hdr ++ pl).drop 32 = pl := List.drop_left' hh
  have hsize : ((hdr ++ pl).length + 4 < 36 || !true || 8228 < (hdr ++ pl).length + 4) = false := by simp [hb]; omega
  have hmal : (8192 < (parseHeader hdr).len || (parseHeader hdr).len % 64 != 0 || (parseHeader hdr).len + 36 != (hdr ++ pl).length + 4) = false := by
    simp [hb, hlen, h64]; omega
  simp only [parseFrame, hn, Nat.add_sub_cancel, htake, hdrop, hfront, hback, hsize, hmal, hok]
  simp

end Sys2Proof.Machine

end

section
open Sys2Proof Sys2Proof.Machine

/-- Settles O54: the two forms of a header are one on these frames, and each field stands alone in its bytes. -/
theorem framesParseBack : Obligations.FramesParseBack := by
  intro peer f hop hfmt helem hjob0 hjob hlen h64 hmax hsize hbucket hcomma hchunk heo hgen hrw ha hk htransit hdelivery
  have hops : f.hdr.op < 256 := by
    have hall : ∀ b : Bool, ∀ o ∈ (if b then peerOps else memberOps), o < 256 := by decide
    exact hall peer _ hop
  have hwidths : f.hdr.mask < 65536 ∧ f.hdr.cls < 256 ∧ f.hdr.memb < 128 ∧ f.hdr.srcdev < 8 := by
    cases peer with
    | true => exact htransit rfl
    | false => obtain ⟨hm, hc, hb, -, hs⟩ := hdelivery rfl; simp [hm, hc, hb, hs]
  obtain ⟨hmask, hcls, hmemb, hsrc⟩ := hwidths
  have hl : f.hdr.OnLane peer :=
    ⟨⟨hops, hrw, hfmt, hjob, hbucket, hcomma, hchunk, heo, hgen, hmask, hcls, hmemb, hsrc, ha, hk⟩, hdelivery⟩
  obtain ⟨hp, hok⟩ := headerBytes_parses hl ⟨hop, helem, hjob0, hlen ▸ hsize⟩ (by omega)
  have hparts := parseFrame_of_parts (headerBytes_length hl f.hdr.len) (by rw [hp]; exact hlen) h64 hmax hok
  rw [frameBytes, pad64_of_dvd h64, ← hlen, hparts, hp]

end

/-! ## A command for planes whose record already carries an answer (R291, R308) -/

namespace Sys2Proof.Machine

/-- `ASTAT_READ` of plane 0 alone. -/
def readPacket : Packet := { opcode := 0x0104, flags := 0, job := 0, pmask := 1, tag := 0, len := 5, params := [] }

/-- Its record is taken and not yet executed, and carries an answer of plane 1. -/
def answeredHead : Held := { id := 0, pkt := readPacket, answers := [(1, .busy, [])] }

/-- That record is the dispatcher's head command, and every plane is held in reset. -/
def answeredState : State := { State.reset with host := { HostPort.reset with held := [answeredHead] } }

theorem answeredState_atHead : answeredState.AtHead 0x0104 readPacket answeredHead := by
  unfold State.AtHead
  decide +kernel

/-- What the dispatcher makes of the command. -/
def answeredNext : State := answeredState.dispatch 0x0104 readPacket fun c s => s.toPlanes c

/-- The reply's status block keeps the answer of plane 1. -/
theorem answeredNext_payload : ∀ o ∈ answeredNext.host.held, o.reply.map (·.payload) ≠ some (statusBlock 0 .planedown) := by
  decide +kernel

end Sys2Proof.Machine

section
open Sys2Proof Sys2Proof.Machine

/-- Refutes O12: a head command whose record already carries an answer of plane 1, handed to plane 0 which is out of service, is answered with the
statuses of both planes. -/
theorem not_commandsAreHandedToPlanes : ¬ Obligations.CommandsAreHandedToPlanes := by
  intro h
  obtain ⟨-, -, hdown⟩ := h
  obtain ⟨t, ht, -, hans⟩ := hdown 0x0104 (.astatRead readPacket) 0 readPacket answeredHead answeredState answeredState_atHead
    (by decide) (by decide +kernel) (.inl (by simp))
  obtain rfl : answeredNext = t := Host.Outcome.next.inj ht
  obtain ⟨o, ho, -, -, r, hr, -, -, -, -, -, hpl⟩ : ∃ o ∈ answeredNext.host.held, _ := (if_neg (by decide)).mp hans
  exact answeredNext_payload o ho (by rw [hr, Option.map_some, hpl])

end

/-! ## A lane that goes down (R155, R193, R225, R226)

What the loss of a lane means for its jobs reaches far: frames, fences of members, norms, rebuilds and reports.  `State.Steady` says once what
all of that leaves alone: the planes' service, records and tests, the lanes but for their queues and counters, and the held commands. -/

namespace Sys2Proof.Machine

/-! ### What stays -/

/-- A lane without its queues and its counters. -/
def Lane.still (l : Lane) : Lane := { l with egress := [], egWait := [], drr := [], ctrs := [], sendEnd := 0 }

/-- The part of a plane that the loss of a lane leaves alone. -/
def Plane.still (p : Plane) : PState × Nat × List TestRun × Vector Lane 16 := (p.ps, p.errSeq, p.tests, p.lanes.map Lane.still)

/-- Every plane keeps that part, and the device its held commands and the `DORMANT` blocks it has sent. -/
structure State.Steady (s t : State) : Prop where
  plane : ∀ q, (t.plane q).still = (s.plane q).still
  held : t.host.held = s.host.held
  dormant : t.out.dormant = s.out.dormant

theorem State.Steady.refl (s : State) : s.Steady s := ⟨fun _ => rfl, rfl, rfl⟩

theorem State.Steady.trans {s t u : State} (h : s.Steady t) (g : t.Steady u) : s.Steady u :=
  ⟨fun q => (g.plane q).trans (h.plane q), g.held.trans h.held, g.dormant.trans h.dormant⟩

theorem State.Steady.each {α : Type} {f : State → α → State} (h : ∀ (s : State) a, s.Steady (f s a)) : ∀ (l : List α) (s : State),
    s.Steady (s.each l f)
  | [], s => .refl s
  | a :: l, s => (h s a).trans (State.Steady.each h l (f s a))

theorem State.Steady.ps {s t : State} (h : s.Steady t) (q : PlaneIx) : (t.plane q).ps = (s.plane q).ps := congrArg (·.1) (h.plane q)

theorem State.Steady.errSeq {s t : State} (h : s.Steady t) (q : PlaneIx) : (t.plane q).errSeq = (s.plane q).errSeq :=
  congrArg (·.2.1) (h.plane q)

theorem State.Steady.tests {s t : State} (h : s.Steady t) (q : PlaneIx) : (t.plane q).tests = (s.plane q).tests :=
  congrArg (·.2.2.1) (h.plane q)

theorem State.Steady.lane {s t : State} (h : s.Steady t) (d : DevLane) : (t.lane d).still = (s.lane d).still := by
  have hl : (t.plane (planeOf d)).lanes.map Lane.still = (s.plane (planeOf d)).lanes.map Lane.still := congrArg (·.2.2.2) (h.plane _)
  simpa [State.lane] using congrArg (·[laneIn d]) hl

/-! ### Operations that leave it alone -/

theorem State.Steady.updPlane (s : State) (k : PlaneIx) {f : Plane → Plane} (h : ∀ p, (f p).still = p.still) : s.Steady (s.updPlane k f) where
  plane q := by
    rw [plane_updPlane]
    split
    · next e => subst e; exact h _
    · rfl
  held := rfl
  dormant := rfl

/-- What differs in neither the planes nor the held commands nor the `DORMANT` blocks. -/
theorem State.Steady.aside {s t : State} (hp : t.planes = s.planes) (hh : t.host.held = s.host.held) (hd : t.out.dormant = s.out.dormant) :
    s.Steady t := ⟨fun q => by rw [State.plane, hp, State.plane], hh, hd⟩

theorem State.Steady.updPJob (s : State) (k : PlaneIx) (id : Nat) (f : PJob → PJob) : s.Steady (s.updPJob k id f) := .updPlane s k fun _ => rfl

theorem State.Steady.updJob (s : State) (id : Nat) (f : Job → Job) : s.Steady (s.updJob id f) := .aside rfl rfl rfl

theorem State.Steady.updLane (s : State) (d : DevLane) {f : Lane → Lane} (h : ∀ l, (f l).still = l.still) : s.Steady (s.updLane d f) :=
  .updPlane s _ fun p => by
    simp only [Plane.still, Plane.updLane, Vector.map_set, h]
    rw [Fin.getElem_fin, ← Vector.getElem_map Lane.still, Vector.set_getElem_self]

theorem State.planeCtr_steady (s : State) (k : PlaneIx) (c : PCtr) (n : Nat) : s.Steady (s.planeCtr k c n) := .updPlane s k fun _ => rfl

theorem State.laneCtr_steady (s : State) (d : DevLane) (c : LCtr) (n : Nat) : s.Steady (s.laneCtr d c n) := .updLane s d fun _ => rfl

theorem State.setErrsum_steady (s : State) (b : List Nat) : s.Steady (s.setErrsum b) := by
  unfold State.setErrsum State.msixSend
  dsimp only
  split
  · split <;> exact .aside rfl rfl rfl
  · exact .aside rfl rfl rfl

theorem State.report_steady (s : State) (code st job : Nat) (pm : Byte) (pl : List Byte) : s.Steady (s.report code st job pm pl) := by
  unfold State.report
  dsimp only
  split
  · exact .aside rfl rfl rfl
  · refine .trans ?_ (State.setErrsum_steady ..)
    exact .aside rfl rfl rfl

/-! ### Sending -/

theorem Lane.push_still (l : Lane) (d : Desc) : (l.push d).still = l.still := by
  unfold Lane.push Lane.joinDrr
  split
  · split <;> rfl
  · rfl

theorem State.place_steady (s : State) (k : PlaneIx) (l : LaneIx) (d : Desc) : s.Steady (s.place k l d) := by
  unfold State.place
  dsimp only
  split
  · exact .updLane s _ fun _ => rfl
  · split
    · exact .updLane s _ fun _ => rfl
    · exact .updLane s _ fun n => n.push_still d

theorem State.enqueue_steady (s : State) (k : PlaneIx) (l : LaneIx) (d : Desc) : s.Steady (s.enqueue k l d) := by
  unfold State.enqueue
  split
  · exact .updPlane s k fun _ => rfl
  · exact s.place_steady k l d

theorem State.toDevice_steady (s : State) (k : PlaneIx) (j : Job) (dev : Nat) (f : Frame) (b : Nat) (m : Bool) (kp : Keep) :
    s.Steady (s.toDevice k j dev f b m kp) := by
  unfold State.toDevice
  split
  · exact .refl s
  · exact s.enqueue_steady ..

theorem State.toLocal_steady (s : State) (k : PlaneIx) (j : Job) (pj : PJob) (ms : List Nat) (f : Frame) (kp : Keep) :
    s.Steady (s.toLocal k j pj ms f kp) :=
  .each (fun s _ => s.enqueue_steady ..) _ s

theorem State.status_steady (s : State) (lane : DevLane) (src : Frame) (st : Status) (retry gen layer : Nat) :
    s.Steady (s.status lane src st retry gen layer) := by
  unfold State.status State.replyTo
  dsimp only
  split
  · split
    · exact s.toDevice_steady ..
    · exact s.enqueue_steady ..
  · exact s.enqueue_steady ..

theorem Plane.flowFuel_still (n : Nat) (p : Plane) : (p.flowFuel n).still = p.still := by
  induction n generalizing p with
  | zero => rfl
  | succ n ih =>
    unfold Plane.flowFuel
    split
    · rfl
    · split
      · exact ih _
      · split
        · rfl
        · exact ih _

theorem Plane.flow_still (p : Plane) : p.flow.still = p.still := by
  unfold Plane.flow
  dsimp only
  split <;> exact p.flowFuel_still _

theorem State.replicatorFuel_steady (k : PlaneIx) (n : Nat) (s : State) : s.Steady (State.replicatorFuel k n s) := by
  induction n generalizing s with
  | zero => exact .refl s
  | succ n ih =>
    unfold State.replicatorFuel
    split
    · exact .refl s
    · split
      · exact .refl s
      · have hq (q : StageQ) : s.Steady (s.updPlane k fun p => { p with qPublish := q }) := .updPlane s k fun _ => rfl
        dsimp only
        split
        · exact (hq _).trans (ih _)
        · exact (hq _).trans ((State.place_steady ..).trans (ih _))

theorem State.replicator_steady (s : State) (k : PlaneIx) : s.Steady (s.replicator k) :=
  (State.replicatorFuel_steady k _ s).trans (.updPlane _ k Plane.flow_still)

/-! ### Fences, norms and notices -/

theorem State.loseMember_steady (s : State) (id m : Nat) : s.Steady (s.loseMember id m) := by
  unfold State.loseMember
  split
  · exact .refl s
  · split
    · exact .refl s
    · refine (State.Steady.updJob s id _).trans (.each (fun s k => ?_) _ _)
      exact .updPlane s k fun _ => rfl

theorem State.arith_steady (s : State) (k : PlaneIx) (id : Nat) (unit fl : W32) : s.Steady (s.arith k id unit fl) := by
  unfold State.arith
  exact .updPlane s k fun _ => rfl

theorem State.normCheck_steady (s : State) (k : PlaneIx) (id step : Nat) : s.Steady (s.normCheck k id step) := by
  unfold State.normCheck
  split
  · exact .refl s
  · dsimp only
    split
    · refine (s.arith_steady ..).trans (.updPlane _ k fun p => ?_)
      unfold Plane.pushUp
      split <;> rfl
    · exact .refl s

theorem State.noticeCheck_steady (s : State) (k : PlaneIx) (c : NoticeCopy) (now : Bool) : s.Steady (s.noticeCheck k c now) := by
  unfold State.noticeCheck
  split
  · next j pj _ _ =>
    extract_lets need all u
    have hu : s.Steady u := by
      simp only [u]
      split
      · exact .refl s
      · exact s.toLocal_steady ..
    split
    · exact hu.trans (.updPlane _ k fun _ => rfl)
    · split
      · exact hu.trans (.updPlane _ k fun _ => rfl)
      · exact hu
  · exact .refl s

/-! ### Rebuilds whose source is lost -/

theorem State.answerGathers_steady (s : State) (k : PlaneIx) (j : Job) (b : Nat) (st : Status) : s.Steady (s.answerGathers k j b st) := by
  unfold State.answerGathers State.takeGathers
  dsimp only
  refine .trans ?_ (.each (fun s x => ?_) _ _)
  · refine .trans (t := s.updPlane k _) (.updPlane s k fun _ => ?_) (.updPlane _ k fun _ => ?_) <;> rfl
  · exact (s.status_steady x.1 x.2 st 0 _ _).trans (State.planeCtr_steady _ k .frmDrop 1)

theorem State.stopShare_steady (s : State) (k : PlaneIx) (j : Job) (pj : PJob) (b devs : Nat) (lost : Bool) :
    s.Steady (s.stopShare k j pj b devs lost) :=
  (State.Steady.updPJob s k _ _).trans ((State.answerGathers_steady ..).trans (State.report_steady ..))

theorem State.restartRebuild_steady (s : State) (k : PlaneIx) (j : Job) (pj : PJob) (b : Nat) (r : Rebuild) :
    s.Steady (s.restartRebuild k j pj b r) := by
  unfold State.restartRebuild
  split
  · exact .refl s
  · split
    · exact s.stopShare_steady ..
    · split
      · exact s.stopShare_steady ..
      · exact (State.Steady.updPJob s k _ _).trans ((State.Steady.updPJob _ k _ _).trans (.each (fun s _ => s.toDevice_steady ..) _ _))

theorem State.sourcesGone_steady (s : State) (k : PlaneIx) (j : Job) : s.Steady (s.sourcesGone k j) := by
  unfold State.sourcesGone
  split
  · exact .refl s
  · refine .each (fun s h => .each (fun s r => ?_) _ s) _ s
    split
    · exact .refl s
    · exact s.restartRebuild_steady ..

/-! ### The loss -/

theorem State.cutFibre_steady (s : State) (d : DevLane) : s.Steady (s.cutFibre d).2 := by
  unfold State.cutFibre
  dsimp only
  split
  · refine State.Steady.trans (t := s.updLane d _) (.updLane s d fun _ => ?_) (.aside rfl rfl rfl)
    rfl
  · exact .refl s

theorem State.laneLost_steady (s : State) (d : DevLane) : s.Steady (s.laneLost d) := by
  unfold State.laneLost
  dsimp only
  refine .trans ?_ (State.replicator_steady ..)
  have hcut : s.Steady ((s.updLane d fun x => { x with egress := [], egWait := [], drr := [] }).cutFibre d).2 := by
    refine .trans ?_ (State.cutFibre_steady _ d)
    exact .updLane s d fun _ => rfl
  generalize (s.updLane d fun x => { x with egress := [], egWait := [], drr := [] }).cutFibre d = c at hcut ⊢
  refine hcut.trans ?_
  split
  · refine .trans ?_ (.each (fun s c => s.noticeCheck_steady ..) _ _)
    refine .trans ?_ (.each (fun s j => ?_) _ _)
    · refine .trans ?_ (.each (fun s j => .each (fun s m => s.loseMember_steady ..) _ s) _ _)
      refine (State.laneCtr_steady ..).trans (.each (fun s j => ?_) _ _)
      exact (State.Steady.updJob s j.id _).trans (.updPJob ..)
    · split
      · exact (s.normCheck_steady ..).trans (State.sourcesGone_steady ..)
      · exact .refl s
  · refine (State.laneCtr_steady ..).trans (.each (fun s j => ?_) _ _)
    split
    · exact s.loseMember_steady ..
    · exact .refl s

/-- An `UP` lane that goes down takes its cause and its new state, and no more of the lanes and planes than `State.Steady` allows differs. -/
theorem State.laneDown_steady {s : State} {d : DevLane} (h : (s.lane d).st = .up) (cause : Nat) (st : LState) :
    (s.setLane d st fun l => { l with
      lcause := cause, ready := false, echoOk := false, plock := false, holdoff := true, trainAt := (s.plane (planeOf d)).cnt }).Steady
      (s.laneDown d cause st) := by
  unfold State.laneDown
  rw [if_neg (by simp [h])]
  extract_lets t s1 s2 s3
  have h2 : s1.Steady s2 := .updLane s1 d fun _ => rfl
  exact h2.trans ((State.report_steady ..).trans (State.laneLost_steady ..))

end Sys2Proof.Machine

/-! ## Lane commands on a plane (R192, R227 to R231, R291) -/

namespace Sys2Proof.Machine

/-! ### What a lane command does for a mask of one lane -/

theorem State.laneCmd_refuses {s : State} {k : PlaneIx} {c : PlaneCmd} {l : LaneIx} (hl : lanesOf (pf c.pkt 0 2) = [l])
    {refuse : DevLane → Option Status} {st : Status} (hr : refuse (devLane k l) = some st) (act : State → DevLane → State) :
    s.laneCmd k c refuse act = s.planeAnswer c.held k st (leBytes 1 l.val) := by
  simp [State.laneCmd, hl, hr]

theorem State.laneCmd_acts {s : State} {k : PlaneIx} {c : PlaneCmd} {l : LaneIx} (hl : lanesOf (pf c.pkt 0 2) = [l])
    {refuse : DevLane → Option Status} (hr : refuse (devLane k l) = none) (act : State → DevLane → State) :
    s.laneCmd k c refuse act = (act s (devLane k l)).planeAnswer c.held k .ok [] := by
  simp [State.laneCmd, hl, hr]

/-! ### A lane command that is taken -/

theorem State.Taken.laneJobs {s t : State} {k : PlaneIx} {rest : List PlaneCmd} {o : Held} (h : s.Taken t k rest o) (l : LaneIx) :
    t.laneJobs (devLane k l) = s.laneJobs (devLane k l) := by
  have hjobs : t.jobs = s.jobs := by rw [h.frame]
  have hmember (j : Job) : t.laneMember j = s.laneMember j := by rw [h.frame]; rfl
  simp only [State.laneJobs, hjobs, hmember, planeOf_devLane, h.pjob]

theorem State.Taken.laneUsed {s t : State} {k : PlaneIx} {rest : List PlaneCmd} {o : Held} (h : s.Taken t k rest o) (l : LaneIx) :
    t.laneUsed (devLane k l) = !(s.laneJobs (devLane k l)).isEmpty := by rw [State.laneUsed, h.laneJobs]

section
variable {s : State} {k : PlaneIx} {rest : List PlaneCmd} {o : Held} {l : LaneIx} {refuse : State → DevLane → Option Status}
  {act : State → DevLane → State}
  (h : s.TakesNext k { held := o.id, pkt := o.pkt } rest o) (hl : lanesOf (pf o.pkt 0 2) = [l])
  (hs : (opScope o.pkt.opcode.toNat o.pkt.params).any Scope.planes = true)
  (hx : ∀ t : State, t.takeCmd k { held := o.id, pkt := o.pkt } = t.laneCmd k { held := o.id, pkt := o.pkt } (refuse t) act)
include h hl hs hx

/-- A lane that may not be changed refuses with `BUSY`, its number follows the status block, and nothing of the plane changes. -/
theorem laneCmd_taken_refuses (hr : ∀ t, s.Taken t k rest o → refuse t (devLane k l) = some .busy) :
    Runs (.planeCommandTake k) s fun t => t.plane k = { s.plane k with cmdIn := rest } ∧
      t.Answered o .busy (statusBlock k .busy ++ leBytes 1 l.val) := by
  refine planeCommandTake_runs h fun t ht => ?_
  rw [hx, State.laneCmd_refuses hl (hr t ht)]
  exact ⟨by rw [State.planeAnswer_plane, ht.plane], State.planeAnswer_planes ht.waits hs ..⟩

/-- A lane that may be changed is, and the command answers `OK`, so long as the change leaves the held commands. -/
theorem laneCmd_taken_acts (hr : ∀ t, s.Taken t k rest o → refuse t (devLane k l) = none)
    (hh : ∀ t, s.Taken t k rest o → (act t (devLane k l)).host.held = t.host.held) :
    Runs (.planeCommandTake k) s fun t => t.Answered o .ok (statusBlock k .ok) ∧ ∃ u, s.Taken u k rest o ∧
      t.lane (devLane k l) = (act u (devLane k l)).lane (devLane k l) ∧ t.out = (act u (devLane k l)).out := by
  refine planeCommandTake_runs h fun t ht => ?_
  have hw : (act t (devLane k l)).WaitsFor k o := by
    unfold State.WaitsFor
    rw [hh t ht]
    exact ht.waits
  rw [hx, State.laneCmd_acts hl (hr t ht)]
  exact ⟨State.planeAnswer_block hw hs .ok, t, ht, State.planeAnswer_lane .., by rw [State.planeAnswer_host]⟩

end

/-! ### Lanes that change state -/

@[simp] theorem lane_setLane_same (s : State) (d : DevLane) (st : LState) (f : Lane → Lane) :
    (s.setLane d st f).lane d = { f (s.lane d) with st := st, lchange := (s.plane (planeOf d)).cnt } := lane_updLane_same ..

theorem State.laneDown_lane {s : State} {d : DevLane} (h : (s.lane d).st = .up) (cause : Nat) (st : LState) :
    ((s.laneDown d cause st).lane d).st = st ∧ ((s.laneDown d cause st).lane d).lcause = cause ∧
      ((s.laneDown d cause st).lane d).ready = false := by
  have hlane := (State.laneDown_steady h cause st).lane d
  rw [lane_setLane_same] at hlane
  exact ⟨congrArg Lane.st hlane, congrArg Lane.lcause hlane, congrArg Lane.ready hlane⟩

theorem State.laneDown_held {s : State} {d : DevLane} (h : (s.lane d).st = .up) (cause : Nat) (st : LState) :
    (s.laneDown d cause st).host.held = s.host.held := (State.laneDown_steady h cause st).held

/-- A lane that leaves service by a command: down where it is `UP`, out of lock otherwise, with its laser off. -/
def State.laneOff (s : State) (d : DevLane) (st : LState) : State :=
  (if (s.lane d).st = .up then s.laneDown d 7 st else s.setLane d st Lane.breakLock).updLane d fun l => l.laserStop.clockStop

theorem State.laneOff_spec (s : State) (d : DevLane) (st : LState) :
    ((s.laneOff d st).lane d).st = st ∧ ((s.laneOff d st).lane d).laserOn = false ∧ (s.laneOff d st).host.held = s.host.held ∧
      (s.laneOff d st).out.dormant = s.out.dormant := by
  unfold State.laneOff
  split
  · next h =>
    have hs := State.laneDown_steady h 7 st
    exact ⟨by rw [lane_updLane_same]; exact (State.laneDown_lane h 7 st).1, by rw [lane_updLane_same]; rfl, hs.held, hs.dormant⟩
  · exact ⟨by rw [lane_updLane_same, lane_setLane_same]; rfl, by rw [lane_updLane_same]; rfl, rfl, rfl⟩

/-- The cut-through classes of a lane with a class added or taken away (R192). -/
def Lane.setCut (n : Lane) (cls on : Nat) : Lane :=
  { n with cutClasses := if on = 1 then cls :: n.cutClasses.filter (· != cls) else n.cutClasses.filter (· != cls) }

theorem Lane.mem_setCut (n : Lane) (cls on c : Nat) :
    c ∈ (n.setCut cls on).cutClasses ↔ if c = cls then on = 1 else c ∈ n.cutClasses := by
  unfold Lane.setCut
  by_cases hon : on = 1 <;> by_cases hc : c = cls <;> simp [hon, hc]

/-! ### The commands -/

section
variable {s : State} {k : PlaneIx} {rest : List PlaneCmd} {o : Held} {l : LaneIx}
  (h : s.TakesNext k { held := o.id, pkt := o.pkt } rest o) (hl : lanesOf (pf o.pkt 0 2) = [l])
include h hl

/-- `LANE_EQ` of an `UP` lane (R228). -/
theorem laneEq_refuses (hop : o.pkt.opcode = 0x0802) (hst : (s.lane (devLane k l)).st = .up) :
    Runs (.planeCommandTake k) s fun t => t.plane k = { s.plane k with cmdIn := rest } ∧
      t.Answered o .busy (statusBlock k .busy ++ leBytes 1 l.val) := by
  have hx (t : State) : t.takeCmd k { held := o.id, pkt := o.pkt } = t.takeLaneEq k { held := o.id, pkt := o.pkt } := by
    rw [State.takeCmd, hop]; rfl
  exact laneCmd_taken_refuses h hl (by rw [hop]; rfl) hx fun t ht => by simp [ht.lane, hst]

/-- `LANE_EQ` sets the peaking, and a lane in training trains again (R227, R228). -/
theorem laneEq_sets (hop : o.pkt.opcode = 0x0802) (hst : (s.lane (devLane k l)).st ≠ .up) :
    Runs (.planeCommandTake k) s fun t => (t.lane (devLane k l)).peak = pf o.pkt 4 1 ∧
      (t.lane (devLane k l)).st = (s.lane (devLane k l)).st ∧
      ((s.lane (devLane k l)).st = .training → (t.lane (devLane k l)).plock = false) ∧ t.Answered o .ok (statusBlock k .ok) := by
  have hx (t : State) : t.takeCmd k { held := o.id, pkt := o.pkt } = t.takeLaneEq k { held := o.id, pkt := o.pkt } := by
    rw [State.takeCmd, hop]; rfl
  refine (laneCmd_taken_acts h hl (by rw [hop]; rfl) hx (fun t ht => by simp [ht.lane, hst]) fun _ _ => rfl).imp ?_
  rintro t ⟨hans, u, hu, hlane, -⟩
  rw [hlane, lane_updLane_same, hu.lane]
  dsimp only
  split
  · exact ⟨rfl, rfl, fun _ => rfl, hans⟩
  · next hn => exact ⟨rfl, rfl, fun ht => absurd ht hn, hans⟩

/-- `LANE_HOLD` takes an unused lane that is `UP` down into `HOLD` (R228). -/
theorem laneHold_holds (hop : o.pkt.opcode = 0x0803) (hj : s.laneJobs (devLane k l) = []) (hst : (s.lane (devLane k l)).st = .up) :
    Runs (.planeCommandTake k) s fun t => (t.lane (devLane k l)).st = .hold ∧ (t.lane (devLane k l)).ready = false ∧
      (t.lane (devLane k l)).lcause = 7 ∧ t.Answered o .ok (statusBlock k .ok) := by
  have hx (t : State) : t.takeCmd k { held := o.id, pkt := o.pkt } = t.takeLaneHold k { held := o.id, pkt := o.pkt } := by
    rw [State.takeCmd, hop]; rfl
  have hup {t : State} (ht : s.Taken t k rest o) : (t.lane (devLane k l)).st = .up := by rw [ht.lane, hst]
  refine (laneCmd_taken_acts h hl (by rw [hop]; rfl) hx (fun t ht => by simp [hup ht, ht.laneUsed, hj])
    fun t ht => by simp [hup ht, State.laneDown_held]).imp ?_
  rintro t ⟨hans, u, hu, hlane, -⟩
  obtain ⟨hhold, hcause, hready⟩ := State.laneDown_lane (hup hu) 7 .hold
  have hdown : t.lane (devLane k l) = (u.laneDown (devLane k l) 7 .hold).lane (devLane k l) := by simpa [hup hu] using hlane
  rw [hdown]
  exact ⟨hhold, hready, hcause, hans⟩

/-- `LANE_RELEASE` of an unused lane in `HOLD` lets it train again (R228). -/
theorem laneRelease_releases (hop : o.pkt.opcode = 0x0804) (hj : s.laneJobs (devLane k l) = []) (hst : (s.lane (devLane k l)).st = .hold) :
    Runs (.planeCommandTake k) s fun t => (t.lane (devLane k l)).st = (s.lane (devLane k l)).retrain ∧
      t.Answered o .ok (statusBlock k .ok) := by
  have hx (t : State) : t.takeCmd k { held := o.id, pkt := o.pkt } = t.takeLaneRelease k { held := o.id, pkt := o.pkt } := by
    rw [State.takeCmd, hop]; rfl
  have hhold {t : State} (ht : s.Taken t k rest o) : (t.lane (devLane k l)).st = .hold := by rw [ht.lane, hst]
  refine (laneCmd_taken_acts h hl (by rw [hop]; rfl) hx (fun t ht => by simp [ht.laneUsed, hj])
    fun t ht => by simp [hhold ht, State.setLane]).imp ?_
  rintro t ⟨hans, u, hu, hlane, -⟩
  rw [hlane, if_pos (hhold hu), lane_setLane_same, hu.lane]
  exact ⟨rfl, hans⟩

/-- `LANE_RELEASE` of an `UP` lane that a job uses (R228, R304). -/
theorem laneRelease_refuses (hop : o.pkt.opcode = 0x0804) (hj : s.laneJobs (devLane k l) ≠ []) (hst : (s.lane (devLane k l)).st = .up) :
    Runs (.planeCommandTake k) s fun t => t.plane k = { s.plane k with cmdIn := rest } ∧
      t.Answered o .busy (statusBlock k .busy ++ leBytes 1 l.val) := by
  have hx (t : State) : t.takeCmd k { held := o.id, pkt := o.pkt } = t.takeLaneRelease k { held := o.id, pkt := o.pkt } := by
    rw [State.takeCmd, hop]; rfl
  exact laneCmd_taken_refuses h hl (by rw [hop]; rfl) hx fun t ht => by simp [ht.laneUsed, hj, ht.lane, hst, LState.released]

/-- `LANE_DORMANT` of an unused lane: the `DORMANT` blocks if its laser is on, then the dormant state (R229). -/
theorem laneDormant_sleeps (hop : o.pkt.opcode = 0x0805) (hj : s.laneJobs (devLane k l) = [])
    (hst : (s.lane (devLane k l)).st ∉ [.dormant, .disabled, .txfault]) :
    Runs (.planeCommandTake k) s fun t => (t.lane (devLane k l)).st = .dormant ∧ (t.lane (devLane k l)).laserOn = false ∧
      t.Answered o .ok (statusBlock k .ok) ∧
      t.out.dormant = s.out.dormant ++ if (s.lane (devLane k l)).laserOn then [(devLane k l).val] else [] := by
  have hx (t : State) : t.takeCmd k { held := o.id, pkt := o.pkt } = t.takeLaneDormant k { held := o.id, pkt := o.pkt } := by
    rw [State.takeCmd, hop]; rfl
  simp only [List.mem_cons, List.not_mem_nil, or_false, not_or] at hst
  obtain ⟨hawake, hdis, hfault⟩ := hst
  have hon {t : State} (ht : s.Taken t k rest o) : (t.lane (devLane k l)).st ≠ .dormant := by rwa [ht.lane]
  refine (laneCmd_taken_acts h hl (by rw [hop]; rfl) hx (fun t ht => by simp [ht.laneUsed, hj, ht.lane, hdis, hfault])
    fun t ht => ?_).imp ?_
  · rw [if_neg (hon ht)]
    cases (t.lane (devLane k l)).laserOn with
    | true => exact (State.laneOff_spec { t with out := { t.out with dormant := t.out.dormant ++ [(devLane k l).val] } } _ .dormant).2.2.1
    | false => exact (t.laneOff_spec _ .dormant).2.2.1
  rintro t ⟨hans, u, hu, hlane, hout⟩
  rw [if_neg (hon hu)] at hlane hout
  rw [hlane, hout, ← show u.out.dormant = s.out.dormant by rw [hu.frame], ← hu.lane]
  cases (u.lane (devLane k l)).laserOn with
  | true =>
    obtain ⟨hsleep, hlaser, -, hsent⟩ :=
      State.laneOff_spec { u with out := { u.out with dormant := u.out.dormant ++ [(devLane k l).val] } } (devLane k l) .dormant
    exact ⟨hsleep, hlaser, hans, hsent⟩
  | false =>
    obtain ⟨hsleep, hlaser, -, hsent⟩ := u.laneOff_spec (devLane k l) .dormant
    exact ⟨hsleep, hlaser, hans, hsent.trans (List.append_nil _).symm⟩

/-- `LANE_WAKE` of a dormant lane (R230). -/
theorem laneWake_wakes (hop : o.pkt.opcode = 0x0806) (hst : (s.lane (devLane k l)).st = .dormant) :
    Runs (.planeCommandTake k) s fun t => (t.lane (devLane k l)).st = (s.lane (devLane k l)).retrain ∧
      (t.lane (devLane k l)).laserOn = true ∧ t.Answered o .ok (statusBlock k .ok) := by
  have hx (t : State) : t.takeCmd k { held := o.id, pkt := o.pkt } = t.takeLaneWake k { held := o.id, pkt := o.pkt } := by
    rw [State.takeCmd, hop]; rfl
  refine (laneCmd_taken_acts h hl (by rw [hop]; rfl) hx (fun _ _ => rfl) fun t _ => by rw [(t.wakeLane_sends _).planes]).imp ?_
  rintro t ⟨hans, u, hu, hlane, -⟩
  rw [hlane, State.wakeLane, if_pos (by rw [hu.lane, hst]), lane_setLane_same, hu.lane]
  exact ⟨rfl, rfl, hans⟩

/-- `LANE_DISABLE` of an unused lane turns it off (R231). -/
theorem laneDisable_disables (hop : o.pkt.opcode = 0x0807) (hj : s.laneJobs (devLane k l) = []) (hst : (s.lane (devLane k l)).st ≠ .disabled) :
    Runs (.planeCommandTake k) s fun t => (t.lane (devLane k l)).st = .disabled ∧ (t.lane (devLane k l)).laserOn = false ∧
      t.Answered o .ok (statusBlock k .ok) := by
  have hx (t : State) : t.takeCmd k { held := o.id, pkt := o.pkt } = t.takeLaneDisable k { held := o.id, pkt := o.pkt } := by
    rw [State.takeCmd, hop]; rfl
  have hoff {t : State} (ht : s.Taken t k rest o) : (t.lane (devLane k l)).st ≠ .disabled := by rwa [ht.lane]
  refine (laneCmd_taken_acts h hl (by rw [hop]; rfl) hx (fun t ht => by simp [ht.laneUsed, hj]) fun t ht => ?_).imp ?_
  · rw [if_neg (hoff ht)]
    exact (t.laneOff_spec (devLane k l) .disabled).2.2.1
  rintro t ⟨hans, u, hu, hlane, -⟩
  rw [if_neg (hoff hu)] at hlane
  obtain ⟨hdis, hlaser, -⟩ := u.laneOff_spec (devLane k l) .disabled
  rw [hlane]
  exact ⟨hdis, hlaser, hans⟩

/-- `LANE_DISABLE` of a lane that a job uses, unless it is off or faulted (R231). -/
theorem laneDisable_refuses (hop : o.pkt.opcode = 0x0807) (hj : s.laneJobs (devLane k l) ≠ [])
    (hst : (s.lane (devLane k l)).st ∉ [.disabled, .txfault]) :
    Runs (.planeCommandTake k) s fun t => t.plane k = { s.plane k with cmdIn := rest } ∧
      t.Answered o .busy (statusBlock k .busy ++ leBytes 1 l.val) := by
  have hx (t : State) : t.takeCmd k { held := o.id, pkt := o.pkt } = t.takeLaneDisable k { held := o.id, pkt := o.pkt } := by
    rw [State.takeCmd, hop]; rfl
  simp only [List.mem_cons, List.not_mem_nil, or_false, not_or] at hst
  exact laneCmd_taken_refuses h hl (by rw [hop]; rfl) hx fun t ht => by simp [ht.laneUsed, hj, ht.lane, hst]

/-- `LANE_ENABLE` of an unused lane that is disabled and not retired: its laser at the calibrated bias, and it trains (R230, R231, R253). -/
theorem laneEnable_enables (hop : o.pkt.opcode = 0x0808) (hj : s.laneJobs (devLane k l) = []) (hst : (s.lane (devLane k l)).st = .disabled)
    (hr : (s.lane (devLane k l)).retired = false) :
    Runs (.planeCommandTake k) s fun t => (t.lane (devLane k l)).st = (s.lane (devLane k l)).retrain ∧
      (t.lane (devLane k l)).laserOn = true ∧ (t.lane (devLane k l)).bias = s.calBias (devLane k l) ∧ t.Answered o .ok (statusBlock k .ok) := by
  have hx (t : State) : t.takeCmd k { held := o.id, pkt := o.pkt } = t.takeLaneEnable k { held := o.id, pkt := o.pkt } := by
    rw [State.takeCmd, hop]; rfl
  have hoff {t : State} (ht : s.Taken t k rest o) : (t.lane (devLane k l)).st = .disabled := by rw [ht.lane, hst]
  refine (laneCmd_taken_acts h hl (by rw [hop]; rfl) hx (fun t ht => by simp [ht.laneUsed, hj, ht.lane, hr])
    fun t ht => by simp [hoff ht, State.setLane]).imp ?_
  rintro t ⟨hans, u, hu, hlane, -⟩
  have hbias : u.calBias (devLane k l) = s.calBias (devLane k l) := by rw [hu.frame]; rfl
  rw [hlane, if_pos (hoff hu), lane_setLane_same, hu.lane, hbias]
  exact ⟨rfl, rfl, rfl, hans⟩

/-- `LANE_FWD` adds its class to the lane's cut-through classes or takes it away, and no other (R192). -/
theorem laneFwd_sets (hop : o.pkt.opcode = 0x0809) :
    Runs (.planeCommandTake k) s fun t => t.Answered o .ok (statusBlock k .ok) ∧
      (pf o.pkt 4 1 ∈ (t.lane (devLane k l)).cutClasses ↔ pf o.pkt 5 1 = 1) ∧
      ∀ c, c ≠ pf o.pkt 4 1 → (c ∈ (t.lane (devLane k l)).cutClasses ↔ c ∈ (s.lane (devLane k l)).cutClasses) := by
  have hx (t : State) : t.takeCmd k { held := o.id, pkt := o.pkt } = t.laneCmd k { held := o.id, pkt := o.pkt } (fun _ => none)
      fun s d => s.updLane d fun n => n.setCut (pf o.pkt 4 1) (pf o.pkt 5 1) := by
    rw [State.takeCmd, hop]; rfl
  refine (laneCmd_taken_acts h hl (by rw [hop]; rfl) hx (fun _ _ => rfl) fun _ _ => rfl).imp ?_
  rintro t ⟨hans, u, hu, hlane, -⟩
  rw [hlane, lane_updLane_same, hu.lane]
  exact ⟨hans, by simp [Lane.mem_setCut], fun c hc => by simp [Lane.mem_setCut, hc]⟩

end

end Sys2Proof.Machine

section
open Sys2Proof Sys2Proof.Machine

/-- Settles O48: by the command, and by whether the lane named refuses it. -/
theorem planesTakeLaneCommands : Obligations.PlanesTakeLaneCommands := by
  intro k x rest o l s h hl d n
  obtain rfl := h.cmd_eq
  exact ⟨laneEq_refuses h hl, laneEq_sets h hl, laneHold_holds h hl, laneRelease_releases h hl, laneRelease_refuses h hl,
    laneDormant_sleeps h hl, laneWake_wakes h hl, laneDisable_disables h hl, laneDisable_refuses h hl, laneEnable_enables h hl,
    laneFwd_sets h hl⟩

end

/-! ## The leaked-buffer detector and in-field tests (R182, R254 to R256) -/

namespace Sys2Proof.Machine

/-! ### Errors of the units that are audited and tested -/

/-- `t` is `s` with one record more of plane `k`, whose marks of suspect and leaked cells, jobs and counters stay. -/
structure State.CellRecord (s t : State) (k : PlaneIx) : Prop where
  errSeq : (t.plane k).errSeq = (s.plane k).errSeq + 1
  suspects : (t.plane k).suspects = (s.plane k).suspects
  leaked : (t.plane k).leaked = (s.plane k).leaked
  planeJobs : (t.plane k).jobs = (s.plane k).jobs
  ctr : ∀ c, c ≠ .errLost → ctrGet (t.plane k).ctrs c = ctrGet (s.plane k).ctrs c
  jobs : t.jobs = s.jobs

theorem State.Logs.cellRecord {s t : State} {k : PlaneIx} (h : s.Logs t k) : s.CellRecord t k :=
  ⟨by rw [h.own], by rw [h.own], by rw [h.own], by rw [h.own], h.ctr, h.jobs⟩

/-- A cell's retirement is part of what such a record may bring. -/
theorem State.CellRecord.updPlane {s t : State} {k : PlaneIx} (h : s.CellRecord t k) {f : Plane → Plane}
    (hf : ∀ p, f p = { p with retHeld := (f p).retHeld, retCells := (f p).retCells }) : s.CellRecord (t.updPlane k f) k where
  errSeq := by rw [plane_updPlane_same, hf, h.errSeq]
  suspects := by rw [plane_updPlane_same, hf, h.suspects]
  leaked := by rw [plane_updPlane_same, hf, h.leaked]
  planeJobs := by rw [plane_updPlane_same, hf, h.planeJobs]
  ctr c hc := by rw [plane_updPlane_same, hf]; exact h.ctr c hc
  jobs := h.jobs

/-- An error of a cell: its record, and at most the cell's retirement (R250, R253). -/
theorem State.cellError_cellRecord (s : State) (k : PlaneIx) {e : ErrInfo} (hb : e.block = 2) : s.CellRecord (s.error k e) k := by
  obtain h | ⟨-, u, hu, he⟩ := s.error_cases k e
  · exact h.cellRecord
  · rw [he, hb, State.retireUnit]
    split
    · exact hu.cellRecord.updPlane fun _ => rfl
    · exact State.CellRecord.updPlane (hu.cellRecord.updPlane fun _ => rfl) fun _ => rfl

/-- `t` is `s` with `n` records more of plane `k`, which keeps its tests and its service, or is retired. -/
structure State.Errs (s t : State) (k : PlaneIx) (n : Nat) : Prop where
  errSeq : (t.plane k).errSeq = (s.plane k).errSeq + n
  tests : (t.plane k).ps = (s.plane k).ps ∧ (t.plane k).tests = (s.plane k).tests ∨ (t.plane k).ps = .retired

theorem State.Errs.trans {s t u : State} {k : PlaneIx} {n m : Nat} (h : s.Errs t k n) (g : t.Errs u k m) : s.Errs u k (n + m) := by
  refine ⟨by rw [g.errSeq, h.errSeq, Nat.add_assoc], ?_⟩
  obtain ⟨gps, gtests⟩ | gret := g.tests
  · rw [gps, gtests]
    exact h.tests
  · exact .inr gret

theorem State.Steady.errs {s t : State} (h : s.Steady t) (k : PlaneIx) : s.Errs t k 0 := ⟨h.errSeq k, .inl ⟨h.ps k, h.tests k⟩⟩

theorem State.Sends.errs {s t : State} (h : s.Sends t) (k : PlaneIx) : s.Errs t k 0 :=
  ⟨by rw [h.plane k]; rfl, .inl ⟨by rw [h.plane k], by rw [h.plane k]⟩⟩

theorem State.laneDown_errs (s : State) (d : DevLane) (cause : Nat) (st : LState) (k : PlaneIx) : s.Errs (s.laneDown d cause st) k 0 := by
  by_cases h : (s.lane d).st = .up
  · exact ((State.Sends.updLane s d _).errs k).trans ((State.laneDown_steady h cause st).errs k)
  · rw [State.laneDown, if_pos (by simpa using h)]
    exact (State.Steady.refl s).errs k

/-- The retirement of a unit makes no record, and keeps the plane's tests unless it retires the plane (R253). -/
theorem State.retireUnit_errs (s : State) (k : PlaneIx) (block index job : Nat) : s.Errs (s.retireUnit k block index job) k 0 := by
  unfold State.retireUnit
  extract_lets u d u1
  have hu : s.Errs u k 0 := by
    simp only [u]
    refine State.Steady.errs ?_ k
    split
    · exact .refl s
    · exact .updPlane s k fun _ => rfl
  split
  · have h1 : u.Errs u1 k 0 := (u.laneDown_errs d 7 .disabled k).trans ((State.Sends.updLane _ d _).errs k)
    split
    · exact hu.trans (h1.trans ((State.Sends.updLane _ d _).errs k))
    · exact hu.trans (h1.trans ((State.Sends.updLane _ d _).errs k))
  -- the memory blocks note the unit
  iterate 4
    refine hu.trans (State.Steady.errs ?_ k)
    exact .updPlane u k fun _ => rfl
  · obtain ⟨hl, hp⟩ := u.retirePlane_leaves k false
    exact hu.trans (m := 0) ⟨hl.errSeq k, .inr hp⟩

theorem State.Logs.errs {s t : State} {k : PlaneIx} (h : s.Logs t k) : s.Errs t k 1 :=
  ⟨by rw [h.own], .inl ⟨by rw [h.own], by rw [h.own]⟩⟩

/-- An error is one record (R244, R253). -/
theorem State.error_errs (s : State) (k : PlaneIx) (e : ErrInfo) : s.Errs (s.error k e) k 1 := by
  obtain h | ⟨-, u, hu, he⟩ := s.error_cases k e
  · exact h.errs
  · rw [he]
    exact hu.errs.trans (u.retireUnit_errs ..)

/-! ### The detector -/

section
variable {k : PlaneIx} {cell job : Nat} {s : State} (hps : (s.plane k).ps = .inService)
include hps

theorem bufferAudit_runs (f : AuditFinding) {P : State → Prop} (h : P (s.audit k cell f)) : Runs (.bufferAudit k cell f) s P :=
  ⟨_, congrArg Host.Outcome.next (if_pos hps), h⟩

/-- A clean finding clears the mark (R182). -/
theorem bufferAudit_clean : Runs (.bufferAudit k cell .clean) s fun t => t = { s with planes := t.planes } ∧ cell ∉ (t.plane k).suspects :=
  bufferAudit_runs hps _ ⟨rfl, by simp [State.audit]⟩

/-- A first finding marks the cell (R182). -/
theorem bufferAudit_marks (hnew : ∀ x ∈ (s.plane k).leaked, x.1 ≠ cell) (hs : cell ∉ (s.plane k).suspects) :
    Runs (.bufferAudit k cell (.unreferenced job)) s fun t => t = { s with planes := t.planes } ∧
      (t.plane k).suspects = cell :: (s.plane k).suspects ∧ (t.plane k).leaked = (s.plane k).leaked := by
  have hl : (s.plane k).leaked.any (·.1 == cell) = false := List.any_eq_false.2 fun x hx => by simpa using hnew x hx
  have ha : s.audit k cell (.unreferenced job) = s.updPlane k fun p => { p with suspects := cell :: p.suspects } := by
    simp [State.audit, hl, hs]
  exact bufferAudit_runs hps _ (by rw [ha]; exact ⟨rfl, by simp, by simp⟩)

/-- A second finding records the cell as leaked, for the drain of a job that has one to come (R182). -/
theorem bufferAudit_leaks (hnew : ∀ x ∈ (s.plane k).leaked, x.1 ≠ cell) {j : Job} {pj : PJob} (hs : cell ∈ (s.plane k).suspects)
    (hj : s.findJob job = some j) (hp : s.pjob k job = some pj) (he : jobEnded j pj = false) :
    Runs (.bufferAudit k cell (.unreferenced job)) s fun t => (t.plane k).leaked = (s.plane k).leaked ++ [(cell, job)] ∧
      cell ∉ (t.plane k).suspects ∧ (t.plane k).errSeq = (s.plane k).errSeq + 1 := by
  have hl : (s.plane k).leaked.any (·.1 == cell) = false := List.any_eq_false.2 fun x hx => by simpa using hnew x hx
  have ha : s.audit k cell (.unreferenced job) = s.leakCell k cell job := by simp [State.audit, hl, hs]
  refine bufferAudit_runs hps _ ?_
  rw [ha]
  unfold State.leakCell
  extract_lets u t
  have ht : u.CellRecord t k := u.cellError_cellRecord k rfl
  have hj' : t.findJob job = some j := (findJob_congr ht.jobs job).trans hj
  have hp' : t.pjob k job = some pj := by
    rw [← hp, State.pjob, Plane.findPJob, ht.planeJobs]
    simp [u, State.pjob, Plane.findPJob]
  simp only [hj', hp', he, Bool.false_eq_true, if_false, plane_updPlane_same, ht.leaked, ht.suspects, ht.errSeq]
  simp [u]

/-- A cell that is both free and held is recorded and counted (R182). -/
theorem bufferAudit_counts : Runs (.bufferAudit k cell .freeAndHeld) s fun t =>
    ctrGet (t.plane k).ctrs .bufDup = satAdd 32 (ctrGet (s.plane k).ctrs .bufDup) 1 ∧ (t.plane k).errSeq = (s.plane k).errSeq + 1 := by
  refine bufferAudit_runs hps _ ?_
  have h := s.cellError_cellRecord k (e := { block := 2, cls := 8, index := cellIndex cell }) rfl
  refine ⟨?_, ?_⟩
  · rw [State.audit, State.planeCtr, plane_updPlane_same, ctrGet_ctrAdd_same, h.ctr _ (by decide)]
  · rw [State.audit, State.planeCtr, plane_updPlane_same, h.errSeq]

end

/-! ### Tests that fall due -/

theorem testDue_queues {k : PlaneIx} {b : Nat} {s : State} (hps : (s.plane k).ps = .inService) (hb : testSegments b ≠ 0)
    (hn : ∀ x ∈ (s.plane k).tests, ¬ (x.block = b ∧ x.cmd = none)) : Runs (.testDue k b) s fun t => t = { s with planes := t.planes } ∧
      (t.plane k).tests = (s.plane k).tests ++ [{ block := b, segsLeft := testSegments b }] := by
  have hany : (s.plane k).tests.any (fun t => t.block == b && t.cmd.isNone) = false :=
    List.any_eq_false.2 fun x hx => by simpa using hn x hx
  refine ⟨s.updPlane k fun p => { p with tests := p.tests ++ [{ block := b, segsLeft := testSegments b }] },
    congrArg Host.Outcome.next (if_neg (by simp [hps, hb, hany])), rfl, by simp⟩

/-! ### The runs of a segment -/

/-- An entry that a search finds is found as what replaces it. -/
theorem find?_replace {α : Type} [BEq α] [LawfulBEq α] {p : α → Bool} {x y : α} (hy : p y = true) : ∀ {l : List α},
    l.find? p = some x → (l.replace x y).find? p = some y
  | a :: l, h => by
    by_cases ha : a = x
    · simp [ha, hy]
    · have hpa : p a = false := by
        by_contra hpa
        exact ha (by simpa [hpa] using h)
      have hx : (x == a) = false := beq_false_of_ne (Ne.symm ha)
      rw [List.find?_cons_of_neg (by simp [hpa])] at h
      simpa [List.replace_cons, hx, hpa] using find?_replace hy h

theorem mem_replace_of_mem {α : Type} [BEq α] [LawfulBEq α] {x : α} (y : α) : ∀ {l : List α}, x ∈ l → y ∈ l.replace x y
  | a :: l, h => by
    by_cases ha : x = a
    · simp [ha]
    · have hx : (x == a) = false := beq_false_of_ne ha
      have hl : x ∈ l := (List.mem_cons.1 h).resolve_left ha
      simpa [List.replace_cons, hx] using .inr (mem_replace_of_mem y hl)

/-- The plane with the chance for a segment used up (R255). -/
def State.segmentTaken (s : State) (k : PlaneIx) : State := s.updPlane k fun p => { p with segSlot := false }

/-- What follows the runs of a segment of the test `x`, unless an error took the test away: its end, or its next segment. -/
def State.afterRuns (u : State) (k : PlaneIx) (b : Nat) (x : TestRun) (failed : Bool) : State :=
  if (u.plane k).testOf b != some x then u
  else if failed || x.segsLeft ≤ 1 then u.endRun k x failed
  else u.updPlane k fun p => p.setTest x (some { x with segsLeft := x.segsLeft - 1 })

/-- The error of a segment whose run fails (R256). -/
def segmentError (b seg unit : Nat) : ErrInfo := { block := b, cls := 6, index := unit, op := seg, opk := 8 }

theorem State.endRun_calm (s : State) (k : PlaneIx) (x : TestRun) (failed : Bool) : s.Calm (s.endRun k x failed) := by
  unfold State.endRun
  extract_lets others u fr v
  have hu : s.Calm u := .updPlane s k fun _ => rfl
  have hv : u.Calm v := .updPlane u k fun _ => rfl
  split
  · refine hu.trans ?_
    exact .updPlane u k fun _ => rfl
  · refine hu.trans (hv.trans ?_)
    split
    · unfold State.endCmdTest
      split
      · exact .updPlane v k fun _ => rfl
      · exact v.planeAnswer_calm ..
    · exact .refl v

theorem State.afterRuns_calm (u : State) (k : PlaneIx) (b : Nat) (x : TestRun) (failed : Bool) : u.Calm (u.afterRuns k b x failed) := by
  unfold State.afterRuns
  split
  · exact .refl u
  · split
    · exact u.endRun_calm ..
    · exact .updPlane u k fun _ => rfl

/-- The last run of a test that the block's own interval began removes the test (R255). -/
theorem State.endRun_tests (s : State) (k : PlaneIx) {x : TestRun} (hr : x.repeats = 1) (hc : x.cmd = none) (failed : Bool) :
    ((s.endRun k x failed).plane k).tests = (s.plane k).tests.erase x := by
  simp [State.endRun, hr, hc, Plane.setTest]

section
variable {s : State} {k : PlaneIx} {b : Nat} {x : TestRun} (hx : (s.plane k).testOf b = some x) {r1 r2 : SegRun} {unit : Nat}
include hx

theorem testSegmentDone_waits (ha : s.segmentAllowed k b = false) : Runs (.testSegmentDone k b r1 r2 unit) s fun t => t = s := by
  refine ⟨_, rfl, ?_⟩
  simp [State.segmentDone, hx, ha]

variable (ha : s.segmentAllowed k b = true)
include ha

/-- A segment by the outcome of its runs: it passes, or it passes at the second attempt, or it fails twice (R256). -/
theorem State.segmentDone_eq : let seg := testSegments b - x.segsLeft
    let e := segmentError b seg unit
    let u := s.segmentTaken k
    s.segmentDone k b r1 r2 unit =
      if (segPasses b seg r1 || !(segUnit b seg unit && (s.plane k).testFree b unit)) = true then u.afterRuns k b x false
      else if segPasses b seg r2 = true then (u.error k { e with disp := dRetried ||| dRetryOk }).afterRuns k b x false
      else ((u.error k { e with disp := dRetried }).error k { e with disp := dSecond }).afterRuns k b x true := by
  intro seg e u
  unfold State.segmentDone
  simp only [hx, ha]
  cases (segPasses b seg r1 || !(segUnit b seg unit && (s.plane k).testFree b unit)) <;> cases segPasses b seg r2 <;> rfl

/-- A segment that passes, with more to run, moves the test on (R254, R255). -/
theorem testSegmentDone_passes (h1 : segPasses b (testSegments b - x.segsLeft) r1 = true) (hl : 1 < x.segsLeft) :
    Runs (.testSegmentDone k b r1 r2 unit) s fun t => t = { s with planes := t.planes } ∧
      (t.plane k).testOf b = some { x with segsLeft := x.segsLeft - 1 } ∧ (t.plane k).errSeq = (s.plane k).errSeq := by
  have hx' : ((s.segmentTaken k).plane k).testOf b = some x := by rw [State.segmentTaken, plane_updPlane_same]; exact hx
  have hl' : ¬((false || decide (x.segsLeft ≤ 1)) = true) := by simp; omega
  refine ⟨_, rfl, ?_⟩
  rw [State.segmentDone_eq hx ha, if_pos (by simp [h1]), State.afterRuns, if_neg (by simp [hx']), if_neg hl']
  refine ⟨rfl, ?_, by simp [Plane.setTest, State.segmentTaken]⟩
  rw [plane_updPlane_same]
  exact find?_replace (by simpa using List.find?_some hx) hx'

variable (hu : segUnit b (testSegments b - x.segsLeft) unit = true) (hf : (s.plane k).testFree b unit = true)
  (h1 : segPasses b (testSegments b - x.segsLeft) r1 = false)
include hu hf h1

/-- A segment that passes at the second attempt makes one record (R256). -/
theorem testSegmentDone_records (h2 : segPasses b (testSegments b - x.segsLeft) r2 = true) :
    Runs (.testSegmentDone k b r1 r2 unit) s fun t => (t.plane k).errSeq = (s.plane k).errSeq + 1 := by
  refine ⟨_, rfl, ?_⟩
  rw [State.segmentDone_eq hx ha, if_neg (by simp [h1, hu, hf]), if_pos h2]
  refine ((State.afterRuns_calm ..).errSeq k).trans ?_
  rw [(State.error_errs ..).errSeq, State.segmentTaken, plane_updPlane_same]

/-- A segment that fails twice makes two records and ends the run; where they retire the plane, its tests are gone (R253, R256). -/
theorem testSegmentDone_fails (h2 : segPasses b (testSegments b - x.segsLeft) r2 = false) (hr : x.repeats = 1) (hc : x.cmd = none) :
    Runs (.testSegmentDone k b r1 r2 unit) s fun t => (t.plane k).errSeq = (s.plane k).errSeq + 2 ∧
      ((t.plane k).tests = (s.plane k).tests.erase x ∨ (t.plane k).ps = .retired) := by
  refine ⟨_, rfl, ?_⟩
  rw [State.segmentDone_eq hx ha, if_neg (by simp [h1, hu, hf]), if_neg (by simp [h2])]
  generalize hv : State.error _ k _ = v
  have herr : (s.segmentTaken k).Errs v k 2 := hv ▸ (State.error_errs ..).trans (State.error_errs ..)
  have hseq : (v.plane k).errSeq = (s.plane k).errSeq + 2 := by rw [herr.errSeq, State.segmentTaken, plane_updPlane_same]
  have hcalm := v.afterRuns_calm k b x true
  refine ⟨by rw [hcalm.errSeq, hseq], ?_⟩
  obtain ⟨-, htests⟩ | hret := herr.tests
  · have htests' : (v.plane k).tests = (s.plane k).tests := by rw [htests, State.segmentTaken, plane_updPlane_same]
    have hx' : (v.plane k).testOf b = some x := by rw [Plane.testOf, htests']; exact hx
    rw [State.afterRuns, if_neg (by simp [hx']), if_pos (by simp), State.endRun_tests v k hr hc, htests']
    exact .inl rfl
  · exact .inr ((hcalm.ps k).trans hret)

end

/-! ### Tests that are overdue -/

/-- A record leaves the observations to the error that it is of. -/
theorem State.writeRecord_obs (s : State) (k : PlaneIx) (e : ErrInfo) (disp : Nat) (u : Bool) :
    ((s.writeRecord k e disp u).plane k).obs = (s.plane k).obs := by
  have counted {t : State} (lost : Bool) (h : (t.plane k).obs = (s.plane k).obs) :
      ((if lost then (t.planeCtr k .errLost).setErrsum [esErrLost] else t).plane k).obs = (s.plane k).obs := by
    cases lost
    · exact h
    · exact (by simp [State.planeCtr] : _ = (t.plane k).obs).trans h
  have entered {t : State} (f : Plane → Plane) (ht : t.plane k = s.plane k) (hf : ∀ p, (f p).obs = p.obs) :
      ((t.updPlane k f).plane k).obs = (s.plane k).obs := by rw [plane_updPlane_same, hf, ht]
  unfold State.writeRecord
  simp only [State.takeFresh]
  split
  · rw [State.setErrsum_plane]
    exact counted _ (entered _ rfl fun _ => rfl)
  · rw [State.report_plane, State.setErrsum_plane]
    exact counted _ (entered _ rfl fun _ => rfl)

/-- An overdue test makes its record and puts every arithmetic block under observation (R255). -/
theorem testOverdue_observes {k : PlaneIx} {b : Nat} {x : TestRun} {s : State}
    (hx : (s.plane k).tests.find? (fun t => t.block == b && t.cmd.isNone && !t.overdue) = some x) :
    Runs (.testOverdue k b) s fun t => (t.plane k).errSeq = (s.plane k).errSeq + 1 ∧ { x with overdue := true } ∈ (t.plane k).tests ∧
      ∀ c ∈ arithBlocks, (t.plane k).observed c = true := by
  refine ⟨_, rfl, ?_⟩
  unfold State.testOverdue
  simp only [hx]
  generalize hu : s.updPlane k _ = u
  have hw := (u.writeRecord_recorded k { block := b, cls := 12, op := testSegments b - x.segsLeft, opk := 8 }
    (if (arithBlocks.filter fun b => !(s.plane k).observed b).contains b then dObsEnt else 0) ((s.plane k).observed b)).own
  refine ⟨?_, ?_, fun c hc => ?_⟩
  · rw [hw, ← hu, plane_updPlane_same]
    rfl
  · rw [hw, ← hu, plane_updPlane_same]
    exact mem_replace_of_mem _ (List.mem_of_find?_eq_some hx)
  · rw [Plane.observed, State.writeRecord_obs, ← hu, plane_updPlane_same]
    by_cases ho : (s.plane k).observed c = true
    · simp only [List.any_append, Bool.or_eq_true]
      exact .inr ho
    · simp [hc, ho]

end Sys2Proof.Machine

section
open Sys2Proof Sys2Proof.Machine

/-- Settles O38: each finding of the detector, and each outcome of a segment's runs. -/
theorem detectorAndTests : Obligations.DetectorAndTests := by
  refine ⟨fun k cell job s hps hnew => ⟨bufferAudit_clean hps, bufferAudit_marks hps hnew, fun j pj => bufferAudit_leaks hps hnew,
      bufferAudit_counts hps⟩,
    fun k b s => testDue_queues, fun k b unit r1 r2 x s hx => ⟨testSegmentDone_waits hx, fun ha => ⟨testSegmentDone_passes hx ha,
      fun hu hf h1 => ⟨testSegmentDone_records hx ha hu hf h1, testSegmentDone_fails hx ha hu hf h1⟩⟩⟩,
    fun k b x s => testOverdue_observes⟩

end

/-! ## The egress shaper (R203 to R205, R208, R210, R211)

The shaper chooses a descriptor, and then that frame starts, waits for tokens or is held by the gate.  What each of these three does is said once
here; the obligation follows from which descriptor is chosen. -/

namespace Sys2Proof.Machine

/-! ### The replicator goes on with a credit (R19) -/

theorem Plane.flowFuel_lanes (n : Nat) (p : Plane) : (p.flowFuel n).lanes = p.lanes := by
  induction n generalizing p with
  | zero => rfl
  | succ n ih =>
    unfold Plane.flowFuel
    split
    · rfl
    · split
      · exact ih _
      · split
        · rfl
        · exact ih _

theorem Plane.flow_lanes (p : Plane) : p.flow.lanes = p.lanes := by
  unfold Plane.flow
  dsimp only
  split <;> exact p.flowFuel_lanes _

theorem State.replicatorFuel_sends (k : PlaneIx) (n : Nat) (s : State) : s.Sends (State.replicatorFuel k n s) := by
  induction n generalizing s with
  | zero => exact .refl s
  | succ n ih =>
    unfold State.replicatorFuel
    split
    · exact .refl s
    · split
      · exact .refl s
      · have hq (q : StageQ) : s.Sends (s.updPlane k fun p => { p with qPublish := q }) := .updPlane s k fun _ => rfl
        dsimp only
        split
        · exact (hq _).trans (ih _)
        · exact (hq _).trans ((State.place_sends ..).trans (ih _))

theorem State.replicator_out (s : State) (k : PlaneIx) : (s.replicator k).out = s.out :=
  (congrArg State.out (State.replicatorFuel_sends k _ s).planes :)

theorem State.replicator_ts (s : State) (k : PlaneIx) (d : DevLane) : ((s.replicator k).lane d).ts = (s.lane d).ts :=
  (congrArg Lane.ts ((s.replicator_steady k).lane d) :)

/-- With nothing in the Publish queue the replicator places nothing. -/
theorem State.replicator_lane_of_empty {s : State} {d : DevLane} (h : (s.plane (planeOf d)).qPublish = {}) :
    (s.replicator (planeOf d)).lane d = s.lane d := by
  simp [State.replicator, h, StageQ.size, State.replicatorFuel, State.lane, Plane.flow_lanes]

/-! ### A frame that starts (R204, R205, R217) -/

/-- The freed entry goes to the descriptor that waits before the queue (R19). -/
theorem Lane.takeOut_egress (l : Lane) (x : Desc) : (l.takeOut x).egress = l.egress.erase x ++ l.egWait.take 1 := by
  unfold Lane.takeOut
  extract_lets q l' m
  have hm : m.egress = l.egress.erase x ∧ m.egWait = l.egWait := by
    unfold m
    split <;> exact ⟨rfl, rfl⟩
  rw [hm.2]
  cases l.egWait <;> simp [hm.1]

/-- In `t` frame `x` has started on lane `d` of `s`: its bytes stand on the fibre, the shaper has paid them, and its descriptor has left. -/
def State.Starts (s t : State) (d : DevLane) (x : Desc) : Prop :=
  t.out.fibre = s.out.fibre ++ [(d.val, frameBytes (s.isPeer d) x.frame)] ∧
  (t.lane d).ts = (s.lane d).ts - (x.frame.bytes + (s.lane d).shovh) ∧
  ((s.plane (planeOf d)).qPublish = {} → (t.lane d).egress = (s.lane d).egress.erase x ++ (s.lane d).egWait.take 1)

theorem State.startFrame_starts (s : State) (d : DevLane) (x : Desc) : s.Starts (s.startFrame d x) d x := by
  unfold State.startFrame
  extract_lets peer now u
  set v : State := { u with out := { u.out with fibre := u.out.fibre ++ [(d.val, frameBytes peer x.frame)] } }
  have hlane : v.lane d = { (s.lane d).takeOut x with
      ts := (s.lane d).ts - (x.frame.len + 36 + (s.lane d).shovh), sendEnd := now + laneTime x.frame.len } := lane_updLane_same ..
  refine ⟨?_, ?_, fun hp => ?_⟩
  · rw [State.replicator_out]
    rfl
  · rw [State.replicator_ts, hlane]
    rfl
  · have hv : (v.plane (planeOf d)).qPublish = {} := by
      have hu : u.plane (planeOf d) = (s.plane (planeOf d)).updLane (laneIn d) _ := plane_updPlane_same ..
      exact (congrArg Plane.qPublish hu).trans hp
    rw [State.replicator_lane_of_empty hv, hlane]
    exact Lane.takeOut_egress ..

/-! ### A frame that waits (R203, R208, R211) -/

/-- A descriptor that is marked as it begins to wait: the lane's counter moves by one, and nothing leaves. -/
theorem State.laneCtr_mark (s : State) (d : DevLane) (c : LCtr) (x y : Desc) :
    let t := (s.laneCtr d c).updLane d fun l => l.mark x y
    t.out = s.out ∧ (t.lane d).egress = (s.lane d).egress.replace x y ∧
      ctrGet (t.lane d).ctrs c = satAdd 32 (ctrGet (s.lane d).ctrs c) 1 := by
  intro t
  have hlane : t.lane d = { s.lane d with egress := (s.lane d).egress.replace x y, ctrs := ctrAdd (s.lane d).ctrs c 1 } := by
    rw [lane_updLane_same, State.laneCtr, lane_updLane_same, Lane.mark]
  refine ⟨rfl, ?_, ?_⟩
  · rw [hlane]
  · rw [hlane, ctrGet_ctrAdd_same]

section
variable {s : State} {d : DevLane} {x : Desc}

theorem State.shape_starts (hl : x.later = .none) (hb : x.frame.bytes + (s.lane d).shovh ≤ (s.lane d).ts) :
    s.Starts (s.shape d x) d x := by
  have : s.shape d x = s.startFrame d x := (if_neg (by simp [hl])).trans (if_pos hb)
  exact this ▸ s.startFrame_starts d x

theorem State.shape_short (hl : x.later = .none) (hb : (s.lane d).ts < x.frame.bytes + (s.lane d).shovh) :
    s.shape d x = if x.waited then s else (s.laneCtr d .shapeWait).updLane d fun l => l.mark x { x with waited := true } :=
  (if_neg (by simp [hl])).trans (if_neg hb.not_ge)

/-- The frame chosen before waits on for tokens. -/
theorem State.shape_waits (hl : x.later = .none) (hb : (s.lane d).ts < x.frame.bytes + (s.lane d).shovh) (hw : x.waited = true) :
    s.shape d x = s := by
  rw [State.shape_short hl hb, if_pos hw]

/-- A frame that begins to wait for tokens is counted in `SHAPEWAIT`. -/
theorem State.shape_marks (hl : x.later = .none) (hb : (s.lane d).ts < x.frame.bytes + (s.lane d).shovh) (hw : x.waited = false) :
    (s.shape d x).out = s.out ∧ ((s.shape d x).lane d).egress = (s.lane d).egress.replace x { x with waited := true } ∧
      ctrGet ((s.shape d x).lane d).ctrs .shapeWait = satAdd 32 (ctrGet (s.lane d).ctrs .shapeWait) 1 := by
  rw [State.shape_short hl hb, if_neg (by simp [hw])]
  exact s.laneCtr_mark d .shapeWait x _

/-! ### The choice (R203, R204) -/

theorem State.chosen_waited (h : s.chosen d = some x) : x.waited = true := by
  have := List.find?_some h
  simp only [Bool.and_eq_true] at this
  exact this.1

/-- The frame that already waits for tokens goes first. -/
theorem State.egressSelect_chosen (hup : (s.lane d).st = .up) (h : s.chosen d = some x) : s.egressSelect d = s.shape d x := by
  simp [State.egressSelect, hup, h]

/-- With none waiting for tokens, a serving frame goes first. -/
theorem State.egressSelect_serving (hup : (s.lane d).st = .up) (hc : s.chosen d = none) (h : servingPick (s.lane d).egress = some x) :
    s.egressSelect d = s.shape d x := by
  simp [State.egressSelect, hup, hc, h]

/-- In a serving window of a shared lane no lent frame has a turn (R208). -/
theorem State.egressSelect_window (hup : (s.lane d).st = .up) (hc : s.chosen d = none) (hs : servingPick (s.lane d).egress = none)
    (ho : s.laneOwner d = 2) (hw : (s.plane (planeOf d)).window = true) : s.egressSelect d = s := by
  simp [State.egressSelect, hup, hc, hs, ho, hw]

/-- A job whose turn has begun, and whose deficit covers its first lent frame, keeps its turn. -/
theorem drrPick_of_started {quantum : Nat → Nat} {q : List Desc} {n : Nat} {e : DrrEntry} {es : List DrrEntry} {ts : List Nat}
    (he : e.started = true) (hx : q.find? (fun y => y.job == e.job && y.cls < 0x80) = some x) (hb : x.frame.bytes ≤ e.deficit) :
    drrPick quantum q (n + 1) (e :: es) ts = (some x, e :: es, ts) := by
  simp [drrPick, hx, he, hb]

theorem updLane_eq_self {f : Lane → Lane} (h : f (s.lane d) = s.lane d) : s.updLane d f = s := by
  have hp : (s.plane (planeOf d)).updLane (laneIn d) f = s.plane (planeOf d) := by
    unfold Plane.updLane
    rw [show f (s.plane (planeOf d)).lanes[laneIn d] = (s.plane (planeOf d)).lanes[laneIn d] from h, Fin.getElem_fin,
      Vector.set_getElem_self]
  rw [State.updLane, State.updPlane, hp, setPlane_self]

/-- The lent frame of the job whose turn it is goes to the shaper where the gate lets it, and is held, once marked, where not. -/
theorem State.egressSelect_lent {e : DrrEntry} {es : List DrrEntry} (hup : (s.lane d).st = .up) (hc : s.chosen d = none)
    (hs : servingPick (s.lane d).egress = none) (hw : s.laneOwner d = 2 → (s.plane (planeOf d)).window = false)
    (hdrr : (s.lane d).drr = e :: es) (he : e.started = true)
    (hx : (s.lane d).egress.find? (fun y => y.job == e.job && y.cls < 0x80) = some x) (hb : x.frame.bytes ≤ e.deficit) :
    s.egressSelect d = if s.gateAllows d x.frame.len then s.shape d x else if x.held then s
      else (s.laneCtr d .gateHold).updLane d fun l => l.mark x { x with held := true } := by
  have hself : (s.updLane d fun l => { l with drr := e :: es }) = s := updLane_eq_self (by rw [← hdrr])
  have hopen : (s.laneOwner d = 2 && (s.plane (planeOf d)).window) = false := by
    simpa using hw
  unfold State.egressSelect
  simp only [hup, hc, hs, hopen, hdrr, drrPick_of_started he hx hb, hself, State.each_nil, bne_self_eq_false, Option.or_none, if_false,
    Bool.false_eq_true]

end

end Sys2Proof.Machine

section
open Sys2Proof Sys2Proof.Machine

/-- Settles O37, by which frame the shaper chooses: one that waits for tokens, a serving one, or the lent one whose turn it is. -/
theorem egressSendsServingFirst : Obligations.EgressSendsServingFirst := by
  intro d s hup
  refine ⟨fun x hx hl => ⟨fun hb => ⟨_, rfl, ?_⟩, fun hb => ⟨_, rfl, ?_⟩⟩, fun hc => ⟨fun x hx hl => ⟨fun hb => ⟨_, rfl, ?_⟩,
    fun hb hw => ⟨_, rfl, ?_⟩⟩, fun hs ho hw => ⟨_, rfl, State.egressSelect_window hup hc hs ho hw⟩,
    fun e es x hs hw hdrr he hx hb hl => ⟨fun hg ht => ⟨_, rfl, ?_⟩, fun hg hh => ⟨_, rfl, ?_⟩⟩⟩⟩
  · rw [State.egressSelect_chosen hup hx]
    exact State.shape_starts hl hb
  · rw [State.egressSelect_chosen hup hx]
    exact State.shape_waits hl hb (State.chosen_waited hx)
  · rw [State.egressSelect_serving hup hc hx]
    exact State.shape_starts hl hb
  · rw [State.egressSelect_serving hup hc hx]
    exact State.shape_marks hl hb hw
  · rw [State.egressSelect_lent hup hc hs hw hdrr he hx hb, if_pos hg]
    exact State.shape_starts hl ht
  · rw [State.egressSelect_lent hup hc hs hw hdrr he hx hb, if_neg (by simp [hg]), if_neg (by simp [hh])]
    exact s.laneCtr_mark d .gateHold x _

end

/-! ## Lanes and engines (R213, R225 to R234)

What the updates of lanes and engines leave of one another, and the rows that act where the lane layer of a plane runs. -/

namespace Sys2Proof.Machine

/-! ### Lanes and engines after an update -/

theorem lane_updLane (s : State) (d y : DevLane) (f : Lane → Lane) :
    (s.updLane d f).lane y = if y = d then f (s.lane d) else s.lane y := by
  split
  · next h => rw [h, lane_updLane_same]
  · next h =>
    unfold State.lane State.updLane
    rw [plane_updPlane]
    split
    · next hp =>
      have hl : laneIn d ≠ laneIn y := fun hl => h (by rw [← devLane_planeOf_laneIn y, ← devLane_planeOf_laneIn d, hp, hl])
      rw [Plane.updLane_getElem, if_neg hl, hp]
    · rfl

@[simp] theorem State.report_lane (s : State) (code st job : Nat) (pm : Byte) (pl : List Byte) (d : DevLane) :
    (s.report code st job pm pl).lane d = s.lane d := by simp [State.lane]

/-- A report waits in the queue with the payload it was posted with (R292). -/
theorem State.report_posts (s : State) (code st job : Nat) (pm : Byte) (pl : List Byte) :
    ∃ r ∈ (s.report code st job pm pl).host.reports, r.opcode = code ∧ r.payload = pl := by
  unfold State.report
  dsimp only
  split
  · exact ⟨_, List.mem_append_right _ (List.mem_singleton_self _), rfl, rfl⟩
  · rw [State.setErrsum_reports]
    exact ⟨_, List.mem_append_right _ (List.mem_singleton_self _), rfl, rfl⟩

/-- An event of a lane or an engine acts where the lane layer of its plane runs. -/
theorem State.onLinks_runs {i : Instr} {s : State} {k : PlaneIx} {f : State → State} {P : State → Prop} (hk : (s.plane k).linksRun = true)
    (h : P (f s)) (hx : exec i s = s.onLinks k f) : Runs i s P :=
  ⟨f s, hx.trans (congrArg Host.Outcome.next (if_pos hk)), h⟩

theorem State.Sends.engine {s t : State} (h : s.Sends t) (e : Fin 16) : t.engine e = s.engine e := by
  unfold State.engine
  rw [h.plane]

theorem State.Sends.cnt {s t : State} (h : s.Sends t) (k : PlaneIx) : (t.plane k).cnt = (s.plane k).cnt := by rw [h.plane]

@[simp] theorem engine_updEngine_same (s : State) (e : Fin 16) (f : Engine → Engine) : (s.updEngine e f).engine e = f (s.engine e) := by
  simp [State.updEngine, State.engine]

/-- A lane where the planes keep their lanes. -/
theorem lane_congr {s t : State} {d : DevLane} (h : (t.plane (planeOf d)).lanes = (s.plane (planeOf d)).lanes) : t.lane d = s.lane d := by
  rw [State.lane, h, State.lane]

theorem lane_updPlane (s : State) (k : PlaneIx) {f : Plane → Plane} (hf : ∀ p, (f p).lanes = p.lanes) (d : DevLane) :
    (s.updPlane k f).lane d = s.lane d :=
  lane_congr <| by
    rw [plane_updPlane]
    split
    · next h => rw [h, hf]
    · rfl

@[simp] theorem lane_updEngine (s : State) (e : Fin 16) (f : Engine → Engine) (d : DevLane) : (s.updEngine e f).lane d = s.lane d := by
  unfold State.updEngine
  refine lane_updPlane s _ (fun _ => ?_) d
  rfl

theorem laneEngine_eq_of_mem {d : DevLane} {e : Fin 16} (h : d ∈ engineLanes e) : laneEngine d = e :=
  Fin.ext (by simpa [laneEngine] using (List.mem_filter.1 h).2)

theorem planeOf_eq_of_mem {d : DevLane} {e : Fin 16} (h : d ∈ engineLanes e) : planeOf d = enginePlane e := by
  obtain rfl := laneEngine_eq_of_mem h
  exact Fin.ext (by simp only [planeOf, enginePlane, laneEngine]; omega)

theorem mem_engineLanes_laneEngine (d : DevLane) : d ∈ engineLanes (laneEngine d) :=
  List.mem_filter.2 ⟨List.mem_finRange d, by simp [laneEngine]⟩

theorem engineLanes_nodup (e : Fin 16) : (engineLanes e).Nodup := (List.nodup_finRange 128).filter _

/-! ### Steps over lanes, each of which changes only its own -/

section
variable {β : Type} {φ : Lane → β} {f : State → DevLane → State} (hf : ∀ s d y, y ≠ d → φ ((f s d).lane y) = φ (s.lane y))
include hf

theorem State.each_lane_of_notMem {y : DevLane} : ∀ {l : List DevLane}, y ∉ l → ∀ s : State, φ ((s.each l f).lane y) = φ (s.lane y)
  | [], _, _ => rfl
  | a :: l, h, s => by
    obtain ⟨ha, hl⟩ := not_or.1 (mt List.mem_cons.2 h)
    rw [State.each_cons, State.each_lane_of_notMem hl, hf _ _ _ ha]

/-- What stands at a lane in the end is what its own step made of what stood there at first. -/
theorem State.each_lane_of_mem {d : DevLane} : ∀ {l : List DevLane}, l.Nodup → d ∈ l → ∀ s : State,
    ∃ u : State, φ (u.lane d) = φ (s.lane d) ∧ φ ((s.each l f).lane d) = φ ((f u d).lane d)
  | a :: l, hn, hd, s => by
    obtain ⟨ha, hl⟩ := List.nodup_cons.1 hn
    obtain rfl | hd := List.mem_cons.1 hd
    · exact ⟨s, rfl, State.each_lane_of_notMem hf ha _⟩
    · obtain ⟨u, hu, he⟩ := State.each_lane_of_mem hl hd (f s a)
      exact ⟨u, hu.trans (hf _ _ _ fun h => ha (h ▸ hd)), he⟩

end

end Sys2Proof.Machine

/-! ## Bring-up of lanes (R220, R223, R224, R230, R233) -/

namespace Sys2Proof.Machine

/-! ### Lock -/

theorem State.trainErrs_sends (s : State) (d : DevLane) (n : Nat) : s.Sends (s.trainErrs d n) := by
  unfold State.trainErrs
  split
  · exact .refl s
  · exact .updLane ..

/-- Errored blocks are counted and leave the rest of every lane (R234). -/
theorem State.trainErrs_lane (s : State) (d : DevLane) (n : Nat) (y : DevLane) :
    (s.trainErrs d n).lane y = { s.lane y with ctrs := ((s.trainErrs d n).lane y).ctrs } := by
  unfold State.trainErrs
  split
  · rfl
  · rw [State.laneCtr, lane_updLane]
    split
    · next h => rw [h]
    · rfl

/-- The state in which lane `d` has lock and its far end's identity, before the order and the checks of R222 and R223. -/
def State.heard (s : State) (d : DevLane) (t : TrainInfo) : State :=
  (s.trainErrs d t.errs).updLane d fun l => { l.keepIdentity t with plock := true, feclock := true, clk := true }

theorem State.heard_sends (s : State) (d : DevLane) (t : TrainInfo) : s.Sends (s.heard d t) :=
  (s.trainErrs_sends ..).trans (.updLane ..)

theorem State.heard_lane (s : State) (d : DevLane) (t : TrainInfo) :
    (s.heard d t).lane d = { (s.lane d).keepIdentity t with
      plock := true, feclock := true, clk := true, ctrs := ((s.trainErrs d t.errs).lane d).ctrs } := by
  rw [State.heard, lane_updLane_same, State.trainErrs_lane]
  rfl

theorem State.heard_st (s : State) (d : DevLane) (t : TrainInfo) (y : DevLane) : ((s.heard d t).lane y).st = (s.lane y).st := by
  rw [State.heard, lane_updLane]
  split
  · next h => rw [h, State.trainErrs_lane]; rfl
  · rw [State.trainErrs_lane]

theorem State.Sends.echoPasses {s u : State} (h : s.Sends u) (d : DevLane) (t : TrainInfo) : u.echoPasses d t = s.echoPasses d t := by
  rw [h.planes]; rfl

theorem State.Sends.wired {s u : State} (h : s.Sends u) (d : DevLane) (t : TrainInfo) : u.wired d t = s.wired d t := by
  have hi : u.identityOk d t = s.identityOk d t := by rw [h.planes]; rfl
  unfold State.wired
  rw [hi, h.echoPasses, h.plane]

theorem State.setOrder_of_set {s : State} {d : DevLane} (h : (s.engine (laneEngine d)).orderSet = true) (t : TrainInfo) :
    s.setOrder d t = (false, s) := by
  unfold State.setOrder
  dsimp only
  split
  · rw [if_neg (by simp [h])]
  · rfl

/-- Lock on a lane in training whose engine's order is fixed: the identity and the echo decide (R220, R223). -/
theorem State.patternLock_of_ordered {s : State} {d : DevLane} (hst : (s.lane d).st = .training)
    (ho : (s.engine (laneEngine d)).orderSet = true) (t : TrainInfo) :
    s.patternLock d t = if s.wired d t = true
      then (s.heard d t).updLane d fun l =>
        { l with echoOk := s.echoPasses d t, ready := l.ready && s.echoPasses d t, noEcho := l.noEcho && !s.echoPasses d t }
      else (((s.heard d t).updLane d fun l => { l with echoOk := false, ready := false }).setLane d .miswired id).miswiredReport d t := by
  have hu := s.heard_sends d t
  have hl : ((s.heard d t).lane d).st = .training := (s.heard_st d t d).trans hst
  have hs : (s.heard d t).setOrder d t = (false, s.heard d t) := State.setOrder_of_set (by rw [hu.engine, ho]) t
  unfold State.patternLock
  rw [if_neg (by simp [hst, LState.trains])]
  extract_lets u
  rw [show u = s.heard d t from rfl, hs]
  simp [hu.wired, hu.echoPasses, hl]

/-! ### Light -/

theorem State.lightIn_lit {s : State} {d : DevLane} (hd : (s.lane d).st ≠ .disabled) (hl : (s.lane d).los = true) :
    s.lightIn d =
      let u := s.updLane d fun l => { l with los := false, lightAt := (s.plane (planeOf d)).cnt, clk := (s.lane d).st != .dormant }
      if (s.lane d).st = .dark then u.setLane d .training id else u := by
  unfold State.lightIn
  exact if_neg (by simp [hd, hl])

theorem State.lightIn_sends (s : State) (d : DevLane) : s.Sends (s.lightIn d) := by
  unfold State.lightIn
  dsimp only
  split
  · exact .refl s
  · split
    · exact (State.Sends.updLane s d _).trans (.updLane ..)
    · exact .updLane ..

/-- A dormant lane that sees light stays dormant, with its light there (R230). -/
theorem State.lightIn_dormant {s : State} {d : DevLane} (h : (s.lane d).st = .dormant) :
    ((s.lightIn d).lane d).st = .dormant ∧ ((s.lightIn d).lane d).los = false := by
  by_cases hl : (s.lane d).los = true
  · rw [State.lightIn_lit (by simp [h]) hl]
    simp [h]
  · have : s.lightIn d = s := if_pos (by simp [hl])
    rw [this]
    exact ⟨h, by simpa using hl⟩

/-! ### The rows -/

section
variable {d : DevLane} {x : TrainInfo} {s : State} (hk : (s.plane (planeOf d)).linksRun = true)
include hk

theorem patternLock_trains (hst : (s.lane d).st = .training) (ho : (s.engine (laneEngine d)).orderSet = true) (hw : s.wired d x = true) :
    Runs (.patternLock d x) s fun t => t = { s with planes := t.planes } ∧ (t.lane d).plock = true ∧
      (t.lane d).farid1 = x.b1 ∧ (t.lane d).farid2 = x.b2 ∧ (t.lane d).echoOk = s.echoPasses d x ∧
      (t.lane d).ready = ((s.lane d).ready && s.echoPasses d x) ∧ (t.lane d).st = .training := by
  refine State.onLinks_runs (f := fun s => s.patternLock d x) hk ?_ rfl
  rw [State.patternLock_of_ordered hst ho, if_pos hw]
  refine ⟨((s.heard_sends d x).trans (.updLane ..)).planes, ?_⟩
  rw [lane_updLane_same, State.heard_lane]
  exact ⟨rfl, rfl, rfl, rfl, rfl, hst⟩

/-- A lane wired wrong is reported with the identity it heard (R223, R294). -/
theorem patternLock_miswired (hst : (s.lane d).st = .training) (ho : (s.engine (laneEngine d)).orderSet = true) (hw : s.wired d x = false) :
    Runs (.patternLock d x) s fun t => (t.lane d).st = .miswired ∧ (t.lane d).ready = false ∧
      ∃ r ∈ t.host.reports, r.opcode = 0xF007 ∧
        r.payload = leBytes 1 d.val ++ [x.b1, x.b2] ++ zeros 5 ++ leBytes 8 (t.lane d).lchange := by
  refine State.onLinks_runs (f := fun s => s.patternLock d x) hk ?_ rfl
  rw [State.patternLock_of_ordered hst ho, if_neg (by simp [hw]), State.miswiredReport, State.report_lane, lane_setLane_same, lane_updLane_same]
  exact ⟨rfl, rfl, State.report_posts ..⟩

/-- Errored blocks are counted, and the 100 µs start again (R220, R234). -/
theorem patternLockLost_restarts (n : Nat) (hst : (s.lane d).st.trains = true) :
    Runs (.patternLockLost d n) s fun t => t = { s with planes := t.planes } ∧ (t.lane d).plock = false ∧
      (t.lane d).ready = false ∧ (t.lane d).st = (s.lane d).st ∧
      ctrGet (t.lane d).ctrs .trainErr = satAdd 32 (ctrGet (s.lane d).ctrs .trainErr) n := by
  refine State.onLinks_runs hk ?_ rfl
  rw [if_pos hst, lane_updLane_same, State.laneCtr, lane_updLane_same]
  exact ⟨rfl, rfl, rfl, rfl, ctrGet_ctrAdd_same ..⟩

theorem lightReturn_trains (hst : (s.lane d).st = .dark) (hl : (s.lane d).los = true) :
    Runs (.lightReturn d) s fun t => t = { s with planes := t.planes } ∧ (t.lane d).st = .training ∧
      (t.lane d).los = false ∧ (t.lane d).lightAt = (s.plane (planeOf d)).cnt := by
  refine State.onLinks_runs (f := fun s => s.lightIn d) hk ?_ rfl
  rw [State.lightIn_lit (by simp [hst]) hl]
  dsimp only
  rw [if_pos hst, lane_setLane_same, lane_updLane_same]
  exact ⟨rfl, rfl, rfl, rfl⟩

theorem dormantWakeLight_wakes (hst : (s.lane d).st = .dormant) :
    Runs (.dormantWakeLight d) s fun t => t = { s with planes := t.planes } ∧ (t.lane d).st = .training ∧ (t.lane d).laserOn = true := by
  refine State.onLinks_runs hk ?_ rfl
  obtain ⟨hd, hl⟩ := State.lightIn_dormant hst
  rw [if_pos hst, State.wakeLane, if_pos hd]
  refine ⟨((s.lightIn_sends d).trans (.updLane ..)).planes, ?_⟩
  rw [lane_setLane_same, Lane.retrain, hl]
  exact ⟨rfl, rfl⟩

theorem readyTimerExpiry_readies (hst : (s.lane d).st = .training) (hp : (s.lane d).plock = true) (he : (s.lane d).echoOk = true) :
    Runs (.readyTimerExpiry d) s fun t => t = { s with planes := t.planes } ∧ t.lane d = { s.lane d with ready := true } := by
  refine State.onLinks_runs hk ?_ rfl
  rw [if_pos (by simp [hst, hp, he])]
  exact ⟨rfl, lane_updLane_same ..⟩

theorem noechoTimeout_marks (hst : (s.lane d).st = .training) (hp : (s.lane d).plock = true) (he : (s.lane d).echoOk = false) :
    Runs (.noechoTimeout d) s fun t => t = { s with planes := t.planes } ∧ t.lane d = { s.lane d with noEcho := true } := by
  refine State.onLinks_runs hk ?_ rfl
  rw [if_pos (by simp [hst, hp, he, LState.trains])]
  exact ⟨rfl, lane_updLane_same ..⟩

theorem downHoldoffExpiry_ends :
    Runs (.downHoldoffExpiry d) s fun t => t = { s with planes := t.planes } ∧ t.lane d = { s.lane d with holdoff := false } :=
  State.onLinks_runs (f := fun s => s.updLane d fun l => { l with holdoff := false }) hk ⟨rfl, lane_updLane_same ..⟩ rfl

/-- `READY` at both ends is `UP`, reported (R220, R226, R294). -/
theorem laneUp_ups (hst : (s.lane d).st = .training) (hp : (s.lane d).plock = true) (hr : (s.lane d).ready = true)
    (he : (s.lane d).echoOk = true) (hb : x.b1.getLsbD 7 = true) (hh : (s.lane d).holdoff = false) :
    Runs (.laneUp d x) s fun t => (t.lane d).st = .up ∧ (t.lane d).lchange = (s.plane (planeOf d)).cnt ∧
      ∃ r ∈ t.host.reports, r.opcode = 0xF006 := by
  refine State.onLinks_runs (f := fun s => s.bringUp d x) hk ?_ rfl
  have hl := s.trainErrs_lane d x.errs d
  unfold State.bringUp
  extract_lets u l us v
  have hgo : (l.st = .training && l.ready && l.plock && l.echoOk && x.b1.getLsbD 7 && !l.holdoff) = true := by
    have : l = { s.lane d with ctrs := l.ctrs } := hl
    rw [this]
    simp [hst, hp, hr, he, hb, hh]
  rw [if_pos hgo, State.report_lane]
  refine ⟨by simp [v], ?_, ?_⟩
  · rw [lane_setLane_same]
    exact (s.trainErrs_sends d x.errs).cnt _
  · obtain ⟨r, hr, hop, -⟩ := State.report_mem ..
    exact ⟨r, hr, hop⟩

end

end Sys2Proof.Machine

section
open Sys2Proof Sys2Proof.Machine

/-- Settles O41: light, lock, the timers and `READY` each have their own effect on the lane. -/
theorem lanesTrainToUp : Obligations.LanesTrainToUp := by
  intro d x n s hk l
  exact ⟨⟨lightReturn_trains hk, dormantWakeLight_wakes hk⟩,
    fun hst ho => ⟨patternLock_trains hk hst ho, patternLock_miswired hk hst ho⟩,
    fun hst hp => ⟨readyTimerExpiry_readies hk hst hp, noechoTimeout_marks hk hst hp, laneUp_ups hk hst hp⟩,
    patternLockLost_restarts hk n, downHoldoffExpiry_ends hk⟩

end

/-! ## Engines: polarity and order (R221, R222) -/

namespace Sys2Proof.Machine

theorem State.Sends.corrector {s u : State} (h : s.Sends u) (d : DevLane) : u.corrector d = s.corrector d := by rw [h.planes]; rfl

theorem State.Sends.echoLane {s u : State} (h : s.Sends u) (d : DevLane) (t : TrainInfo) : u.echoLane d t = s.echoLane d t := by
  rw [h.planes]; rfl

theorem State.laneCtr_lane_other (s : State) {d y : DevLane} (h : y ≠ d) (c : LCtr) (n : Nat) : (s.laneCtr d c n).lane y = s.lane y := by
  rw [State.laneCtr, lane_updLane, if_neg h]

theorem State.lightIn_lane_other (s : State) {d y : DevLane} (h : y ≠ d) : (s.lightIn d).lane y = s.lane y := by
  unfold State.lightIn
  dsimp only
  split
  · rfl
  · split
    · rw [State.setLane, lane_updLane, if_neg h, lane_updLane, if_neg h]
    · rw [lane_updLane, if_neg h]

/-- A first echo from the mirrored position reverses the receive order of an engine of which no lane is `UP`, and its lanes train anew (R222). -/
theorem State.setOrder_mirrored {s : State} {d : DevLane} {t : TrainInfo} (hup : ∀ y ∈ engineLanes (laneEngine d), (s.lane y).st ≠ .up)
    (hc : s.corrector d = true) (ho : (s.engine (laneEngine d)).orderSet = false)
    (he : s.echoLane d t = some (8 * ((laneIn d).val / 8) + (7 - (laneIn d).val % 8))) :
    s.setOrder d t = (true, (s.updEngine (laneEngine d) fun x => { x with orderSet := true, rxRev := !x.rxRev }).each
      (engineLanes (laneEngine d)) fun s d => s.updLane d Lane.breakLock) := by
  have hall : (engineLanes (laneEngine d)).all (fun x => (s.lane x).st != .up) = true := List.all_eq_true.2 fun y hy => by simpa using hup y hy
  have hdiv : (8 * ((laneIn d).val / 8) + (7 - (laneIn d).val % 8)) / 8 = (laneIn d).val / 8 := by omega
  have hmod : (8 * ((laneIn d).val / 8) + (7 - (laneIn d).val % 8)) % 8 = 7 - (laneIn d).val % 8 := by omega
  have hne : 7 - (laneIn d).val % 8 ≠ (laneIn d).val % 8 := by omega
  unfold State.setOrder
  simp [he, hdiv, hmod, hne, ho, hall, hc]

section
variable {e : Fin 16} {s : State} (hk : (s.plane (enginePlane e)).linksRun = true)
include hk

/-- The corrector of a dark engine changes its polarity, counted on each of its lanes (R221). -/
theorem polarityFlip_flips (hd : ∀ d ∈ engineLanes e, (s.lane d).los = true ∧ (s.lane d).st ≠ .up ∧ s.corrector d = true)
    (hf : (s.engine e).flipping = false) :
    Runs (.polarityFlip e) s fun t => t = { s with planes := t.planes } ∧ (t.engine e).polSwap = !(s.engine e).polSwap ∧
      (t.engine e).flipping = true ∧
      ∀ d ∈ engineLanes e, ctrGet (t.lane d).ctrs .polFlip = satAdd 32 (ctrGet (s.lane d).ctrs .polFlip) 1 := by
  have hall : (engineLanes e).all (fun d => (s.lane d).los && (s.lane d).st != .up && s.corrector d) = true :=
    List.all_eq_true.2 fun d h => by simpa [and_assoc] using hd d h
  refine State.onLinks_runs (f := fun s => s.flipPolarity e) hk ?_ rfl
  unfold State.flipPolarity
  extract_lets ls u
  rw [if_pos (by simp only [ls, hall, hf]; rfl)]
  have hs : u.Sends (u.each ls fun s d => s.laneCtr d .polFlip) := .each (fun s d => .updLane ..) _ _
  refine ⟨hs.planes, by rw [hs.engine]; simp [u], by rw [hs.engine]; simp [u], fun d h => ?_⟩
  obtain ⟨v, hv, ht⟩ := State.each_lane_of_mem (φ := fun l => l) (fun s d y h => s.laneCtr_lane_other h .polFlip 1) (engineLanes_nodup e) h u
  rw [ht, State.laneCtr, lane_updLane_same, ctrGet_ctrAdd_same, hv, lane_updEngine]

/-- The receivers that a flip lit train; those it left dark stay so (R221). -/
theorem polarityFlipDone_lights (lit : BitVec 8) (hf : (s.engine e).flipping = true) :
    Runs (.polarityFlipDone e lit) s fun t => t = { s with planes := t.planes } ∧
      (t.engine e).flipping = false ∧ (t.engine e).polSwap = (s.engine e).polSwap ∧
      ∀ d ∈ engineLanes e, (s.lane d).los = true → (s.lane d).st = .dark →
        (t.lane d).st = if lit.getLsbD (d.val % 8) then .training else .dark := by
  refine State.onLinks_runs (f := fun s => s.flipDone e lit) hk ?_ rfl
  unfold State.flipDone
  rw [if_neg (by simp [hf])]
  extract_lets u
  have hs : u.Sends (u.each ((engineLanes e).filter fun d => lit.getLsbD (d.val % 8)) fun s d => s.lightIn d) :=
    .each (fun s d => s.lightIn_sends d) _ _
  refine ⟨hs.planes, by rw [hs.engine]; simp [u], by rw [hs.engine]; simp [u], fun d h hl hd => ?_⟩
  have other (s : State) (d y : DevLane) (h : y ≠ d) := s.lightIn_lane_other h
  split
  · next hlit =>
    have hm : d ∈ (engineLanes e).filter fun d => lit.getLsbD (d.val % 8) := List.mem_filter.2 ⟨h, hlit⟩
    obtain ⟨v, hv, ht⟩ := State.each_lane_of_mem (φ := fun l => l) other ((engineLanes_nodup e).filter _) hm u
    have hv' : v.lane d = s.lane d := hv.trans (lane_updEngine ..)
    rw [ht, State.lightIn_lit (by simp [hv', hd]) (by rw [hv', hl])]
    simp [hv', hd]
  · next hlit =>
    rw [State.each_lane_of_notMem (φ := fun l => l) other (fun hm => hlit (List.mem_filter.1 hm).2), lane_updEngine, hd]

/-- With every lane of the engine down the order is evaluated afresh (R222). -/
theorem engineReevaluate_unsets (hup : ∀ d ∈ engineLanes e, (s.lane d).st ≠ .up) :
    Runs (.engineReevaluate e) s fun t => t = { s with planes := t.planes } ∧ t.engine e = { s.engine e with orderSet := false } := by
  refine State.onLinks_runs hk ?_ rfl
  rw [if_pos (List.all_eq_true.2 fun d h => by simpa using hup d h)]
  exact ⟨rfl, engine_updEngine_same ..⟩

theorem patternLock_reverses {d : DevLane} (x : TrainInfo) (hd : d ∈ engineLanes e) (hup : ∀ y ∈ engineLanes e, (s.lane y).st ≠ .up)
    (hst : (s.lane d).st = .training) (hc : s.corrector d = true) (ho : (s.engine e).orderSet = false)
    (he : s.echoLane d x = some (8 * ((laneIn d).val / 8) + (7 - (laneIn d).val % 8))) :
    Runs (.patternLock d x) s fun t => t = { s with planes := t.planes } ∧
      t.engine e = { s.engine e with orderSet := true, rxRev := !(s.engine e).rxRev } ∧
      ∀ y ∈ engineLanes e, (t.lane y).plock = false ∧ (t.lane y).ready = false := by
  obtain rfl := laneEngine_eq_of_mem hd
  have hu := s.heard_sends d x
  have hrev := State.setOrder_mirrored (s := s.heard d x) (fun y hy => by rw [State.heard_st]; exact hup y hy)
    ((hu.corrector d).trans hc) (by rw [hu.engine, ho]) ((hu.echoLane d x).trans he)
  refine State.onLinks_runs (f := fun s => s.patternLock d x) (by rw [planeOf_eq_of_mem hd]; exact hk) ?_ rfl
  unfold State.patternLock
  rw [if_neg (by simp [hst, LState.trains])]
  extract_lets u
  rw [show u = s.heard d x from rfl, hrev]
  simp only [if_true]
  set v := (s.heard d x).updEngine (laneEngine d) _
  have hs : v.Sends (v.each (engineLanes (laneEngine d)) fun s d => s.updLane d Lane.breakLock) := .each (fun s d => .updLane ..) _ _
  refine ⟨hs.planes.trans ?_, by rw [hs.engine, engine_updEngine_same, hu.engine], fun y hy => ?_⟩
  · rw [show v = { s.heard d x with planes := v.planes } from rfl, hu.planes]
  · obtain ⟨w, -, ht⟩ := State.each_lane_of_mem (φ := fun l => l) (f := fun s d => s.updLane d Lane.breakLock)
      (fun s d y h => by rw [lane_updLane, if_neg h]) (engineLanes_nodup _) hy v
    rw [ht, lane_updLane_same]
    exact ⟨rfl, rfl⟩

end

end Sys2Proof.Machine

section
open Sys2Proof Sys2Proof.Machine

/-- Settles O42: a flip and its end, the order evaluated afresh, and the mirrored echo. -/
theorem enginesCorrectPolarityAndOrder : Obligations.EnginesCorrectPolarityAndOrder := by
  intro e lit s hk
  exact ⟨polarityFlip_flips hk, polarityFlipDone_lights hk lit, engineReevaluate_unsets hk, fun d => patternLock_reverses hk⟩

end

/-! ## A lane that is not `UP` takes nothing in (R193, R226)

Frames placed while a lane goes down may be meant for it.  `State.Bars` says once, of every operation that the loss of a lane brings, that such
a frame is dropped and counted, and enters no queue. -/

namespace Sys2Proof.Machine

/-! ### The relation -/

/-- `l'` is `l` later: what came for a lane that is not `UP` has moved its counters of drops, and no queue. -/
structure Lane.Bars (l l' : Lane) : Prop where
  st : l'.st = l.st
  queues : l.st ≠ .up → l'.egress = l.egress ∧ l'.egWait = l.egWait
  ctr : ∀ c, c ≠ .peerDrop → c ≠ .downDrop → ctrGet l'.ctrs c = ctrGet l.ctrs c

/-- Every lane that is not `UP` has taken nothing in between `s` and `t`. -/
structure State.Bars (s t : State) : Prop where
  lane : ∀ d, (s.lane d).Bars (t.lane d)

theorem Lane.Bars.refl (l : Lane) : l.Bars l := ⟨rfl, fun _ => ⟨rfl, rfl⟩, fun _ _ _ => rfl⟩

theorem Lane.Bars.trans {l m n : Lane} (h : l.Bars m) (g : m.Bars n) : l.Bars n := by
  refine ⟨g.st.trans h.st, fun hup => ?_, fun c h1 h2 => (g.ctr c h1 h2).trans (h.ctr c h1 h2)⟩
  obtain ⟨he, hw⟩ := h.queues hup
  obtain ⟨ge, gw⟩ := g.queues (by rwa [h.st])
  exact ⟨ge.trans he, gw.trans hw⟩

theorem State.Bars.refl (s : State) : s.Bars s := ⟨fun _ => .refl _⟩

theorem State.Bars.trans {s t u : State} (h : s.Bars t) (g : t.Bars u) : s.Bars u := ⟨fun d => (h.lane d).trans (g.lane d)⟩

theorem State.Bars.each {α : Type} {f : State → α → State} (h : ∀ (s : State) a, s.Bars (f s a)) : ∀ (l : List α) (s : State),
    s.Bars (s.each l f)
  | [], s => .refl s
  | a :: l, s => (h s a).trans (State.Bars.each h l (f s a))

/-- What leaves the planes' lanes as they are. -/
theorem State.Bars.beside {s t : State} (h : ∀ q, (t.plane q).lanes = (s.plane q).lanes) : s.Bars t :=
  ⟨fun d => by rw [lane_congr (h (planeOf d))]; exact .refl _⟩

theorem State.Bars.updPlane (s : State) (k : PlaneIx) {f : Plane → Plane} (h : ∀ p, (f p).lanes = p.lanes) : s.Bars (s.updPlane k f) :=
  ⟨fun d => by rw [lane_updPlane s k h]; exact .refl _⟩

theorem State.Bars.updPJob (s : State) (k : PlaneIx) (id : Nat) (f : PJob → PJob) : s.Bars (s.updPJob k id f) := .updPlane s k fun _ => rfl

theorem State.Bars.updLane (s : State) (d : DevLane) {f : Lane → Lane} (h : (s.lane d).Bars (f (s.lane d))) : s.Bars (s.updLane d f) where
  lane y := by
    rw [lane_updLane]
    split
    · next e => rw [e]; exact h
    · exact .refl _

theorem State.report_bars (s : State) (code st job : Nat) (pm : Byte) (pl : List Byte) : s.Bars (s.report code st job pm pl) :=
  .beside fun q => by rw [State.report_plane]

theorem State.planeCtr_bars (s : State) (k : PlaneIx) (c : PCtr) (n : Nat) : s.Bars (s.planeCtr k c n) := .updPlane s k fun _ => rfl

/-! ### Sending -/

/-- A frame for a lane that is down is counted where it is dropped. -/
theorem State.laneCtr_bars (s : State) (d : DevLane) {c : LCtr} (hc : c = .peerDrop ∨ c = .downDrop) (n : Nat) : s.Bars (s.laneCtr d c n) :=
  .updLane s d ⟨rfl, fun _ => ⟨rfl, rfl⟩, fun x h1 h2 => ctrGet_ctrAdd_other _ _ (by rintro rfl; exact hc.elim h1 h2)⟩

theorem Lane.push_ctrs (l : Lane) (x : Desc) : (l.push x).ctrs = l.ctrs := by
  unfold Lane.push Lane.joinDrr
  split
  · split <;> rfl
  · rfl

theorem State.place_bars (s : State) (k : PlaneIx) (l : LaneIx) (x : Desc) : s.Bars (s.place k l x) := by
  unfold State.place
  dsimp only
  split
  · exact s.laneCtr_bars _ (.inl rfl) 1
  · split
    · exact s.laneCtr_bars _ (.inr rfl) 1
    · next h => exact .updLane s _ ⟨Lane.push_st .., fun hup => absurd (by simpa using hup) h, fun _ _ _ => by rw [Lane.push_ctrs]⟩

theorem State.enqueue_bars (s : State) (k : PlaneIx) (l : LaneIx) (x : Desc) : s.Bars (s.enqueue k l x) := by
  unfold State.enqueue
  split
  · exact .updPlane s k fun _ => rfl
  · exact s.place_bars k l x

theorem State.toDevice_bars (s : State) (k : PlaneIx) (j : Job) (dev : Nat) (f : Frame) (b : Nat) (m : Bool) (kp : Keep) :
    s.Bars (s.toDevice k j dev f b m kp) := by
  unfold State.toDevice
  split
  · exact .refl s
  · exact s.enqueue_bars ..

theorem State.toLocal_bars (s : State) (k : PlaneIx) (j : Job) (pj : PJob) (ms : List Nat) (f : Frame) (kp : Keep) :
    s.Bars (s.toLocal k j pj ms f kp) :=
  .each (fun s _ => s.enqueue_bars ..) _ s

theorem State.status_bars (s : State) (lane : DevLane) (src : Frame) (st : Status) (retry gen layer : Nat) :
    s.Bars (s.status lane src st retry gen layer) := by
  unfold State.status State.replyTo
  dsimp only
  split
  · split
    · exact s.toDevice_bars ..
    · exact s.enqueue_bars ..
  · exact s.enqueue_bars ..

theorem State.replicatorFuel_bars (k : PlaneIx) (n : Nat) (s : State) : s.Bars (State.replicatorFuel k n s) := by
  induction n generalizing s with
  | zero => exact .refl s
  | succ n ih =>
    unfold State.replicatorFuel
    split
    · exact .refl s
    · split
      · exact .refl s
      · have hq (q : StageQ) : s.Bars (s.updPlane k fun p => { p with qPublish := q }) := .updPlane s k fun _ => rfl
        dsimp only
        split
        · exact (hq _).trans (ih _)
        · exact (hq _).trans ((State.place_bars ..).trans (ih _))

theorem State.replicator_bars (s : State) (k : PlaneIx) : s.Bars (s.replicator k) :=
  (State.replicatorFuel_bars k _ s).trans (.updPlane _ k Plane.flow_lanes)

/-! ### Members that are lost -/

/-- `t` is `s` with fences of members recorded and handed to the planes: the host port block stays, and of a plane only the waiting fences
differ (R155). -/
structure State.Fences (s t : State) : Prop where
  host : t.host = s.host
  plane : ∀ q, t.plane q = { s.plane q with fenceQ := (t.plane q).fenceQ }

theorem State.Fences.refl (s : State) : s.Fences s := ⟨rfl, fun _ => rfl⟩

theorem State.Fences.trans {s t u : State} (h : s.Fences t) (g : t.Fences u) : s.Fences u :=
  ⟨g.host.trans h.host, fun q => by rw [g.plane, h.plane]⟩

theorem State.Fences.each {α : Type} {f : State → α → State} (h : ∀ (s : State) a, s.Fences (f s a)) : ∀ (l : List α) (s : State),
    s.Fences (s.each l f)
  | [], s => .refl s
  | a :: l, s => (h s a).trans (State.Fences.each h l (f s a))

theorem State.Fences.updPlane (s : State) (k : PlaneIx) {f : Plane → Plane} (h : ∀ p, f p = { p with fenceQ := (f p).fenceQ }) :
    s.Fences (s.updPlane k f) where
  host := rfl
  plane q := by
    rw [plane_updPlane]
    split
    · next e => subst e; exact h _
    · rfl

theorem State.Fences.bars {s t : State} (h : s.Fences t) : s.Bars t := .beside fun q => by rw [h.plane]

theorem State.loseMember_fences (s : State) (id m : Nat) : s.Fences (s.loseMember id m) := by
  unfold State.loseMember
  split
  · exact .refl s
  · split
    · exact .refl s
    · exact State.Fences.trans (t := s.updJob id _) ⟨rfl, fun _ => rfl⟩ (.each (fun s k => .updPlane s k fun _ => rfl) _ _)

/-! ### Norms, notices and rebuilds -/

theorem State.normCheck_bars (s : State) (k : PlaneIx) (id step : Nat) : s.Bars (s.normCheck k id step) := by
  unfold State.normCheck
  split
  · exact .refl s
  · dsimp only
    split
    · unfold State.arith
      refine State.Bars.trans (.updPlane s k fun _ => ?_) (.updPlane _ k fun p => ?_)
      · rfl
      · unfold Plane.pushUp
        split <;> rfl
    · exact .refl s

theorem State.noticeCheck_bars (s : State) (k : PlaneIx) (c : NoticeCopy) (now : Bool) : s.Bars (s.noticeCheck k c now) := by
  unfold State.noticeCheck
  split
  · next j pj _ _ =>
    extract_lets need all u
    have hu : s.Bars u := by
      simp only [u]
      split
      · exact .refl s
      · exact s.toLocal_bars ..
    split
    · exact hu.trans (.updPlane _ k fun _ => rfl)
    · split
      · exact hu.trans (.updPlane _ k fun _ => rfl)
      · exact hu
  · exact .refl s

theorem State.answerGathers_bars (s : State) (k : PlaneIx) (j : Job) (b : Nat) (st : Status) : s.Bars (s.answerGathers k j b st) := by
  unfold State.answerGathers State.takeGathers
  dsimp only
  refine .trans ?_ (.each (fun s x => ?_) _ _)
  · refine .trans (t := s.updPlane k _) (.updPlane s k fun _ => ?_) (.updPlane _ k fun _ => ?_) <;> rfl
  · exact (s.status_bars x.1 x.2 st 0 _ _).trans (State.planeCtr_bars _ k .frmDrop 1)

theorem State.stopShare_bars (s : State) (k : PlaneIx) (j : Job) (pj : PJob) (b devs : Nat) (lost : Bool) :
    s.Bars (s.stopShare k j pj b devs lost) :=
  (State.Bars.updPJob s k _ _).trans ((State.answerGathers_bars ..).trans (State.report_bars ..))

theorem State.restartRebuild_bars (s : State) (k : PlaneIx) (j : Job) (pj : PJob) (b : Nat) (r : Rebuild) :
    s.Bars (s.restartRebuild k j pj b r) := by
  unfold State.restartRebuild
  split
  · exact .refl s
  · split
    · exact s.stopShare_bars ..
    · split
      · exact s.stopShare_bars ..
      · exact (State.Bars.updPJob s k _ _).trans ((State.Bars.updPJob _ k _ _).trans (.each (fun s _ => s.toDevice_bars ..) _ _))

theorem State.sourcesGone_bars (s : State) (k : PlaneIx) (j : Job) : s.Bars (s.sourcesGone k j) := by
  unfold State.sourcesGone
  split
  · exact .refl s
  · refine .each (fun s h => .each (fun s r => ?_) _ s) _ s
    split
    · exact .refl s
    · exact s.restartRebuild_bars ..

/-! ### The loss -/

/-- The lane with its queues emptied, and the frame on its fibre cut off (R193, R226). -/
def State.flushed (s : State) (d : DevLane) : State := ((s.updLane d fun x => { x with egress := [], egWait := [], drr := [] }).cutFibre d).2

theorem State.cutFibre_cut (s : State) (d : DevLane) : (s.cutFibre d).1 = decide ((s.plane (planeOf d)).cnt < (s.lane d).sendEnd) := by
  unfold State.cutFibre
  dsimp only
  split
  · next h => exact (decide_eq_true h).symm
  · next h => exact (decide_eq_false h).symm

/-- Of the state only the lane and what the fibres have carried differ. -/
theorem State.cutFibre_eq (s : State) (d : DevLane) :
    ∃ n o, (s.cutFibre d).2 = { s.updLane d (fun l => { l with sendEnd := n }) with out := o } := by
  unfold State.cutFibre
  dsimp only
  split
  · exact ⟨0, _, rfl⟩
  · refine ⟨(s.lane d).sendEnd, s.out, ?_⟩
    rw [updLane_eq_self rfl]

theorem State.flushed_eq (s : State) (d : DevLane) : ∃ n o, s.flushed d = { (s.updLane d fun x =>
    { x with egress := [], egWait := [], drr := [] }).updLane d (fun l => { l with sendEnd := n }) with out := o } := State.cutFibre_eq ..

theorem State.cutFibre_flushed (s : State) (d : DevLane) : (s.updLane d fun x => { x with egress := [], egWait := [], drr := [] }).cutFibre d =
    (decide ((s.plane (planeOf d)).cnt < (s.lane d).sendEnd), s.flushed d) := by
  refine Prod.ext ?_ rfl
  rw [State.cutFibre_cut, lane_updLane_same, (State.Sends.updLane s d _).cnt]

theorem State.flushed_lane (s : State) (d : DevLane) :
    (s.flushed d).lane d = { s.lane d with egress := [], egWait := [], drr := [], sendEnd := ((s.flushed d).lane d).sendEnd } := by
  obtain ⟨n, o, h⟩ := s.flushed_eq d
  have hl : (s.flushed d).lane d = { s.lane d with egress := [], egWait := [], drr := [], sendEnd := n } := by
    rw [h]
    exact (lane_updLane_same ..).trans (by rw [lane_updLane_same])
  rw [hl]

theorem State.flushed_isPeer (s : State) (d y : DevLane) : (s.flushed d).isPeer y = s.isPeer y := by
  obtain ⟨n, o, h⟩ := s.flushed_eq d
  rw [h]
  rfl

theorem State.flushed_host (s : State) (d : DevLane) : (s.flushed d).host = s.host := by
  obtain ⟨n, o, h⟩ := s.flushed_eq d
  rw [h]
  rfl

theorem State.flushed_jobs (s : State) (d : DevLane) : (s.flushed d).jobs = s.jobs := by
  obtain ⟨n, o, h⟩ := s.flushed_eq d
  rw [h]
  rfl

theorem State.flushed_qPublish (s : State) (d : DevLane) : ((s.flushed d).plane (planeOf d)).qPublish = (s.plane (planeOf d)).qPublish := by
  obtain ⟨n, o, h⟩ := s.flushed_eq d
  rw [h]
  change ((State.updLane _ d _).plane (planeOf d)).qPublish = _
  rw [State.updLane, plane_updPlane_same, State.updLane, plane_updPlane_same]
  rfl

/-- What is on its way out of a lane that goes down: its queues, and the frame whose last byte has not left (R226). -/
def State.unsent (s : State) (d : DevLane) : Nat :=
  (s.lane d).egress.length + (s.lane d).egWait.length + if (s.plane (planeOf d)).cnt < (s.lane d).sendEnd then 1 else 0

/-- The loss of a member's lane counts what was unsent and fences the members on it, and nothing else comes before the replicator (R226). -/
theorem State.laneLost_member {s : State} {d : DevLane} (hp : s.isPeer d = false) :
    ∃ v, ((s.flushed d).laneCtr d .downDrop (s.unsent d)).Fences v ∧ s.laneLost d = v.replicator (planeOf d) := by
  unfold State.laneLost
  extract_lets k l n u
  rw [State.cutFibre_flushed]
  simp only [s.flushed_isPeer, hp, Bool.false_eq_true, if_false]
  have hn : n + (decide ((s.plane (planeOf d)).cnt < (s.lane d).sendEnd)).toNat = s.unsent d := by
    unfold State.unsent
    split
    · next h => rw [decide_eq_true h]; rfl
    · next h => rw [decide_eq_false h]; rfl
  rw [hn]
  refine ⟨_, .each (fun s j => ?_) _ _, rfl⟩
  split
  · exact s.loseMember_fences ..
  · exact .refl s

theorem State.each_eq_self {α : Type} {f : State → α → State} {s : State} (h : ∀ a, f s a = s) : ∀ l : List α, s.each l f = s
  | [] => rfl
  | a :: l => by rw [State.each_cons, h, State.each_eq_self h l]

theorem State.noticeCheck_without {s : State} (hj : s.jobs = []) (k : PlaneIx) (c : NoticeCopy) (now : Bool) : s.noticeCheck k c now = s := by
  have hf : s.findJob c.job = none := by rw [State.findJob, hj]; rfl
  simp [State.noticeCheck, hf]

/-- Without jobs the loss of a lane toward a peer only counts. -/
theorem State.laneLost_peer {s : State} {d : DevLane} (hp : s.isPeer d = true) (hj : s.jobs = []) :
    s.laneLost d = ((s.flushed d).laneCtr d .peerDrop ((s.lane d).egress.length + (s.lane d).egWait.length)).replicator (planeOf d) := by
  unfold State.laneLost
  extract_lets k l n u
  rw [State.cutFibre_flushed]
  simp only [s.flushed_isPeer, hp, if_true, s.flushed_jobs, hj, List.filter_nil, State.each_nil]
  have hw : ((s.flushed d).laneCtr d .peerDrop n).jobs = [] := (s.flushed_jobs d).trans hj
  generalize (s.flushed d).laneCtr d .peerDrop n = w at hw
  rw [State.each_eq_self (f := fun s c => s.noticeCheck k c false) fun c => State.noticeCheck_without hw k c false]

theorem State.laneLost_bars (s : State) (d : DevLane) : (s.flushed d).Bars (s.laneLost d) := by
  unfold State.laneLost State.flushed
  dsimp only
  refine .trans ?_ (State.replicator_bars ..)
  generalize (s.updLane d fun x => { x with egress := [], egWait := [], drr := [] }).cutFibre d = c
  split
  · refine .trans ?_ (.each (fun s c => s.noticeCheck_bars ..) _ _)
    refine .trans ?_ (.each (fun s j => ?_) _ _)
    · refine .trans ?_ (.each (fun s j => .each (fun s m => (s.loseMember_fences ..).bars) _ s) _ _)
      refine (State.laneCtr_bars _ d (.inl rfl) _).trans (.each (fun s j => ?_) _ _)
      exact State.Bars.trans (t := s.updJob j.id _) (.beside fun _ => rfl) (.updPJob ..)
    · split
      · exact (s.normCheck_bars ..).trans (State.sourcesGone_bars ..)
      · exact .refl s
  · refine (State.laneCtr_bars _ d (.inr rfl) _).trans (.each (fun s j => ?_) _ _)
    split
    · exact (s.loseMember_fences ..).bars
    · exact .refl s

end Sys2Proof.Machine

/-! ## Lanes that go down (R225, R226, R229) -/

namespace Sys2Proof.Machine

/-- In `t` the lane `d`, `UP` in `s`, has gone down into `st` by a cause: what R225 and R226 record of it. -/
structure State.WentDown (s t : State) (d : DevLane) (cause : Nat) (st : LState) : Prop where
  st : (t.lane d).st = st
  lcause : (t.lane d).lcause = cause
  lchange : (t.lane d).lchange = (s.plane (planeOf d)).cnt
  holdoff : (t.lane d).holdoff = true
  ready : (t.lane d).ready = false
  egress : (t.lane d).egress = []
  egWait : (t.lane d).egWait = []
  downCnt : ctrGet (t.lane d).ctrs .downCnt = satAdd 32 (ctrGet (s.lane d).ctrs .downCnt) 1
  downDrop : s.isPeer d = false → (s.plane (planeOf d)).qPublish = {} →
    ctrGet (t.lane d).ctrs .downDrop = satAdd 32 (ctrGet (s.lane d).ctrs .downDrop) (s.unsent d)
  report : s.isPeer d = false ∨ s.jobs = [] → ∃ r ∈ t.host.reports, r.opcode = 0xF005 ∧
    r.payload = leBytes 1 d.val ++ leBytes 1 cause ++ zeros 6 ++ leBytes 8 (t.lane d).lchange

/-! ### The loss of the lane -/

theorem State.setErrsum_part (s : State) (b : List Nat) : (s.setErrsum b).part = s.part := by
  unfold State.setErrsum State.msixSend
  dsimp only
  split
  · split <;> rfl
  · rfl

theorem State.report_part (s : State) (code st job : Nat) (pm : Byte) (pl : List Byte) : (s.report code st job pm pl).part = s.part := by
  unfold State.report
  dsimp only
  split
  · rfl
  · rw [State.setErrsum_part]

theorem State.replicator_host (s : State) (k : PlaneIx) : (s.replicator k).host = s.host :=
  (congrArg State.host (State.replicatorFuel_sends k _ s).planes :)

/-- The loss posts no report of its own where no job is on a far device. -/
theorem State.laneLost_host {s : State} {d : DevLane} (h : s.isPeer d = false ∨ s.jobs = []) : (s.laneLost d).host = s.host := by
  cases hp : s.isPeer d with
  | false =>
    obtain ⟨v, hv, he⟩ := State.laneLost_member hp
    rw [he, State.replicator_host, hv.host]
    exact s.flushed_host d
  | true =>
    rw [State.laneLost_peer hp (h.resolve_left (by simp [hp])), State.replicator_host]
    exact s.flushed_host d

/-- A lane that is down has lost its queues, and of its counters only those of drops have moved. -/
theorem State.laneLost_lane {s : State} {d : DevLane} (h : (s.lane d).st ≠ .up) :
    ((s.laneLost d).lane d).egress = [] ∧ ((s.laneLost d).lane d).egWait = [] ∧
      ∀ c, c ≠ .peerDrop → c ≠ .downDrop → ctrGet ((s.laneLost d).lane d).ctrs c = ctrGet (s.lane d).ctrs c := by
  obtain ⟨-, hq, hc⟩ := (s.laneLost_bars d).lane d
  rw [s.flushed_lane d] at hq hc
  exact ⟨(hq h).1, (hq h).2, hc⟩

/-- What was unsent on a member's lane is counted in `DOWNDROP` (R226). -/
theorem State.laneLost_downDrop {s : State} {d : DevLane} (hp : s.isPeer d = false) (hq : (s.plane (planeOf d)).qPublish = {}) :
    ctrGet ((s.laneLost d).lane d).ctrs .downDrop = satAdd 32 (ctrGet (s.lane d).ctrs .downDrop) (s.unsent d) := by
  obtain ⟨v, hv, he⟩ := State.laneLost_member hp
  have hvq : (v.plane (planeOf d)).qPublish = {} := by
    rw [hv.plane, State.laneCtr, State.updLane, plane_updPlane_same]
    exact (s.flushed_qPublish d).trans hq
  have hvl : v.lane d = ((s.flushed d).laneCtr d .downDrop (s.unsent d)).lane d := lane_congr (by rw [hv.plane])
  rw [he, State.replicator_lane_of_empty hvq, hvl, State.laneCtr, lane_updLane_same, ctrGet_ctrAdd_same, s.flushed_lane]

/-! ### Going down -/

/-- An `UP` lane marked down at `t` by a cause. -/
def Lane.downed (l : Lane) (cause t : Nat) : Lane :=
  { l with lcause := cause, ready := false, echoOk := false, plock := false, holdoff := true, trainAt := t }

/-- The state in which an `UP` lane is marked down, counted and reported, before its loss takes effect. -/
def State.downed (s : State) (d : DevLane) (cause : Nat) (st : LState) : State :=
  ((s.setLane d st fun l => l.downed cause (s.plane (planeOf d)).cnt).laneCtr d .downCnt).report 0xF005 0 0 (planeBit (planeOf d))
      (leBytes 1 d.val ++ leBytes 1 cause ++ zeros 6 ++ leBytes 8 (s.plane (planeOf d)).cnt)

section
variable {s : State} {d : DevLane} (cause : Nat) (st : LState)

theorem State.laneDown_of_up (h : (s.lane d).st = .up) : s.laneDown d cause st = (s.downed d cause st).laneLost d := by
  unfold State.laneDown
  rw [if_neg (by simp [h])]
  extract_lets t s1 s2 s3
  have hc : (s2.lane d).lchange = (s.plane (planeOf d)).cnt := by
    unfold s2 s1
    rw [State.laneCtr, lane_updLane_same, lane_setLane_same]
  have h3 : s3 = s.downed d cause st := by
    unfold s3
    rw [hc]
    rfl
  rw [h3]

theorem State.downed_lane : (s.downed d cause st).lane d = { (s.lane d).downed cause (s.plane (planeOf d)).cnt with
    st := st, lchange := (s.plane (planeOf d)).cnt, ctrs := ctrAdd (s.lane d).ctrs .downCnt 1 } := by
  rw [State.downed, State.report_lane, State.laneCtr, lane_updLane_same, lane_setLane_same]
  rfl

theorem State.downed_plane : (s.downed d cause st).plane (planeOf d) =
    { s.plane (planeOf d) with lanes := ((s.downed d cause st).plane (planeOf d)).lanes } := by
  rw [State.downed, State.report_plane, State.laneCtr, State.setLane, State.updLane, plane_updPlane_same, State.updLane, plane_updPlane_same]
  rfl

theorem State.downed_unsent : (s.downed d cause st).unsent d = s.unsent d := by
  unfold State.unsent
  rw [State.downed_lane, State.downed_plane]
  rfl

theorem State.downed_isPeer : (s.downed d cause st).isPeer d = s.isPeer d := by
  unfold State.isPeer State.farDev State.downed
  rw [State.report_part]
  rfl

theorem State.downed_report : ∃ r ∈ (s.downed d cause st).host.reports, r.opcode = 0xF005 ∧
    r.payload = leBytes 1 d.val ++ leBytes 1 cause ++ zeros 6 ++ leBytes 8 (s.plane (planeOf d)).cnt := State.report_posts ..

theorem State.laneDown_wentDown (hup : (s.lane d).st = .up) (hst : st ≠ .up) : s.WentDown (s.laneDown d cause st) d cause st := by
  have hstill := (State.laneDown_steady hup cause st).lane d
  rw [lane_setLane_same] at hstill
  have hchange : ((s.laneDown d cause st).lane d).lchange = (s.plane (planeOf d)).cnt := congrArg Lane.lchange hstill
  obtain ⟨he, hw, hctr⟩ := State.laneLost_lane (s := s.downed d cause st) (d := d) (by rw [State.downed_lane]; exact hst)
  have hlost := State.laneDown_of_up cause st hup
  have hpeer := State.downed_isPeer (s := s) (d := d) cause st
  have hjobs : (s.downed d cause st).jobs = s.jobs := (State.report_calm ..).jobs
  refine ⟨congrArg Lane.st hstill, congrArg Lane.lcause hstill, hchange, congrArg Lane.holdoff hstill, congrArg Lane.ready hstill,
    by rw [hlost, he], by rw [hlost, hw], ?_, fun hp hq => ?_, fun h => ?_⟩
  · rw [hlost, hctr _ (by decide) (by decide), State.downed_lane, ctrGet_ctrAdd_same]
  · rw [hlost, State.laneLost_downDrop (hpeer.trans hp) (by rw [State.downed_plane]; exact hq), State.downed_unsent, State.downed_lane,
      ctrGet_ctrAdd_other _ _ (by decide)]
  · rw [hchange, hlost, State.laneLost_host (h.imp hpeer.trans hjobs.trans)]
    exact State.downed_report cause st

end

section
variable {s t : State} {d : DevLane} {cause : Nat} {st : LState}

/-- What a lane notes as it goes down: light, clock, and counters of its own events. -/
theorem State.WentDown.of_updLane {f : Lane → Lane} (h : (s.updLane d f).WentDown t d cause st)
    (hq : (f (s.lane d)).egress = (s.lane d).egress ∧ (f (s.lane d)).egWait = (s.lane d).egWait ∧ (f (s.lane d)).sendEnd = (s.lane d).sendEnd)
    (hc : ∀ c ∈ [LCtr.downCnt, .downDrop], ctrGet (f (s.lane d)).ctrs c = ctrGet (s.lane d).ctrs c) : s.WentDown t d cause st := by
  have hcnt : ((s.updLane d f).plane (planeOf d)).cnt = (s.plane (planeOf d)).cnt := (State.Sends.updLane s d f).cnt _
  have hpub : ((s.updLane d f).plane (planeOf d)).qPublish = (s.plane (planeOf d)).qPublish := by
    rw [State.updLane, plane_updPlane_same]
    rfl
  have hunsent : (s.updLane d f).unsent d = s.unsent d := by
    unfold State.unsent
    rw [lane_updLane_same, hcnt, hq.1, hq.2.1, hq.2.2]
  refine ⟨h.st, h.lcause, h.lchange.trans hcnt, h.holdoff, h.ready, h.egress, h.egWait, h.downCnt.trans ?_,
    fun hp he => (h.downDrop hp (hpub.trans he)).trans ?_, h.report⟩
  · rw [lane_updLane_same, hc _ (by simp)]
  · rw [lane_updLane_same, hc _ (by simp), hunsent]

/-- What becomes of the laser, the clock and the identity of a lane that has gone down. -/
theorem State.WentDown.updLane (h : s.WentDown t d cause st) {g : Lane → Lane} (hg : ∀ l, g l = { l with
      laserOn := (g l).laserOn, bias := (g l).bias, biasHi := (g l).biasHi, clk := (g l).clk, feclock := (g l).feclock,
      farid1 := (g l).farid1, farid2 := (g l).farid2, farReady := (g l).farReady }) : s.WentDown (t.updLane d g) d cause st := by
  have hl : (t.updLane d g).lane d = g (t.lane d) := lane_updLane_same ..
  rw [hg] at hl
  refine ⟨?_, ?_, ?_, ?_, ?_, ?_, ?_, ?_, fun hp he => ?_, fun hr => ?_⟩ <;> rw [hl]
  exacts [h.st, h.lcause, h.lchange, h.holdoff, h.ready, h.egress, h.egWait, h.downCnt, h.downDrop hp he, h.report hr]

end

end Sys2Proof.Machine

namespace Sys2Proof.Machine

/-! ### The causes -/

/-- An event of the lane's own that is counted as it goes down. -/
theorem State.WentDown.of_laneCtr {s t : State} {d : DevLane} {cause n : Nat} {st : LState} {c : LCtr}
    (h : (s.laneCtr d c n).WentDown t d cause st) (hc : c ∉ [LCtr.downCnt, .downDrop]) : s.WentDown t d cause st :=
  State.WentDown.of_updLane h ⟨rfl, rfl, rfl⟩ fun x hx => ctrGet_ctrAdd_other _ _ (by rintro rfl; exact hc hx)

/-- What else a lane that goes down keeps. -/
theorem State.laneDown_keeps {s : State} {d : DevLane} (hup : (s.lane d).st = .up) (cause : Nat) {st : LState} (hst : st ≠ .up) :
    ((s.laneDown d cause st).lane d).los = (s.lane d).los ∧ ((s.laneDown d cause st).lane d).feclock = (s.lane d).feclock ∧
      ∀ c, c ∉ [LCtr.peerDrop, .downDrop, .downCnt] → ctrGet ((s.laneDown d cause st).lane d).ctrs c = ctrGet (s.lane d).ctrs c := by
  have hstill := (State.laneDown_steady hup cause st).lane d
  rw [lane_setLane_same] at hstill
  refine ⟨(congrArg Lane.los hstill :), (congrArg Lane.feclock hstill :), fun c hc => ?_⟩
  simp only [List.mem_cons, List.not_mem_nil, or_false, not_or] at hc
  obtain ⟨hpeer, hdrop, hcnt⟩ := hc
  obtain ⟨-, -, hctr⟩ := State.laneLost_lane (s := s.downed d cause st) (d := d) (by rw [State.downed_lane]; exact hst)
  rw [State.laneDown_of_up cause st hup, hctr c hpeer hdrop, State.downed_lane, ctrGet_ctrAdd_other _ _ hcnt]

theorem Lane.retrain_ne_up (l : Lane) : l.retrain ≠ .up := by
  unfold Lane.retrain
  split <;> decide

/-- Without receive clock, or FEC lock, the lane trains again (R225 causes 2 and 3). -/
theorem State.linkLoss_wentDown {s : State} {d : DevLane} (hup : (s.lane d).st = .up) (cause : Nat) {f : Lane → Lane}
    (hf : ∀ l, f l = { l with clk := (f l).clk, feclock := (f l).feclock }) :
    let t := (s.updLane d f).linkLoss d cause
    s.WentDown t d cause (s.lane d).retrain ∧ (t.lane d).feclock = (f (s.lane d)).feclock ∧
      ∀ c, c ∉ [LCtr.peerDrop, .downDrop, .downCnt] → ctrGet (t.lane d).ctrs c = ctrGet (s.lane d).ctrs c := by
  intro t
  have hl : (s.updLane d f).lane d = f (s.lane d) := lane_updLane_same ..
  have hupf : ((s.updLane d f).lane d).st = .up := by rw [hl, hf]; exact hup
  have hre : ((s.updLane d f).lane d).retrain = (s.lane d).retrain := by rw [hl, hf]; rfl
  have ht : t = (s.updLane d f).laneDown d cause (s.lane d).retrain := by
    unfold t State.linkLoss
    rw [if_pos hupf, hre]
  obtain ⟨-, hfec, hctr⟩ := State.laneDown_keeps hupf cause (s.lane d).retrain_ne_up
  refine ⟨?_, ?_, fun c hc => ?_⟩
  · rw [ht]
    exact (State.laneDown_wentDown cause _ hupf (s.lane d).retrain_ne_up).of_updLane (by rw [hf]; exact ⟨rfl, rfl, rfl⟩)
      fun _ _ => by rw [hf]
  · rw [ht, hfec, hl]
  · rw [ht, hctr c hc, hl, hf]

section
variable {d : DevLane} {s : State} (hk : (s.plane (planeOf d)).linksRun = true) (hup : (s.lane d).st = .up)
include hk hup

/-- Without light the lane is dark (R225 cause 1, R231). -/
theorem lossOfLight_darkens : Runs (.lossOfLight d) s fun t => s.WentDown t d 1 .dark ∧ (t.lane d).los = true := by
  refine State.onLinks_runs (f := fun s => s.lossOfLight d) hk ?_ rfl
  unfold State.lossOfLight
  extract_lets l u v w
  rw [if_neg (by simp [l, hup]), if_pos hup]
  obtain ⟨huup, hu⟩ : (u.lane d).st = .up ∧ ∀ t, u.WentDown t d 1 .dark → s.WentDown t d 1 .dark := by
    unfold u
    split
    · exact ⟨hup, fun t h => h⟩
    · exact ⟨by rw [State.laneCtr, lane_updLane_same]; exact hup, fun t h => h.of_laneCtr (by decide)⟩
  have hv : v.lane d = { (u.lane d).clockStop with los := true } := lane_updLane_same ..
  have hvup : (v.lane d).st = .up := by rw [hv]; exact huup
  refine ⟨hu _ ((State.laneDown_wentDown 1 .dark hvup (by decide)).of_updLane ⟨rfl, rfl, rfl⟩ fun _ _ => rfl), ?_⟩
  rw [(State.laneDown_keeps hvup 1 (by decide)).1, hv]

theorem receiveClockLoss_retrains :
    Runs (.receiveClockLoss d) s fun t => s.WentDown t d 2 (s.lane d).retrain ∧ (t.lane d).feclock = false := by
  refine State.onLinks_runs (f := fun s => if (s.lane d).st = .disabled then s else (s.updLane d Lane.clockStop).linkLoss d 2) hk ?_ rfl
  rw [if_neg (by simp [hup])]
  obtain ⟨hdown, hfec, -⟩ := State.linkLoss_wentDown hup 2 (f := Lane.clockStop) fun _ => rfl
  exact ⟨hdown, hfec⟩

theorem fecLockLoss_retrains (n : Nat) : Runs (.fecLockLoss d n) s fun t => s.WentDown t d 3 (s.lane d).retrain ∧
    ctrGet (t.lane d).ctrs .fecUnc = satAdd 32 (ctrGet (s.lane d).ctrs .fecUnc) n := by
  refine State.onLinks_runs (f := fun s => if (s.lane d).st = .disabled then s
    else ((s.laneCtr d .fecUnc n).updLane d fun l => { l with feclock := false }).linkLoss d 3) hk ?_ rfl
  rw [if_neg (by simp [hup])]
  have hl : (s.laneCtr d .fecUnc n).lane d = { s.lane d with ctrs := ctrAdd (s.lane d).ctrs .fecUnc n } := lane_updLane_same ..
  obtain ⟨hdown, -, hctr⟩ := State.linkLoss_wentDown (s := s.laneCtr d .fecUnc n) (by rw [hl]; exact hup) 3
    (f := fun l => { l with feclock := false }) fun _ => rfl
  rw [hl] at hdown hctr
  refine ⟨hdown.of_laneCtr (by decide), ?_⟩
  rw [hctr .fecUnc (by decide), ctrGet_ctrAdd_same]

/-- A far end that trains again takes the lane with it, and its identity is kept (R225 cause 4). -/
theorem trainWhileUp_retrains (x : TrainInfo) : Runs (.trainWhileUp d x) s fun t =>
    s.WentDown t d 4 (s.lane d).retrain ∧ (t.lane d).farid1 = x.b1 ∧ (t.lane d).farid2 = x.b2 := by
  refine State.onLinks_runs hk ?_ rfl
  rw [if_pos hup]
  refine ⟨(State.laneDown_wentDown 4 _ hup (s.lane d).retrain_ne_up).updLane fun _ => rfl, ?_, ?_⟩ <;> rw [lane_updLane_same] <;> rfl

/-- A lane in use that hears `DORMANT` trains again (R225 cause 5, R229). -/
theorem dormantReceived_retrains (hj : s.laneJobs d ≠ []) : Runs (.dormantReceived d) s fun t => s.WentDown t d 5 (s.lane d).retrain := by
  refine State.onLinks_runs (f := fun s => s.dormantIn d) hk ?_ rfl
  unfold State.dormantIn
  dsimp only
  rw [if_neg (by simp [hup]), if_neg (by simpa using hj), if_pos hup]
  exact State.laneDown_wentDown 5 _ hup (s.lane d).retrain_ne_up

/-- An unused lane that hears `DORMANT` enters it (R225 cause 6, R229). -/
theorem dormantReceived_sleeps (hj : s.laneJobs d = []) : Runs (.dormantReceived d) s fun t =>
    s.WentDown t d 6 .dormant ∧ (t.lane d).laserOn = false := by
  refine State.onLinks_runs (f := fun s => s.dormantIn d) hk ?_ rfl
  unfold State.dormantIn
  dsimp only
  rw [if_neg (by simp [hup]), if_pos (by simpa using hj), if_pos hup]
  refine ⟨(State.laneDown_wentDown 6 .dormant hup (by decide)).updLane fun _ => rfl, ?_⟩
  rw [lane_updLane_same]
  rfl

end

/-! ## Faults of lanes and engines (R231, R233, R244, R253) -/

theorem State.Logs.lane {s t : State} {k : PlaneIx} (h : s.Logs t k) (d : DevLane) : t.lane d = s.lane d :=
  lane_congr <| by
    by_cases hd : planeOf d = k
    · rw [hd, h.own]
    · rw [h.other _ hd]

/-- Another lane that goes down leaves this one but for its queues and counters. -/
theorem State.laneDown_still_other (s : State) {d y : DevLane} (h : y ≠ d) (cause : Nat) (st : LState) :
    ((s.laneDown d cause st).lane y).still = (s.lane y).still := by
  by_cases hup : (s.lane d).st = .up
  · rw [(State.laneDown_steady hup cause st).lane y, State.setLane, lane_updLane, if_neg h]
  · rw [State.laneDown, if_pos (by simpa using hup)]

theorem State.setLane_other (s : State) {d y : DevLane} (h : y ≠ d) (st : LState) (f : Lane → Lane) :
    (s.setLane d st f).lane y = s.lane y := by rw [State.setLane, lane_updLane, if_neg h]

/-- A lane that is marked retired, down where it was `UP`, before its laser is off (R253). -/
def State.withdrawn (s : State) (d : DevLane) : State := (s.laneDown d 7 .disabled).updLane d fun l => { l with retired := true }

theorem State.withdrawn_lcause {s : State} {d : DevLane} (h : (s.lane d).st ≠ .up) : ((s.withdrawn d).lane d).lcause = (s.lane d).lcause := by
  rw [State.withdrawn, lane_updLane_same, State.laneDown, if_pos (by simpa using h)]

theorem State.withdrawn_other (s : State) {d y : DevLane} (h : y ≠ d) : ((s.withdrawn d).lane y).still = (s.lane y).still := by
  rw [State.withdrawn, lane_updLane, if_neg h, s.laneDown_still_other h]

theorem State.retireUnit_lane (s : State) (d : DevLane) : s.retireUnit (planeOf d) 1 (laneIn d).val 0 =
    if ((s.withdrawn d).lane d).st = .disabled then (s.withdrawn d).updLane d fun l => l.laserStop.clockStop
    else (s.withdrawn d).setLane d .disabled fun l => { l.laserStop.clockStop with ready := false, plock := false, echoOk := false } := by
  have hd : devLane (planeOf d) (Fin.ofNat 16 (laneIn d).val) = d := by
    rw [show Fin.ofNat 16 (laneIn d).val = laneIn d from Fin.ext (Nat.mod_eq_of_lt (laneIn d).isLt), devLane_planeOf_laneIn]
  unfold State.retireUnit State.withdrawn
  simp only [if_true, hd]

/-- The retirement of a lane's unit disables it with its laser off, and leaves the other lanes (R253). -/
theorem State.retireUnit_disables (s : State) (d : DevLane) {t : State} (ht : s.retireUnit (planeOf d) 1 (laneIn d).val 0 = t) :
    ((t.lane d).st = .disabled ∧ (t.lane d).laserOn = false ∧ ((s.lane d).st ≠ .up → (t.lane d).lcause = (s.lane d).lcause)) ∧
      ∀ y, y ≠ d → (t.lane y).still = (s.lane y).still := by
  have hcause := State.withdrawn_lcause (s := s) (d := d)
  have hother (y : DevLane) (h : y ≠ d) := s.withdrawn_other h
  rw [State.retireUnit_lane] at ht
  generalize s.withdrawn d = u at *
  subst ht
  split
  · next hst =>
    rw [lane_updLane_same]
    exact ⟨⟨hst, rfl, hcause⟩, fun y h => by rw [lane_updLane, if_neg h, hother y h]⟩
  · rw [lane_setLane_same]
    exact ⟨⟨rfl, rfl, hcause⟩, fun y h => by rw [State.setLane_other _ h, hother y h]⟩

/-- The error of a lane (R231): the lane stays as it is, or its record retires it; the other lanes stay (R244, R253). -/
theorem State.laneError_lane (s : State) (d : DevLane) {t : State}
    (ht : s.error (planeOf d) { block := 1, cls := 11, index := (laneIn d).val } = t) :
    (t.lane d = s.lane d ∨
      (t.lane d).st = .disabled ∧ (t.lane d).laserOn = false ∧ ((s.lane d).st ≠ .up → (t.lane d).lcause = (s.lane d).lcause)) ∧
      ∀ y, y ≠ d → (t.lane y).still = (s.lane y).still := by
  subst ht
  obtain h | ⟨-, u, hu, he⟩ := s.error_cases (planeOf d) { block := 1, cls := 11, index := (laneIn d).val }
  · exact ⟨.inl (h.lane d), fun y _ => congrArg Lane.still (h.lane y)⟩
  · obtain ⟨hd, hother⟩ := u.retireUnit_disables d he.symm
    rw [hu.lane] at hd
    exact ⟨.inr hd, fun y h => by rw [hother y h, hu.lane]⟩

/-! ### Transmitter and engine faults -/

/-- The lane in `TXFAULT` with its laser off, before the record. -/
def State.txOff (s : State) (d : DevLane) : State :=
  (if (s.lane d).st = .up then s.laneDown d 8 .txfault else s.setLane d .txfault Lane.breakLock).updLane d Lane.laserStop

theorem State.txOff_lane (s : State) (d : DevLane) : ((s.txOff d).lane d).st = .txfault ∧ ((s.txOff d).lane d).laserOn = false ∧
    ((s.lane d).st = .up → ((s.txOff d).lane d).lcause = 8) := by
  unfold State.txOff
  rw [lane_updLane_same]
  split
  · next h =>
    obtain ⟨hst, hcause, -⟩ := State.laneDown_lane h 8 .txfault
    exact ⟨hst, rfl, fun _ => hcause⟩
  · next h => exact ⟨by rw [lane_setLane_same]; rfl, rfl, fun hup => absurd hup h⟩

theorem State.txOff_other (s : State) {d y : DevLane} (h : y ≠ d) : ((s.txOff d).lane y).still = (s.lane y).still := by
  unfold State.txOff
  rw [lane_updLane, if_neg h]
  split
  · exact s.laneDown_still_other h ..
  · rw [State.setLane_other _ h]

theorem State.txOff_errSeq (s : State) (d : DevLane) (k : PlaneIx) : ((s.txOff d).plane k).errSeq = (s.plane k).errSeq := by
  unfold State.txOff
  refine ((State.Sends.updLane _ d _).calm.errSeq k).trans ?_
  split
  · exact (s.laneDown_errs d 8 .txfault k).errSeq
  · exact (State.Sends.updLane s d _).calm.errSeq k

theorem State.txFault_eq {s : State} {d : DevLane} {engine : Bool} (hd : (s.lane d).st ≠ .disabled ∨ engine = true)
    (ht : (s.lane d).st ≠ .txfault) :
    s.txFault d engine = (s.txOff d).error (planeOf d) { block := 1, cls := 11, index := (laneIn d).val } := by
  unfold State.txFault
  exact if_neg (by
    obtain hd | rfl := hd
    · simp [hd, ht]
    · simp [ht])

/-- A fault of a lane's transmitter turns its laser off and makes one record (R231). -/
theorem State.txFault_faults {s : State} {d : DevLane} {engine : Bool} (hd : (s.lane d).st ≠ .disabled ∨ engine = true)
    (ht : (s.lane d).st ≠ .txfault) {t : State} (h : s.txFault d engine = t) :
    ((t.lane d).st = .txfault ∨ (t.lane d).st = .disabled) ∧ (t.lane d).laserOn = false ∧
      (t.plane (planeOf d)).errSeq = (s.plane (planeOf d)).errSeq + 1 ∧ ((s.lane d).st = .up → (t.lane d).lcause = 8) := by
  obtain ⟨hst, hoff, hcause⟩ := s.txOff_lane d
  rw [State.txFault_eq hd ht] at h
  have hseq := ((s.txOff d).error_errs (planeOf d) { block := 1, cls := 11, index := (laneIn d).val }).errSeq
  rw [h, s.txOff_errSeq] at hseq
  obtain ⟨hl | ⟨hdis, hlaser, hkeep⟩, -⟩ := (s.txOff d).laneError_lane d h
  · rw [hl]
    exact ⟨.inl hst, hoff, hseq, hcause⟩
  · exact ⟨.inr hdis, hlaser, hseq, fun hup => (hkeep (by simp [hst])).trans (hcause hup)⟩

theorem State.txFault_other (s : State) {d y : DevLane} (h : y ≠ d) (engine : Bool) :
    ((s.txFault d engine).lane y).still = (s.lane y).still := by
  by_cases hd : (s.lane d).st ≠ .disabled ∨ engine = true
  · by_cases ht : (s.lane d).st = .txfault
    · rw [show s.txFault d engine = s from if_pos (by simp [ht])]
    · rw [State.txFault_eq hd ht, ((s.txOff d).laneError_lane d rfl).2 y h, s.txOff_other h]
  · obtain ⟨hdis, rfl⟩ : (s.lane d).st = .disabled ∧ engine = false := by simpa using hd
    rw [show s.txFault d false = s from if_pos (by simp [hdis])]

/-- Faults of several lanes of a plane make one record each (R231). -/
theorem State.each_txFault_errSeq (k : PlaneIx) : ∀ (l : List DevLane) (s : State), l.Nodup →
    (∀ d ∈ l, planeOf d = k ∧ (s.lane d).st ≠ .txfault) →
    ((s.each l fun s d => s.txFault d true).plane k).errSeq = (s.plane k).errSeq + l.length
  | [], _, _, _ => rfl
  | a :: l, s, hn, hl => by
    obtain ⟨ha, hn⟩ := List.nodup_cons.1 hn
    obtain ⟨rfl, hst⟩ := hl a (List.mem_cons_self ..)
    obtain ⟨-, -, hseq, -⟩ := State.txFault_faults (engine := true) (.inr rfl) hst rfl
    rw [State.each_cons, State.each_txFault_errSeq _ l _ hn fun d hd => ?_, hseq, List.length_cons, Nat.add_assoc, Nat.add_comm 1]
    obtain ⟨hp, hs⟩ := hl d (List.mem_cons_of_mem _ hd)
    have hstill : ((s.txFault a true).lane d).st = (s.lane d).st :=
      (congrArg Lane.st (s.txFault_other (fun h : d = a => ha (h ▸ hd)) true) :)
    exact ⟨hp, by rwa [hstill]⟩

theorem engineLanes_length (e : Fin 16) : (engineLanes e).length = 8 := by
  revert e
  decide

section
variable {d : DevLane} {s : State} (hk : (s.plane (planeOf d)).linksRun = true)
include hk

theorem transmitterFault_faults (hd : (s.lane d).st ≠ .disabled) (ht : (s.lane d).st ≠ .txfault) : Runs (.transmitterFault d) s fun t =>
    ((t.lane d).st = .txfault ∨ (t.lane d).st = .disabled) ∧ (t.lane d).laserOn = false ∧
      (t.plane (planeOf d)).errSeq = (s.plane (planeOf d)).errSeq + 1 ∧ ((s.lane d).st = .up → (t.lane d).lcause = 8) :=
  State.onLinks_runs (f := fun s => s.txFault d) hk (State.txFault_faults (.inl hd) ht rfl) rfl

/-- High bias flags the lane and makes a record (R231, R233). -/
theorem highLaserBias_flags (hon : (s.lane d).laserOn = true) : Runs (.highLaserBias d) s fun t =>
    ((t.lane d).biasHi = true ∧ (t.lane d).st = (s.lane d).st ∨ (t.lane d).st = .disabled) ∧
      (t.plane (planeOf d)).errSeq = (s.plane (planeOf d)).errSeq + 1 := by
  refine State.onLinks_runs hk ?_ rfl
  rw [if_pos hon]
  set u := s.updLane d fun l => { l with biasHi := true }
  have hseq := (u.error_errs (planeOf d) { block := 1, cls := 11, index := (laneIn d).val }).errSeq
  refine ⟨?_, hseq.trans (congrArg (· + 1) ((State.Sends.updLane s d _).calm.errSeq _))⟩
  obtain ⟨h | ⟨hdis, -, -⟩, -⟩ := u.laneError_lane d rfl
  · rw [h, lane_updLane_same]
    exact .inl ⟨rfl, rfl⟩
  · exact .inr hdis

/-- A laser that is off has no bias (R233). -/
theorem highLaserBias_off (hoff : (s.lane d).laserOn = false) : Runs (.highLaserBias d) s fun t => t = s := by
  refine State.onLinks_runs hk ?_ rfl
  exact if_neg (by simp [hoff])

/-- An invalid block is counted in `BLKERR` (R218, R234). -/
theorem invalidBlock_counts (hd : (s.lane d).st ≠ .disabled) : Runs (.invalidBlock d) s fun t => t = { s with planes := t.planes } ∧
    ctrGet (t.lane d).ctrs .blkErr = satAdd 32 (ctrGet (s.lane d).ctrs .blkErr) 1 ∧ (t.lane d).st = (s.lane d).st := by
  refine State.onLinks_runs (f := fun s => if (s.lane d).st = .disabled then s else s.laneCtr d .blkErr) hk ?_ rfl
  rw [if_neg hd, State.laneCtr, lane_updLane_same]
  exact ⟨rfl, ctrGet_ctrAdd_same .., rfl⟩

end

/-- A control fault of an engine is a transmitter fault of each of its eight lanes (R231). -/
theorem engineControlFault_faults {e : Fin 16} {s : State} (hk : (s.plane (enginePlane e)).linksRun = true)
    (ht : ∀ d ∈ engineLanes e, (s.lane d).st ≠ .txfault) : Runs (.engineControlFault e) s fun t =>
      (∀ d ∈ engineLanes e, ((t.lane d).st = .txfault ∨ (t.lane d).st = .disabled) ∧ (t.lane d).laserOn = false) ∧
      (t.plane (enginePlane e)).errSeq = (s.plane (enginePlane e)).errSeq + 8 := by
  refine State.onLinks_runs (f := fun s => s.each (engineLanes e) fun s d => s.txFault d true) hk ⟨fun d hd => ?_, ?_⟩ rfl
  · obtain ⟨u, hu, he⟩ := State.each_lane_of_mem (φ := Lane.still) (f := fun s d => s.txFault d true)
      (fun s d y h => s.txFault_other h true) (engineLanes_nodup e) hd s
    have hst : (u.lane d).st ≠ .txfault := by
      rw [show (u.lane d).st = (s.lane d).st from (congrArg Lane.st hu :)]
      exact ht d hd
    obtain ⟨hfault, hlaser, -⟩ := State.txFault_faults (engine := true) (.inr rfl) hst rfl
    rw [show ∀ t : State, (t.lane d).st = (t.lane d).still.st from fun _ => rfl,
      show ∀ t : State, (t.lane d).laserOn = (t.lane d).still.laserOn from fun _ => rfl, he]
    exact ⟨hfault, hlaser⟩
  · rw [State.each_txFault_errSeq (enginePlane e) _ s (engineLanes_nodup e) fun d hd => ⟨planeOf_eq_of_mem hd, ht d hd⟩, engineLanes_length]

end Sys2Proof.Machine

section
open Sys2Proof Sys2Proof.Machine

/-- Settles O40: by the cause for which an `UP` lane goes down; a fault's record leaves its lane faulted or retires it. -/
theorem lanesGoDownOrFault : Obligations.LanesGoDownOrFault := by
  refine ⟨fun d n x s hup hk => ?_, fun d s hd hk => ⟨transmitterFault_faults hk hd, highLaserBias_flags hk, highLaserBias_off hk,
    invalidBlock_counts hk hd⟩, fun e s => engineControlFault_faults⟩
  intro back down
  have hdown (cause : Nat) (st : LState) (t : State) (h : s.WentDown t d cause st) : down cause st t :=
    ⟨h.st, h.lcause, h.lchange, h.holdoff, h.ready, h.egress, h.egWait, h.downCnt, h.downDrop, h.report⟩
  exact ⟨(lossOfLight_darkens hk hup).imp fun t => .imp_left (hdown 1 .dark t),
    (receiveClockLoss_retrains hk hup).imp fun t => .imp_left (hdown 2 back t),
    (fecLockLoss_retrains hk hup n).imp fun t => .imp_left (hdown 3 back t),
    (trainWhileUp_retrains hk hup x).imp fun t => .imp_left (hdown 4 back t),
    fun hj => (dormantReceived_retrains hk hup hj).imp fun t => hdown 5 back t,
    fun hj => (dormantReceived_sleeps hk hup hj).imp fun t => .imp_left (hdown 6 .dormant t)⟩

end

/-! ## The majority of three computations (R240, R241) -/

namespace Sys2Proof.Machine

/-- Where two of the three agree on `v`, `v` stands. -/
theorem settleWord_of_agree {w v : W32} {f : WordFault}
    (h : (w ^^^ f.primary = v ∧ w ^^^ f.check = v) ∨ (w ^^^ f.primary = v ∧ w ^^^ f.third = v) ∨ (w ^^^ f.check = v ∧ w ^^^ f.third = v)) :
    (settleWord w f true).1 = v ∧ (settleWord w f true).2 ≠ .unresolved := by
  obtain ⟨ha, hb⟩ | ⟨ha, hc⟩ | ⟨hb, hc⟩ := h
  · simp [settleWord, ha, hb]
  · rw [settleWord, ha, hc]
    split <;> simp
  · rw [settleWord, hb, hc]
    by_cases ha : w ^^^ f.primary = v
    · simp [ha]
    · simp [ha, Ne.symm ha]

/-- Where all three differ the word is unresolved. -/
theorem settleWord_of_differ {w : W32} {f : WordFault} (hab : w ^^^ f.primary ≠ w ^^^ f.check) (hbc : w ^^^ f.check ≠ w ^^^ f.third)
    (hac : w ^^^ f.primary ≠ w ^^^ f.third) : (settleWord w f true).2 = .unresolved := by
  simp [settleWord, hab, hac.symm, hbc.symm]

end Sys2Proof.Machine

section
open Sys2Proof Sys2Proof.Machine

/-- Settles O50: by the two values that agree, and by the three comparisons that fail. -/
theorem majorityOfThreeStands : Obligations.MajorityOfThreeStands :=
  fun _ _ => ⟨fun _ => settleWord_of_agree, settleWord_of_differ, rfl⟩

end

/-! ## The device-scope commands that write (R249, R306, R317, R327) -/

namespace Sys2Proof.Machine

/-- What the commands that write leave in the host port block: the staging buffer, the writes under way, and the values of `OBS_SET`. -/
def HostPort.stores (h : HostPort) : (Mem × Option (Nat × List Byte) × Option (Nat × List Byte)) × Nat × Nat × Nat × Nat :=
  ((h.staging, h.programming, h.calWriting), h.obsretire, h.obsclear, h.testint, h.testgrace)

theorem HostPort.endDrain_stores (h : HostPort) : h.endDrain.stores = h.stores := by
  unfold HostPort.endDrain
  split <;> rfl

/-- An answer leaves what the commands have written. -/
theorem State.answer_stores (s : State) (id : Nat) (st : Status) (pl : List Byte) (pm : Byte) :
    (s.answer id st pl pm).host.stores = s.host.stores := by
  refine (HostPort.endDrain_stores _).trans ?_
  rw [HostPort.barriers, HostPort.barriersFuel_eq, HostPort.complete_eq]
  rfl

/-- A head command that is answered at once, with a write `g` to the host port block. -/
theorem State.AtHead.runs_write {i : Instr} {s : State} {op : Nat} {p : Packet} {c : Held} (h : s.AtHead op p c) (g : HostPort → HostPort)
    {st : Status} (hx : exec i s = .next (((s.updHost HostPort.settleTail).updHost g).reply c st))
    (hheld : ∀ h, (g h).held = h.held := by exact fun _ => rfl)
    (hg : (g s.host.settleTail).stores = (g s.host).stores := by rw [HostPort.settleTail_eq]; rfl) :
    Runs i s fun t => t = { s with host := t.host } ∧ t.Answered c st [] ∧ t.host.stores = (g s.host).stores := by
  refine ⟨_, hx, rfl, ?_, (State.answer_stores ..).trans hg⟩
  exact State.reply_answered (by simpa [hheld] using h.mem) (by simpa [hheld] using h.2.2.2) _ _

/-- The head command waits for the end of the write that it started. -/
theorem State.AtHead.waits {s : State} {op : Nat} {p : Packet} {c : Held} (h : s.AtHead op p c) :
    ∃ o ∈ ((s.updHost HostPort.settleTail).updHeld c.id fun c => { c with phase := .waiting }).host.held, o.id = c.id ∧ o.phase = .waiting :=
  ⟨_, List.mem_map.2 ⟨c, by simpa using h.mem, if_pos (beq_self_eq_true _)⟩, rfl, rfl⟩

section
variable {p : Packet} {c : Held} {s : State}

/-! ### `OBS_SET` (R249) -/

/-- The values of `OBS_SET` within their ranges. -/
def obsInRange (p : Packet) : Prop :=
  1 ≤ fieldAt p.params 0 1 ∧ 1 ≤ fieldAt p.params 1 1 ∧ 10 ≤ fieldAt p.params 4 4 ∧ fieldAt p.params 4 4 ≤ 86400 ∧
    1 ≤ fieldAt p.params 8 4 ∧ fieldAt p.params 8 4 ≤ 3600

theorem obsSet_takes (h : s.AtHead 0x0902 p c) (hr : obsInRange p) : Runs (.obsSet p) s fun t => t = { s with host := t.host } ∧
    t.Answered c .ok [] ∧ t.host.obsretire = fieldAt p.params 0 1 ∧ t.host.obsclear = fieldAt p.params 1 1 ∧
    t.host.testint = fieldAt p.params 4 4 ∧ t.host.testgrace = fieldAt p.params 8 4 := by
  refine (h.runs_write (st := .ok) (fun x => { x with
    obsretire := fieldAt p.params 0 1, obsclear := fieldAt p.params 1 1, testint := fieldAt p.params 4 4, testgrace := fieldAt p.params 8 4 })
    ((h.exec_eq rfl).trans (congrArg _ ?_))).imp fun t ⟨hframe, hans, hstores⟩ => ?_
  · obtain ⟨h1, h2, h3, h4, h5, h6⟩ := hr
    simp [pf, h.2.1, h1, h2, h3, h4, h5, h6]
  · simp only [HostPort.stores, Prod.mk.injEq] at hstores
    exact ⟨hframe, hans, hstores.2⟩

theorem obsSet_refuses (h : s.AtHead 0x0902 p c) (hr : ¬obsInRange p) : Runs (.obsSet p) s fun t => t = { s with host := t.host } ∧
    t.Answered c .param [] ∧ t.host.obsretire = s.host.obsretire ∧ t.host.obsclear = s.host.obsclear ∧
    t.host.testint = s.host.testint ∧ t.host.testgrace = s.host.testgrace := by
  refine (h.runs_write (st := .param) id ((h.exec_eq rfl).trans (congrArg _ ?_))).imp fun t ⟨hframe, hans, hstores⟩ => ?_
  · refine if_neg fun hc => hr ?_
    simpa [pf, h.2.1, obsInRange, and_assoc] using hc
  · simp only [HostPort.stores, Prod.mk.injEq] at hstores
    exact ⟨hframe, hans, hstores.2⟩

/-! ### The staging buffer and the slot (R317) -/

theorem fwLoad_fills (h : s.AtHead 0x0A02 p c) (hwf : Memory.wf s.host.staging = true)
    (hfit : fieldAt p.params 0 4 + fieldAt p.params 4 4 ≤ stagingSize) : Runs (.fwLoad p) s fun t => t = { s with host := t.host } ∧
    t.Answered c .ok [] ∧
    (∀ i < fieldAt p.params 4 4, memRead t.host.staging (fieldAt p.params 0 4 + i) = (p.params.drop 8).getD i 0) ∧
    ∀ a, (∀ i < fieldAt p.params 4 4, a ≠ fieldAt p.params 0 4 + i) → memRead t.host.staging a = memRead s.host.staging a := by
  refine (h.runs_write (st := .ok) (fun x => { x with
    staging := memWriteN x.staging (fieldAt p.params 0 4) (slice p.params 8 (fieldAt p.params 4 4)) })
    ((h.exec_eq rfl).trans (congrArg _ ?_))).imp fun t ⟨hframe, hans, hstores⟩ => ?_
  · simp only [pf, h.2.1]
    exact if_neg (by omega)
  · simp only [HostPort.stores, Prod.mk.injEq] at hstores
    refine ⟨hframe, hans, fun i hi => ?_, fun a ha => ?_⟩
    · rw [hstores.1.1, memWriteN_same _ _ _ _ hwf (by simpa using hi), ← slice_getD _ _ hi, List.getD_eq_getElem]
    · rw [hstores.1.1, memWriteN_other _ _ _ _ (by simpa using ha)]

theorem fwLoad_beyond (h : s.AtHead 0x0A02 p c) (hbig : stagingSize < fieldAt p.params 0 4 + fieldAt p.params 4 4) :
    Runs (.fwLoad p) s fun t => t = { s with host := t.host } ∧ t.Answered c .length [] ∧ t.host.staging = s.host.staging := by
  refine (h.runs_write (st := .length) id ((h.exec_eq rfl).trans (congrArg _ ?_))).imp fun t ⟨hframe, hans, hstores⟩ =>
    ⟨hframe, hans, congrArg (·.1.1) hstores⟩
  simp only [pf, h.2.1]
  exact if_pos hbig

/-- The package that `FW_COMMIT` takes from the staging buffer. -/
def commitPkg (s : State) (p : Packet) : List Byte := memReadN s.host.staging 0 (min (fieldAt p.params 0 4) stagingSize)

/-- A package that verifies, of the length that the command names. -/
def commitGood (s : State) (p : Packet) : Bool :=
  fieldAt p.params 0 4 ≤ stagingSize && (pkgHdr (commitPkg s p)).pklen == fieldAt p.params 0 4 &&
    (verifyPackage s.nv s.bidx (commitPkg s p)).isNone

theorem commitGood_iff : commitGood s p = true ↔ fieldAt p.params 0 4 ≤ stagingSize ∧
    (pkgHdr (commitPkg s p)).pklen = fieldAt p.params 0 4 ∧ verifyPackage s.nv s.bidx (commitPkg s p) = none := by
  simp [commitGood, and_assoc]

/-- `FW_COMMIT` at the head, by its three outcomes. -/
theorem State.AtHead.fwCommit_eq (h : s.AtHead 0x0A03 p c) : exec (.fwCommit p) s = .next (
    let u := s.updHost HostPort.settleTail
    if s.jobsOpen != 0 || s.host.programming.isSome then u.reply c .busy
    else if commitGood s p then
      (u.updHeld c.id fun c => { c with phase := .waiting }).updHost fun h => { h with programming := some (c.id, commitPkg s p) }
    else (u.updHost fun h => { h with staging := [] }).reply c .auth) := by
  have hs : s.host.settleTail.staging = s.host.staging := by rw [HostPort.settleTail_eq]
  refine (h.exec_eq rfl).trans ?_
  simp only [h.2.1, State.updHost_host, HostPort.settleTail_programming, hs]
  rfl

theorem fwCommit_starts (h : s.AtHead 0x0A03 p c) (hj : s.jobsOpen = 0) (hp : s.host.programming = none) (hg : commitGood s p = true) :
    Runs (.fwCommit p) s fun t => t = { s with host := t.host } ∧ t.host.programming = some (c.id, commitPkg s p) ∧
      ∃ o ∈ t.host.held, o.id = c.id ∧ o.phase = .waiting := by
  refine ⟨_, h.fwCommit_eq, ?_⟩
  simp only [hj, hp, hg, bne_self_eq_false, Option.isSome_none, Bool.or_self, Bool.false_eq_true, if_false, if_true]
  exact ⟨rfl, rfl, h.waits⟩

theorem fwCommit_refuses (h : s.AtHead 0x0A03 p c) (hj : s.jobsOpen = 0) (hp : s.host.programming = none) (hg : commitGood s p ≠ true) :
    Runs (.fwCommit p) s fun t => t = { s with host := t.host } ∧ t.nv.slot = s.nv.slot ∧ t.Answered c .auth [] ∧
      t.host.programming = none ∧ t.host.staging = [] := by
  have hx := h.fwCommit_eq
  simp only [hj, hp, hg, bne_self_eq_false, Option.isSome_none, Bool.or_self, Bool.false_eq_true, if_false] at hx
  refine (h.runs_write (fun x => { x with staging := [] }) hx).imp fun t ⟨hframe, hans, hstores⟩ => ?_
  simp only [HostPort.stores, Prod.mk.injEq] at hstores
  obtain ⟨⟨hstaging, hprogramming, -⟩, -⟩ := hstores
  exact ⟨hframe, by rw [hframe], hans, hprogramming.trans hp, hstaging⟩

theorem fwCommit_busy (h : s.AtHead 0x0A03 p c) (hj : s.jobsOpen ≠ 0) : Runs (.fwCommit p) s fun t => t = { s with host := t.host } ∧
    t.Answered c .busy [] ∧ t.host.programming = s.host.programming ∧ t.host.staging = s.host.staging :=
  (h.runs_write id (h.fwCommit_eq.trans (congrArg _ (if_pos (by simp [hj]))))).imp fun t ⟨hframe, hans, hstores⟩ =>
    ⟨hframe, hans, congrArg (·.1.2.1) hstores, congrArg (·.1.1) hstores⟩

/-- The end of programming puts the package into the slot. -/
theorem fwCommitProgramDone_programs {pkg : List Byte} (hm : c ∈ s.host.held) (hu : ∀ o ∈ s.host.held, o.id = c.id → o = c)
    (hp : s.host.programming = some (c.id, pkg)) : Runs .fwCommitProgramDone s fun t =>
      t = { s with host := t.host, nv := { s.nv with slot := pkg }, boot := t.boot } ∧
      t.Answered c .ok [] ∧ t.host.programming = none ∧ t.host.staging = [] ∧ t.boot.fwlen = (pkgHdr pkg).pklen ∧
      t.boot = { s.boot with fwver := t.boot.fwver, fwlen := t.boot.fwlen } ∧ t.boot.fwver.toNat = (pkgHdr pkg).fver % 2 ^ 32 := by
  have hx : exec .fwCommitProgramDone s = execFwCommitProgramDone s := rfl
  rw [execFwCommitProgramDone, hp] at hx
  refine ⟨_, hx, rfl, State.answer_answered (by exact hm) (by exact hu) _ _ _, ?_, ?_, rfl, rfl, BitVec.toNat_ofNat ..⟩
  · exact congrArg (·.1.2.1) (State.answer_stores ..)
  · exact congrArg (·.1.1) (State.answer_stores ..)

/-! ### The calibration set (R327) -/

/-- The calibration set that `CAL_WRITE` brings. -/
def calSet (p : Packet) : List Byte := slice p.params 4 480

/-- A calibration set that passes its checks. -/
def calGood (s : State) (p : Packet) : Prop := calOk (calSet p) s.nv.serial = true ∧ fieldAt (calSet p) 0x18 1 = 1

/-- `CAL_WRITE` at the head, by its three outcomes. -/
theorem State.AtHead.calWrite_eq (h : s.AtHead 0x0B02 p c) : exec (.calWrite p) s = .next (
    let u := s.updHost HostPort.settleTail
    if !calOk (calSet p) s.nv.serial || fieldAt (calSet p) 0x18 1 != 1 then u.reply c .param
    else if s.jobsOpen != 0 || s.host.programming.isSome || s.host.calWriting.isSome then u.reply c .busy
    else (u.updHeld c.id fun c => { c with phase := .waiting }).updHost fun h => { h with calWriting := some (c.id, calSet p) }) := by
  have hw : s.host.settleTail.calWriting = s.host.calWriting := by rw [HostPort.settleTail_eq]
  refine (h.exec_eq rfl).trans ?_
  simp only [h.2.1, State.updHost_host, HostPort.settleTail_programming, hw]
  rfl

theorem calWrite_starts (h : s.AtHead 0x0B02 p c) (hg : calGood s p) (hj : s.jobsOpen = 0) (hp : s.host.programming = none)
    (hw : s.host.calWriting = none) : Runs (.calWrite p) s fun t => t = { s with host := t.host } ∧
      t.host.calWriting = some (c.id, calSet p) ∧ ∃ o ∈ t.host.held, o.id = c.id ∧ o.phase = .waiting := by
  refine ⟨_, h.calWrite_eq, ?_⟩
  simp only [hg.1, hg.2, hj, hp, hw, Bool.not_true, bne_self_eq_false, Option.isSome_none, Bool.or_self, Bool.false_eq_true, if_false]
  exact ⟨rfl, rfl, h.waits⟩

theorem calWrite_busy (h : s.AtHead 0x0B02 p c) (hg : calGood s p) (hb : s.jobsOpen ≠ 0 ∨ s.host.programming ≠ none) :
    Runs (.calWrite p) s fun t => t = { s with host := t.host } ∧ t.Answered c .busy [] ∧ t.host.calWriting = s.host.calWriting := by
  have hbusy : (s.jobsOpen != 0 || s.host.programming.isSome || s.host.calWriting.isSome) = true := by
    simpa [Option.isSome_iff_ne_none] using Or.inl hb
  have hx := h.calWrite_eq
  simp only [hg.1, hg.2, hbusy, Bool.not_true, bne_self_eq_false, Bool.or_self, Bool.false_eq_true, if_false, if_true] at hx
  exact (h.runs_write id hx).imp fun t ⟨hframe, hans, hstores⟩ => ⟨hframe, hans, congrArg (·.1.2.2) hstores⟩

theorem calWrite_refuses (h : s.AtHead 0x0B02 p c) (hg : ¬calGood s p) :
    Runs (.calWrite p) s fun t => t = { s with host := t.host } ∧ t.Answered c .param [] ∧ t.host.calWriting = s.host.calWriting := by
  have hbad : (!calOk (calSet p) s.nv.serial || fieldAt (calSet p) 0x18 1 != 1) = true := by
    simpa [calGood, imp_iff_not_or] using hg
  exact (h.runs_write id (h.calWrite_eq.trans (congrArg _ (if_pos hbad)))).imp fun t ⟨hframe, hans, hstores⟩ =>
    ⟨hframe, hans, congrArg (·.1.2.2) hstores⟩

/-- The end of the write puts the set into the non-volatile store. -/
theorem calWriteDone_writes {b : List Byte} (hm : c ∈ s.host.held) (hu : ∀ o ∈ s.host.held, o.id = c.id → o = c)
    (hw : s.host.calWriting = some (c.id, b)) : Runs .calWriteDone s fun t =>
      t = { s with host := t.host, nv := { s.nv with cal := b } } ∧ t.Answered c .ok [] ∧ t.host.calWriting = none := by
  have hx : exec .calWriteDone s = execCalWriteDone s := rfl
  rw [execCalWriteDone, hw] at hx
  exact ⟨_, hx, rfl, State.answer_answered (by exact hm) (by exact hu) _ _ _, congrArg (·.1.2.2) (State.answer_stores ..)⟩

end

end Sys2Proof.Machine

section
open Sys2Proof Sys2Proof.Machine

/-- Settles O11: by the outcomes of each command, and by the ends of the two writes. -/
theorem deviceWritesTakeEffect : Obligations.DeviceWritesTakeEffect := by
  intro p c s
  refine ⟨fun h => ?_, fwLoad_fills, fwLoad_beyond, fun h hj hp => ⟨?_, ?_⟩, fwCommit_busy, fun _ => fwCommitProgramDone_programs,
    fun h => ⟨fun hg => calWrite_starts h hg, calWrite_busy h, calWrite_refuses h⟩, fun _ => calWriteDone_writes⟩
  · by_cases hr : obsInRange p
    · exact (obsSet_takes h hr).imp fun t ⟨hframe, ht⟩ => ⟨hframe, (if_pos hr).mpr ht⟩
    · exact (obsSet_refuses h hr).imp fun t ⟨hframe, ht⟩ => ⟨hframe, (if_neg hr).mpr ht⟩
  · exact fun hg => fwCommit_starts h hj hp (commitGood_iff.2 hg)
  · exact fun hg => fwCommit_refuses h hj hp (mt commitGood_iff.1 hg)

end

/-! ## What every operation keeps (R244, R248, R283, R292, R357)

The rows of the table are built from a few hundred operations on the state, and almost all of them keep the same things: they touch neither the
queue of commands nor the non-volatile contents, the module, boot or the partition view, they write the byte memories in canonical form, and
they post records and reports only through the operations that drop the oldest where the room is used up.  `State.Keeps` says so once; one lemma
for each operation follows, in the order of the model's files, each the composition of the lemmas of what it calls. -/

namespace Sys2Proof.Machine

-- A side condition that `edit` or `updPlane` fills waits for the kernel's check of all theorems before it: one after another, none holds a thread.
set_option Elab.async false

/-! ### The host port block -/

/-- What the rules of the whole machine say of the host port block: its memories and records, the counters of R357, and the enable and the
offsets of R283. -/
def HostPort.guarded (h : HostPort) : (Mem × Mem × List Reply × List ErrRec) × (Nat × Nat) × (Bool × Nat × Nat × Nat) :=
  ((h.aperture, h.staging, h.reports, h.herrLog), (h.caovrun, h.rptlost), (h.raen, h.catail, h.caexp, h.lastLen))

/-- The host port block's part of `State.Inv`. -/
def HostPort.Fits (h : HostPort) : Prop :=
  Memory.wf h.aperture = true ∧ Memory.wf h.staging = true ∧ h.reports.length ≤ 256 ∧ h.herrLog.length ≤ 256

/-- While the reply area is disabled, the offsets of the aperture are 0 (R283). -/
def HostPort.Idle (h : HostPort) : Prop := h.raen = false → h.catail = 0 ∧ h.caexp = 0 ∧ h.lastLen = 0

/-- What every operation keeps of the host port block: no operation enables the reply area or clears a counter of R357. -/
structure HostPort.Keeps (h h' : HostPort) : Prop where
  fits : h.Fits → h'.Fits
  idle : h.Idle → h'.Idle
  raen : h'.raen = true → h.raen = true
  caovrun : h'.caovrun = h.caovrun
  rptlost : h.rptlost ≤ 0xFFFFFFFF → h.rptlost ≤ h'.rptlost ∧ h'.rptlost ≤ 0xFFFFFFFF

/-- An edit of the memories and records alone. -/
theorem HostPort.Keeps.of_fits {h h' : HostPort} (fits : h.Fits → h'.Fits) (e : h'.guarded.2 = h.guarded.2 := by rfl) : h.Keeps h' := by
  simp only [HostPort.guarded, Prod.mk.injEq] at e
  obtain ⟨⟨hc, hp⟩, he, h1, h2, h3⟩ := e
  refine ⟨fits, ?_, ?_, hc, ?_⟩ <;> simp only [HostPort.Idle, hp, he, h1, h2, h3, imp_self, le_refl, true_and]

theorem HostPort.Keeps.of_guarded {h h' : HostPort} (e : h'.guarded = h.guarded) : h.Keeps h' := by
  refine .of_fits ?_ (congrArg (·.2) e)
  simp only [HostPort.guarded, Prod.mk.injEq] at e
  obtain ⟨⟨ha, hs, hr, hl⟩, -⟩ := e
  simp only [HostPort.Fits, ha, hs, hr, hl, imp_self]

theorem HostPort.Keeps.refl (h : HostPort) : h.Keeps h := .of_guarded rfl

theorem HostPort.Keeps.trans {a b c : HostPort} (h : a.Keeps b) (g : b.Keeps c) : a.Keeps c where
  fits := g.fits ∘ h.fits
  idle := g.idle ∘ h.idle
  raen := h.raen ∘ g.raen
  caovrun := g.caovrun.trans h.caovrun
  rptlost e := ⟨(h.rptlost e).1.trans (g.rptlost (h.rptlost e).2).1, (g.rptlost (h.rptlost e).2).2⟩

/-- Where the reply area is enabled and stays so, the offsets are free. -/
theorem HostPort.Keeps.of_raen {h h' : HostPort} (hr : h.raen = true) (hr' : h'.raen = true) (fits : h.Fits → h'.Fits)
    (hc : h'.caovrun = h.caovrun) (hl : h'.rptlost = h.rptlost) : h.Keeps h' where
  fits := fits
  idle _ e := by simp [hr'] at e
  raen _ := hr
  caovrun := hc
  rptlost e := by rw [hl]; exact ⟨le_refl _, e⟩

/-- Settling the tail moves no offset of a disabled area. -/
theorem HostPort.settleTail_keeps (h : HostPort) : h.Keeps h.settleTail := by
  unfold HostPort.settleTail
  split
  · exact .refl h
  · next hl =>
    exact ⟨id, fun hi e => absurd (hi e).2.2 hl, id, rfl, fun e => ⟨le_refl _, e⟩⟩

/-- The end of a drain disables the area with its offsets at 0 (R360). -/
theorem HostPort.endDrain_keeps (h : HostPort) : h.Keeps h.endDrain := by
  unfold HostPort.endDrain
  split
  · exact ⟨fun ⟨_, hs, hr, hl⟩ => ⟨rfl, hs, hr, hl⟩, fun _ _ => ⟨rfl, rfl, rfl⟩, (nomatch ·), rfl, fun e => ⟨le_refl _, e⟩⟩
  · exact .refl h

theorem HostPort.barriers_keeps (h : HostPort) : h.Keeps h.barriers := .of_guarded (by unfold HostPort.barriers; rw [HostPort.barriersFuel_eq]; rfl)

theorem HostPort.complete_keeps (h : HostPort) (id : Nat) (st : Status) (pm : Byte) (pl : List Byte) : h.Keeps (h.complete id st pm pl) :=
  .of_guarded (by rw [HostPort.complete_eq]; rfl)

/-- An answered command lets barriers complete and a drain end. -/
theorem HostPort.Keeps.barriers_endDrain {h h' : HostPort} (g : h.Keeps h') : h.Keeps h'.barriers.endDrain :=
  g.trans (h'.barriers_keeps.trans (HostPort.endDrain_keeps _))

/-! ### The state -/

/-- What no operation but a few rows of their own touches: the queue, the non-volatile contents, the module, boot and the partition view. -/
def State.fixed (s : State) : List Instr × NonVol × Module × Boot × PartView := (s.pending, s.nv, s.mod, s.boot, s.part)

/-- What every operation keeps. -/
structure State.Keeps (s t : State) : Prop where
  fixed : t.fixed = s.fixed
  host : s.host.Keeps t.host
  hostMem : Memory.wf s.out.hostMem = true → Memory.wf t.out.hostMem = true
  errLog : ∀ k, (s.plane k).errLog.length ≤ 1024 → (t.plane k).errLog.length ≤ 1024

theorem State.Keeps.refl (s : State) : s.Keeps s := ⟨rfl, .refl _, id, fun _ => id⟩

theorem State.Keeps.trans {a b c : State} (h : a.Keeps b) (g : b.Keeps c) : a.Keeps c :=
  ⟨g.fixed.trans h.fixed, h.host.trans g.host, g.hostMem ∘ h.hostMem, fun k => g.errLog k ∘ h.errLog k⟩

theorem State.Keeps.inv {s t : State} (h : s.Keeps t) (hi : s.Inv) : t.Inv := by
  obtain ⟨ha, hs, hm, hr, hl, hp⟩ := hi
  obtain ⟨ha, hs, hr, hl⟩ := h.host.fits ⟨ha, hs, hr, hl⟩
  exact ⟨ha, hs, h.hostMem hm, hr, hl, fun k => h.errLog k (hp k)⟩

/-- Both ways of a choice. -/
theorem State.Keeps.ite {s₀ : State} {c : Prop} [Decidable c] {a b : State} (ha : s₀.Keeps a) (hb : s₀.Keeps b) :
    s₀.Keeps (if c then a else b) := by
  split <;> assumption

/-- One way of a choice goes on from the other. -/
theorem State.Keeps.when {s₀ : State} {c : Prop} [Decidable c] {a b : State} (hb : s₀.Keeps b) (ha : s₀.Keeps b → s₀.Keeps a) :
    s₀.Keeps (if c then a else b) := .ite (ha hb) hb

theorem State.Keeps.unless {s₀ : State} {c : Prop} [Decidable c] {a b : State} (ha : s₀.Keeps a) (hb : s₀.Keeps a → s₀.Keeps b) :
    s₀.Keeps (if c then a else b) := .ite ha (hb ha)

/-- The state of an operation that answers a value too. -/
theorem State.Keeps.snd {s₀ t : State} {α : Type} {a : α} (h : s₀.Keeps t) : s₀.Keeps (a, t).2 := h

theorem State.Keeps.iteSnd {s₀ : State} {α : Type} {c : Prop} [Decidable c] {p q : α × State} (hp : s₀.Keeps p.2) (hq : s₀.Keeps q.2) :
    s₀.Keeps (if c then p else q).2 := by
  split <;> assumption

section
variable {s₀ s : State} (h : s₀.Keeps s)
include h

/-- An edit of the host port block, the host's memory, and what no rule of the whole machine speaks of. -/
theorem State.Keeps.editHost {n : Nat} {hp : HostPort} {c : Combiner} {g : List Nat} {j : List Job} {o : Outputs} (eh : s.host.Keeps hp)
    (eo : Memory.wf s.out.hostMem = true → Memory.wf o.hostMem = true := by exact id) :
    s₀.Keeps ⟨s.pending, n, s.nv, s.mod, s.boot, s.part, hp, c, g, j, s.planes, o⟩ := h.trans ⟨rfl, eh, eo, fun _ => id⟩

/-- An edit that leaves the host port block's guarded fields and the host's memory as they are. -/
theorem State.Keeps.edit {n : Nat} {hp : HostPort} {c : Combiner} {g : List Nat} {j : List Job} {o : Outputs}
    (eh : hp.guarded = s.host.guarded := by rfl) (eo : o.hostMem = s.out.hostMem := by rfl) :
    s₀.Keeps ⟨s.pending, n, s.nv, s.mod, s.boot, s.part, hp, c, g, j, s.planes, o⟩ := h.editHost (.of_guarded eh) fun w => by rwa [eo]

theorem State.Keeps.onHost {f : HostPort → HostPort} (e : s.host.Keeps (f s.host)) : s₀.Keeps (s.updHost f) := h.editHost e

theorem State.Keeps.updHost {f : HostPort → HostPort} (e : ∀ h, (f h).guarded = h.guarded := by exact fun _ => rfl) : s₀.Keeps (s.updHost f) :=
  h.edit (e _)

theorem State.Keeps.setPlane {k : PlaneIx} {p : Plane} (hp : (s₀.plane k).errLog.length ≤ 1024 → p.errLog.length ≤ 1024) :
    s₀.Keeps (s.setPlane k p) := by
  refine ⟨h.fixed, h.host, h.hostMem, fun q hq => ?_⟩
  rw [plane_setPlane]
  split
  · next e => exact hp (e ▸ hq)
  · exact h.errLog q hq

/-- An edit of a plane that may write its error log. -/
theorem State.Keeps.updPlaneLog {k : PlaneIx} {f : Plane → Plane} (hf : ∀ p, p.errLog.length ≤ 1024 → (f p).errLog.length ≤ 1024) :
    s₀.Keeps (s.updPlane k f) := h.setPlane fun hk => hf _ (h.errLog k hk)

theorem State.Keeps.updPlane {k : PlaneIx} {f : Plane → Plane} (hf : ∀ p, (f p).errLog = p.errLog := by exact fun _ => rfl) :
    s₀.Keeps (s.updPlane k f) := h.updPlaneLog fun p hp => by rwa [hf]

/-- One entry of a list after another. -/
theorem State.Keeps.each {α : Type} {l : List α} {f : State → α → State} (hf : ∀ s a, s₀.Keeps s → s₀.Keeps (f s a)) :
    s₀.Keeps (s.each l f) := by
  induction l generalizing s with
  | nil => exact h
  | cons a l ih => exact ih (hf s a h)

end

/-! ### What changes a plane leaves its error log alone -/

theorem Plane.pushDown_errLog (p : Plane) (w : DownWord) : (p.pushDown w).errLog = p.errLog := by
  unfold Plane.pushDown
  split <;> rfl

theorem Plane.pushUp_errLog (p : Plane) (x : Pair) : (p.pushUp x).errLog = p.errLog := by
  unfold Plane.pushUp
  split <;> rfl

theorem Plane.setQueue_errLog (p : Plane) (q : Nat) (x : StageQ) : (p.setQueue q x).errLog = p.errLog := by
  unfold Plane.setQueue
  split <;> rfl

theorem Plane.sample_errLog (p : Plane) (block : Nat) : (p.sample block).2.errLog = p.errLog := by
  unfold Plane.sample
  split <;> rfl

theorem Plane.release_errLog (p : Plane) (k : PlaneIx) (part : PartView) (cal : List Byte) : (p.release k part cal).errLog = p.errLog := by
  unfold Plane.release
  split <;> rfl

theorem Plane.flowFuel_errLog (n : Nat) : ∀ p : Plane, (p.flowFuel n).errLog = p.errLog := by
  induction n with
  | zero => exact fun _ => rfl
  | succ n ih =>
    intro p
    unfold Plane.flowFuel
    split
    · rfl
    · split
      · exact ih _
      · split
        · rfl
        · exact ih _

theorem Plane.flow_errLog (p : Plane) : p.flow.errLog = p.errLog := by
  unfold Plane.flow
  dsimp only
  split <;> exact p.flowFuel_errLog _

/-! ### A log that drops its oldest record (R248) -/

theorem logAdd_length_le {log : List ErrRec} {cap : Nat} (hc : 0 < cap) (hl : log.length ≤ cap) (r : ErrRec) :
    (logAdd log cap r).1.length ≤ cap := by
  unfold logAdd
  split
  · next hlt =>
    simp only [List.length_append, List.length_singleton]
    omega
  · simp only [List.length_append, List.length_drop, List.length_singleton]
    omega

/-! ### Outcomes -/

/-- The outcome of a row's meaning goes on to a state of which `P` holds; of the row itself `Runs` says so. -/
def Goes (o : Out) (P : State → Prop) : Prop := ∃ t, o = .next t ∧ P t

theorem Goes.next {P : State → Prop} {t : State} (ht : P t) : Goes (.next t) P := ⟨t, rfl, ht⟩

theorem Goes.ite {P : State → Prop} {c : Prop} [Decidable c] {a b : Out} (ha : Goes a P) (hb : Goes b P) : Goes (if c then a else b) P := by
  split <;> assumption

/-! ### Edits, queues and answers (R19, R284, R288, R291) -/

section
variable {s₀ s : State} (h : s₀.Keeps s) {multi : Bool} {b bkt code dev gen id job layer m n op : Nat} {c : PlaneCmd} {d lane : DevLane}
  {f src : Frame} {j : Job} {k : PlaneIx} {keep : Keep} {l : LaneIx} {ms : List Nat} {p : Packet} {payload sec : List Byte} {pj : PJob}
  {pmask : Byte} {ps : List PlaneIx} {st : Status} {unit : W32}
include h

theorem State.Keeps.updLane {f : Lane → Lane} : s₀.Keeps (s.updLane d f) := h.updPlane
theorem State.Keeps.takeFresh : s₀.Keeps (s.takeFresh).2 := h.edit
theorem State.Keeps.laneCtr {c : LCtr} : s₀.Keeps (s.laneCtr d c n) := h.updLane
theorem State.Keeps.planeCtr {c : PCtr} : s₀.Keeps (s.planeCtr k c n) := h.updPlane
theorem State.Keeps.frmDrop : s₀.Keeps (s.frmDrop k) := h.planeCtr
theorem State.Keeps.updJob {f : Job → Job} : s₀.Keeps (s.updJob id f) := h.edit
theorem State.Keeps.updPJob {f : PJob → PJob} : s₀.Keeps (s.updPJob k id f) := h.updPlane
theorem State.Keeps.jobCtr {c : JCtr} : s₀.Keeps (s.jobCtr k id c n) := h.updPJob
theorem State.Keeps.jobCtr64 {c : JCtr} : s₀.Keeps (s.jobCtr64 k id c n) := h.updPJob
theorem State.Keeps.updShare {f : Share → Share} : s₀.Keeps (s.updShare k id b f) := h.updPJob
theorem State.Keeps.msixSend {v : Fin 3} : s₀.Keeps (s.msixSend v) := .ite h.edit h.edit
theorem State.Keeps.setErrsum {bits : List Nat} : s₀.Keeps (s.setErrsum bits) := .ite h.edit.msixSend h.edit
theorem State.Keeps.badAcc : s₀.Keeps s.badAcc := h.setErrsum

theorem State.Keeps.report {status : Nat} : s₀.Keeps (s.report code status job pmask payload) := by
  unfold State.report
  dsimp only
  split
  · next hl =>
    exact h.editHost (.of_fits fun ⟨ha, hs, _, he⟩ => ⟨ha, hs, by simpa using hl, he⟩)
  · refine State.Keeps.setErrsum (h.editHost ?_)
    refine ⟨fun ⟨ha, hs, hr, he⟩ => ⟨ha, hs, ?_, he⟩, id, id, rfl, fun e => ?_⟩
    · simp only [List.length_append, List.length_drop, List.length_singleton]
      omega
    · simp only [satAdd]
      omega

theorem State.Keeps.place {d : Desc} : s₀.Keeps (s.place k l d) := .ite h.laneCtr (.ite h.laneCtr h.updLane)
theorem State.Keeps.enqueue {d : Desc} : s₀.Keeps (s.enqueue k l d) := .ite h.updPlane h.place

theorem State.Keeps.replicatorFuel : s₀.Keeps (State.replicatorFuel k n s) := by
  induction n generalizing s with
  | zero => exact h
  | succ n ih =>
    unfold State.replicatorFuel
    split
    · exact h
    · split
      · exact h
      · dsimp only
        split
        exacts [ih h.updPlane, ih h.updPlane.place]

theorem State.Keeps.replicator : s₀.Keeps (s.replicator k) := h.replicatorFuel.updPlane Plane.flow_errLog

theorem State.Keeps.toDevice : s₀.Keeps (s.toDevice k j dev f bkt multi keep) := by
  unfold State.toDevice
  split
  exacts [h, h.enqueue]

theorem State.Keeps.toTree : s₀.Keeps (s.toTree k j pj dev f) := .ite h h.toDevice
theorem State.Keeps.toMember : s₀.Keeps (s.toMember k j pj m f multi) := .ite h.enqueue h.toDevice
theorem State.Keeps.toLocal : s₀.Keeps (s.toLocal k j pj ms f keep) := h.each fun _ _ h => h.enqueue
theorem State.Keeps.multicast : s₀.Keeps (s.multicast k j pj ms f) := h.toLocal.each fun _ _ h => h.toTree
theorem State.Keeps.multicastAll : s₀.Keeps (s.multicastAll k j pj f) := h.toLocal.each fun _ _ h => h.each fun _ _ h => h.enqueue

theorem State.Keeps.replyTo : s₀.Keeps (s.replyTo lane src f) := by
  refine .ite ?_ h.enqueue
  split
  exacts [h.toDevice, h.enqueue]

theorem State.Keeps.status {retry : Nat} : s₀.Keeps (s.status lane src st retry gen layer) := h.replyTo
theorem State.Keeps.fmtRej : s₀.Keeps (s.fmtRej k) := h.updPlane

theorem State.Keeps.arith {fl : W32} : s₀.Keeps (s.arith k job unit fl) := by
  unfold State.arith
  exact h.updPlane

theorem State.Keeps.dispatch {f : Held → State → State} (hf : ∀ c s, s₀.Keeps s → s₀.Keeps (f c s)) : s₀.Keeps (s.dispatch op p f) := by
  unfold State.dispatch
  split
  exacts [h, .ite (hf _ _ (h.onHost (HostPort.settleTail_keeps _))) h]

theorem State.Keeps.updHeld {f : Held → Held} : s₀.Keeps (s.updHeld id f) := h.updHost
theorem State.Keeps.answer : s₀.Keeps (s.answer id st payload pmask) := h.onHost (HostPort.complete_keeps ..).barriers_endDrain
theorem State.Keeps.finishHeld {c : Held} : s₀.Keeps (s.finishHeld c) := .ite h.answer h.answer

theorem State.Keeps.planeAnswer : s₀.Keeps (s.planeAnswer id k st sec) := by
  unfold State.planeAnswer
  split
  exacts [h, .ite (.ite h.updHeld.finishHeld h.updHeld) h]

theorem State.Keeps.deliverLeft : s₀.Keeps (s.deliverLeft k id) := h.updHeld

theorem State.Keeps.refillCmdIn : s₀.Keeps (s.refillCmdIn k) := by
  refine .ite h ?_
  split
  · exact h.updHost.updPlane
  · split
    exacts [h, h.deliverLeft.updPlane]

theorem State.Keeps.handOut {c : Held} {extra : List Byte} : s₀.Keeps (s.handOut c ps extra) :=
  .ite h.updHeld.answer (h.updHeld.each fun _ _ h => .ite (.ite h.updPlane h.updHeld) h.planeAnswer)

theorem State.Keeps.reply {c : Held} : s₀.Keeps (s.reply c st payload) := h.answer
theorem State.Keeps.replyPlanes {c : Held} : s₀.Keeps (s.replyPlanes c ps st sec) := h.answer

end

/-! ### Fences and reclaims (R12, R148, R160) -/

section
variable {s₀ s : State} (h : s₀.Keeps s) {now : Bool} {b cause dev devs id m step : Nat} {c : PlaneCmd} {d : DevLane} {j : Job}
  {k : PlaneIx} {pj : PJob} {r : Rebuild} {st : Status} {w : Wait}
include h

theorem State.Keeps.jobReport : s₀.Keeps (s.jobReport j st cause) := h.report

theorem State.Keeps.reclaimReport : s₀.Keeps (s.reclaimReport j st) := by
  unfold State.reclaimReport
  split
  exacts [h, h.report]

theorem State.Keeps.releaseGroups : s₀.Keeps (s.releaseGroups j) := h.edit

theorem State.Keeps.settleJob : s₀.Keeps (s.settleJob id) := by
  unfold State.settleJob
  split
  exacts [h, .ite h (.ite (.ite h.updJob.releaseGroups.jobReport.reclaimReport h) (.ite h.updJob.releaseGroups.reclaimReport h))]

theorem State.Keeps.endWait : s₀.Keeps (s.endWait k w st) := by
  unfold State.endWait
  dsimp only
  split
  · exact h.updPlane.planeAnswer
  · split
    exacts [h.updPlane.toMember, h.updPlane]

theorem State.Keeps.endWaits : s₀.Keeps (s.endWaits k id st) := h.each fun _ _ h => h.endWait

theorem State.Keeps.logWritten {slot : Nat} : s₀.Keeps (s.logWritten k id slot) := by
  unfold State.logWritten
  split
  exacts [h.each fun _ _ h => h.toMember, h]

theorem State.Keeps.endReads : s₀.Keeps (s.endReads k id) := h.updPlane.each fun _ _ h => h.planeAnswer
theorem State.Keeps.endApply : s₀.Keeps (s.endApply k c) := .ite h.planeAnswer h.planeAnswer

theorem State.Keeps.fencePlane : s₀.Keeps (s.fencePlane k id) := by
  unfold State.fencePlane
  split
  exacts [.ite h (.settleJob (.updPJob (.when (h.endReads.updPlane.endWaits.each fun _ _ h => h.endApply).updPlane fun h => h.multicastAll))), h]

theorem State.Keeps.fenceJob : s₀.Keeps (s.fenceJob id cause) := by
  unfold State.fenceJob
  split
  exacts [h, .ite h (h.updJob.edit.each fun _ _ h => h.updPlane fun _ => Plane.pushDown_errLog ..).settleJob]

theorem State.Keeps.applyFence : s₀.Keeps (s.applyFence k id m) := by
  unfold State.applyFence
  dsimp only
  split
  exacts [.ite h.updPlane (.updPJob (.updPlane (.jobCtr (.updPlane (.when h.updPlane fun h => h.updLane))))), h.updPlane]

theorem State.Keeps.loseMember : s₀.Keeps (s.loseMember id m) := by
  unfold State.loseMember
  split
  exacts [h, .ite h (h.updJob.each fun _ _ h => h.updPlane)]

theorem State.Keeps.normCheck : s₀.Keeps (s.normCheck k id step) := by
  unfold State.normCheck
  split
  exacts [h, .ite (h.arith.updPlane fun _ => Plane.pushUp_errLog ..) h]

theorem State.Keeps.noticeCheck {c : NoticeCopy} : s₀.Keeps (s.noticeCheck k c now) := by
  unfold State.noticeCheck
  split
  exacts [.ite (.updPlane (.ite h h.toLocal)) (.when (.ite h h.toLocal) fun h => .updPlane h), h]

theorem State.Keeps.shardReport {action : Nat} : s₀.Keeps (s.shardReport k j pj b action devs) := h.report

theorem State.Keeps.takeGathers : s₀.Keeps (s.takeGathers k j b).2 := by
  unfold State.takeGathers
  dsimp only
  exact h.updPlane

theorem State.Keeps.answerGathers : s₀.Keeps (s.answerGathers k j b st) := by
  unfold State.answerGathers
  dsimp only
  exact h.takeGathers.updPlane.each fun _ _ h => h.status.frmDrop

theorem State.Keeps.stopShare {lost : Bool} : s₀.Keeps (s.stopShare k j pj b devs lost) := h.updShare.answerGathers.shardReport
theorem State.Keeps.haltShare : s₀.Keeps (s.haltShare k j pj b devs) := h.stopShare
theorem State.Keeps.loseShare : s₀.Keeps (s.loseShare k j pj b devs) := h.stopShare
theorem State.Keeps.tellCopies {devs : List Nat} : s₀.Keeps (s.tellCopies k j pj b dev st devs) := h.each fun _ _ h => h.toDevice

theorem State.Keeps.restartRebuild : s₀.Keeps (s.restartRebuild k j pj b r) := by
  unfold State.restartRebuild
  split
  · exact h
  · split
    exacts [h.loseShare, .ite h.haltShare h.jobCtr.updShare.tellCopies]

theorem State.Keeps.sourcesGone : s₀.Keeps (s.sourcesGone k j) := by
  unfold State.sourcesGone
  split
  exacts [h, h.each fun _ _ h => h.each fun _ _ h => .ite h h.restartRebuild]

theorem State.Keeps.reportLost : s₀.Keeps (s.reportLost k) := by
  refine h.each fun s x h => ?_
  split
  exacts [h, h.each fun _ _ h => h.shardReport]

theorem State.Keeps.cutFibre : s₀.Keeps (s.cutFibre d).2 := by
  unfold State.cutFibre
  dsimp only
  exact .iteSnd h.updLane.edit.snd h

theorem State.Keeps.laneLost : s₀.Keeps (s.laneLost d) := by
  unfold State.laneLost
  dsimp only
  refine .replicator (.ite (.each (.each (.each (.each (.laneCtr ?h₁) fun _ _ h => h.updJob.updPJob) fun _ _ h => ?_) fun s j h => ?_)
    fun _ _ h => h.noticeCheck) (.each (.laneCtr ?h₁) fun s j h => ?_))
  · exact h.updLane.cutFibre
  · exact h.each fun _ _ h => h.loseMember
  · split
    exacts [h.normCheck.sourcesGone, h]
  · split
    exacts [h.loseMember, h]

theorem State.Keeps.setLane {st : LState} {f : Lane → Lane} : s₀.Keeps (s.setLane d st f) := h.updLane
theorem State.Keeps.laneDown {st : LState} : s₀.Keeps (s.laneDown d cause st) := .ite h h.setLane.laneCtr.report.laneLost

theorem State.Keeps.dropPlaneJobs : s₀.Keeps (s.dropPlaneJobs k cause) := by
  unfold State.dropPlaneJobs
  extract_lets named s₁ s₂ s₃ s₄ s₅ s₆ s₇ s₈ s₉
  have h₂ : s₀.Keeps s₂ := (h.each fun _ _ h => h.endReads).each fun _ _ h => h.endWait
  have h₄ : s₀.Keeps s₄ := (h₂.each fun _ _ h => h.endApply).each fun _ _ h => h.planeAnswer
  have h₆ : s₀.Keeps s₆ := h₄.updHost.each fun _ _ h => h.deliverLeft.planeAnswer
  have h₈ : s₀.Keeps s₈ := h₆.updPlane.each fun _ _ h => h.updJob
  exact (h₈.each fun _ _ h => h.fenceJob).each fun _ _ h => h.settleJob

theorem State.Keeps.setHpFault {bit : Nat} : s₀.Keeps (s.setHpFault bit) := .ite h h.updHost.setErrsum

theorem State.Keeps.retirePlane {rail : Bool} : s₀.Keeps (s.retirePlane k rail) :=
  (h.reportLost.updPlane.updPlane.each fun _ _ h => h.planeAnswer).dropPlaneJobs.setHpFault

end

/-! ### Error records (R244, R248) -/

section
variable {s₀ s : State} (h : s₀.Keeps s) {underObs : Bool} {b block disp id job n q redund : Nat} {e : ErrInfo} {f : Frame}
  {fs : List WordFault} {k : PlaneIx} {ws : List W32}
include h

theorem State.Keeps.writeRecord : s₀.Keeps (s.writeRecord k e disp underObs) := by
  unfold State.writeRecord
  dsimp only
  refine .unless (.setErrsum (.when ?_ fun h => h.planeCtr.setErrsum)) fun h => h.report
  exact h.takeFresh.setPlane fun hk => logAdd_length_le (by decide) (h.errLog k hk) _

theorem State.Keeps.retireUnit {index : Nat} : s₀.Keeps (s.retireUnit k block index job) := by
  unfold State.retireUnit
  extract_lets s₁
  have h₁ : s₀.Keeps s₁ := .ite h h.updPlane
  split
  · exact .ite h₁.laneDown.updLane.updLane h₁.laneDown.updLane.setLane
  exacts [h₁.updPlane, h₁.updPlane, h₁.updPlane, h₁.updPlane, h₁.retirePlane]

theorem State.Keeps.error : s₀.Keeps (s.error k e) := by
  unfold State.error
  dsimp only
  exact .when h.writeRecord.updPlane fun h => h.updPlane.retireUnit

theorem State.Keeps.hostRecord : s₀.Keeps (s.hostRecord e disp underObs) := by
  unfold State.hostRecord
  dsimp only
  refine .unless (.setErrsum (.when ?_ fun h => h.setErrsum)) fun h => h.report
  refine h.takeFresh.onHost (.of_fits fun ⟨ha, hs, hr, hl⟩ => ⟨ha, hs, hr, ?_⟩)
  exact logAdd_length_le (by decide) hl _

theorem State.Keeps.combError {chain : Nat} : s₀.Keeps (s.combError chain e) := by
  unfold State.combError
  dsimp only
  exact .when h.hostRecord.edit fun h => h.edit.setHpFault

theorem State.Keeps.poison : s₀.Keeps (s.poison k id b) := h.updPJob
theorem State.Keeps.overflow : s₀.Keeps (s.overflow k id b) := h.updPJob

theorem State.Keeps.itemChecked : s₀.Keeps (s.itemChecked k block redund).2 := by
  unfold State.itemChecked
  dsimp only
  split
  · exact h.setPlane fun hk => by rw [Plane.sample_errLog]; exact h.errLog k hk
  · exact h

theorem State.Keeps.checkItem {lane : Nat → Nat} : s₀.Keeps (s.checkItem k redund e ws fs lane).2.2 := by
  unfold State.checkItem
  dsimp only
  split
  · exact h.itemChecked.error
  · split
    exacts [h.itemChecked, h.itemChecked.error]

theorem State.Keeps.parityRead : s₀.Keeps (s.parityRead k e n).2 := by
  unfold State.parityRead
  exact .iteSnd h (.iteSnd h.error.snd h.error.error.snd)

theorem State.Keeps.loseStored {x : StoredFault} : s₀.Keeps (s.loseStored k f x q) := h.frmDrop.error

theorem State.Keeps.loseRecord : s₀.Keeps (s.loseRecord k n) := by
  unfold State.loseRecord
  refine h.error.updPlaneLog fun p hp => ?_
  split
  · rw [List.length_dropLast, List.length_set]
    exact (Nat.sub_le ..).trans hp
  · exact hp

theorem State.Keeps.loseHeld : s₀.Keeps (s.loseHeld k n) := by
  unfold State.loseHeld
  split
  exacts [h, h.updPlane.loseStored]

theorem State.Keeps.ctlFault {c : CtlFault} : s₀.Keeps (s.ctlFault k e c).2 := by
  unfold State.ctlFault
  cases c <;> dsimp only
  case bothCopies => exact .unless h.error fun h => h.retirePlane
  case shardWord => exact .when h.parityRead fun h => h.poison
  exacts [h, h.error, h.error, h.error.updPlane, h.error.updPlane, h.error.updPlane, h.error.updPlane, h.error.updPlane, h.loseRecord, h.loseHeld]

theorem State.Keeps.workFault {w : ItemFault} : s₀.Keeps (s.workFault k job w) := h.ctlFault

end

/-! ### Lanes and engines (R220 to R231) -/

section
variable {s₀ s : State} (h : s₀.Keeps s) {cause n : Nat} {d : DevLane} {t : TrainInfo}
include h

theorem State.Keeps.updEngine {e : Fin 16} {f : Engine → Engine} : s₀.Keeps (s.updEngine e f) := h.updPlane
theorem State.Keeps.miswiredReport : s₀.Keeps (s.miswiredReport d t) := h.report
theorem State.Keeps.trainErrs : s₀.Keeps (s.trainErrs d n) := .ite h h.laneCtr

theorem State.Keeps.setOrder : s₀.Keeps (s.setOrder d t).2 := by
  unfold State.setOrder
  dsimp only
  split
  exacts [.iteSnd (.iteSnd h.updEngine.snd (.iteSnd (h.updEngine.each fun _ _ h => h.updLane).snd h)) h, h]

theorem State.Keeps.patternLock : s₀.Keeps (s.patternLock d t) := by
  unfold State.patternLock
  dsimp only
  refine .ite h (.ite ?h₁ (.ite (.when (.updLane ?h₁) fun h => h.setLane) (.unless (.updLane ?h₁) fun h => h.setLane.miswiredReport)))
  exact h.trainErrs.updLane.setOrder

theorem State.Keeps.lossOfLight : s₀.Keeps (s.lossOfLight d) := by
  refine .ite h (.ite (.laneDown ?h₁) (.when (.updLane ?h₁) fun h => .setLane h))
  exact .updLane (.unless h fun h => h.laneCtr)

theorem State.Keeps.linkLoss : s₀.Keeps (s.linkLoss d cause) := .ite h.laneDown (.ite h.updLane h)
theorem State.Keeps.dormantIn : s₀.Keeps (s.dormantIn d) := .ite h (.ite (.updLane (.ite h.laneDown h.setLane)) (.ite h.laneDown h))
theorem State.Keeps.txFault {engine : Bool} : s₀.Keeps (s.txFault d engine) := .ite h (.error (.updLane (.ite h.laneDown h.setLane)))
theorem State.Keeps.bringUp : s₀.Keeps (s.bringUp d t) := .when h.trainErrs fun h => h.setLane.report
theorem State.Keeps.lightIn : s₀.Keeps (s.lightIn d) := .ite h (.when h.updLane fun h => h.setLane)
theorem State.Keeps.wakeLane : s₀.Keeps (s.wakeLane d) := .ite h.setLane h
theorem State.Keeps.flipPolarity {e : Fin 16} : s₀.Keeps (s.flipPolarity e) := .ite (h.updEngine.each fun _ _ h => h.laneCtr) h
theorem State.Keeps.flipDone {e : Fin 16} {lit : BitVec 8} : s₀.Keeps (s.flipDone e lit) := .ite h (h.updEngine.each fun _ _ h => h.lightIn)

end

/-! ### Egress and shaping (R200 to R209) -/

section
variable {s₀ s : State} (h : s₀.Keeps s) {job q : Nat} {d : DevLane} {k : PlaneIx} {l : LaneIx} {x : Desc}
include h

theorem State.Keeps.loseEntry {e : QEntry} : s₀.Keeps (s.loseEntry k q e) := .ite h.updShare (.ite h.updPlane (.ite h.updPlane h))

theorem State.Keeps.creditReturn {q : Fin 8} {parityBad : Bool} : s₀.Keeps (s.creditReturn k q l parityBad) := by
  unfold State.creditReturn
  dsimp only
  refine .ite (.ite ?_ h.updLane) (.ite ?_ (.ite h (h.updPlane fun _ => Plane.setQueue_errLog ..)))
  · split
    exacts [h, h.updLane.frmDrop.error]
  · split
    exacts [h, (h.updPlane fun _ => Plane.setQueue_errLog ..).loseEntry.frmDrop.error]

theorem State.Keeps.police {bytes : Nat} : s₀.Keeps (s.police d job bytes).2 := by
  unfold State.police
  dsimp only
  split
  · refine .iteSnd h ?_
    split
    exacts [h.jobCtr.frmDrop, h.jobCtr.frmDrop, (h.updPJob.updPlane fun _ => by split <;> rfl).jobCtr64.jobCtr64]
  · exact h

theorem State.Keeps.refill {parityBadJob : Option Nat} : s₀.Keeps (s.refill k parityBadJob) := by
  unfold State.refill
  dsimp only
  split
  · exact h.updPlane
  · split
    exacts [h.updPlane, h.updPlane.updPJob.error]

theorem State.Keeps.loseSent : s₀.Keeps (s.loseSent d x) := h.updLane.loseStored.replicator
theorem State.Keeps.startFrame : s₀.Keeps (s.startFrame d x) := h.updLane.edit.replicator
theorem State.Keeps.shape : s₀.Keeps (s.shape d x) := .ite h.loseSent (.ite h.startFrame (.ite h h.laneCtr.updLane))
theorem State.Keeps.drrTurn : s₀.Keeps (s.drrTurn k l job) := h.updPJob

theorem State.Keeps.egressSelect : s₀.Keeps (s.egressSelect d) := by
  unfold State.egressSelect
  dsimp only
  refine .ite h ?_
  split
  · exact h.shape
  · refine .ite h ?_
    split
    · exact h.updLane.each fun _ _ h => h.drrTurn
    · refine .ite (.shape ?h₁) (.unless ?h₁ fun h => h.laneCtr.updLane)
      exact h.updLane.each fun _ _ h => h.drrTurn

end

/-! ### The host port block (R281 to R293, R351 to R367) -/

section
variable {s₀ s : State} (h : s₀.Keeps s) {off size : Nat} {p : Packet} {st : Status} {v : W32}
include h

theorem State.Keeps.refusePacket : s₀.Keeps (s.refusePacket p st) := h.updHost.answer

omit h in
theorem HostPort.restart_keeps (p : HostPort) : p.Keeps p.restart :=
  ⟨fun ⟨_, hs, hr, hl⟩ => ⟨rfl, hs, hr, hl⟩, fun _ _ => ⟨rfl, rfl, rfl⟩, id, rfl, fun e => ⟨le_refl _, e⟩⟩

omit h in
/-- The dispatcher moves on in an area that is enabled. -/
theorem HostPort.moveOn_keeps {p : HostPort} (hr : p.raen = true) (len n : Nat) : p.Keeps { p.moveOn len with cacrc := n } := by
  refine p.settleTail_keeps.trans (.trans (.of_raen (h' := { p.settleTail with
    caexp := (p.moveOn len).caexp, lastLen := (p.moveOn len).lastLen }) ?_ ?_ id rfl rfl) (.of_guarded ?_))
  · rw [HostPort.settleTail_eq]; exact hr
  · rw [HostPort.settleTail_eq]; exact hr
  · unfold HostPort.moveOn HostPort.readHeader
    dsimp only
    split <;> rfl

/-- A packet is taken only from an area that is enabled (R356). -/
theorem State.Keeps.takePacket {len : Nat} (hr : s.host.raen = true) : s₀.Keeps (s.takePacket len) := by
  have hm (n : Nat) : s₀.Keeps (s.updHost fun h => { h.moveOn len with cacrc := n }) := h.onHost (HostPort.moveOn_keeps hr len n)
  unfold State.takePacket
  refine .ite (.ite (h.onHost (HostPort.restart_keeps _)).refusePacket (hm _).refusePacket) ?_
  dsimp only
  split
  exacts [(hm 0).refusePacket, (hm 0).updHost]

theorem State.Keeps.packetTake : s₀.Keeps s.packetTake := by
  unfold State.packetTake
  split
  · exact h
  · next hc =>
    have hr : s.host.raen = true := by
      simp only [State.catake, Bool.and_eq_true, Bool.not_eq_true, Bool.not_eq_false'] at hc
      simp_all
    split
    · exact h
    · exact .ite (h.onHost (HostPort.restart_keeps _)).refusePacket (.ite (h.takePacket hr) h)

theorem State.Keeps.writeReply {r : Reply} : s₀.Keeps (s.writeReply r) := by
  have hw (n : Nat) (bytes : List Byte) (hp : HostPort) (e : hp.guarded = s.host.guarded) : s₀.Keeps { s with
      fresh := n, host := hp,
      out := { s.out with hostMem := hostWrite s.out.hostMem s.host.rabase.toNat (64 * s.host.rasize) (64 * s.host.rahead) bytes } } :=
    h.editHost (.of_guarded e) (hostWrite_wf _ _ bytes _)
  exact .ite (.when (hw _ _ _ rfl) fun h => h.msixSend) (.when (hw _ _ _ rfl) fun h => h.msixSend)

theorem State.Keeps.replyWrite {report : Bool} : s₀.Keeps (s.replyWrite report) := by
  have hs : s₀.Keeps (s.updHost HostPort.settleTail) := h.onHost (HostPort.settleTail_keeps _)
  unfold State.replyWrite
  refine .ite hs (.ite ?_ ?_)
  · split
    · exact hs
    · next r rs hr =>
      refine .ite hs (.writeReply (hs.onHost (.of_fits fun ⟨ha, hst, hl, he⟩ => ⟨ha, hst, ?_, he⟩)))
      rw [hr] at hl
      exact (Nat.le_succ _).trans hl
  · split
    · exact hs
    · split
      · exact hs
      · exact .when hs fun h => h.writeReply.onHost (.barriers_endDrain (.of_guarded rfl))

theorem State.Keeps.raenOff {e : BitVec 3} : s₀.Keeps (s.raenOff e) := by
  refine h.onHost (.trans (b := s.host.setEnables e) (.of_guarded rfl) ?_)
  generalize s.host.setEnables e = p
  dsimp only
  split
  · refine p.settleTail_keeps.trans (.trans ?_ (HostPort.endDrain_keeps _))
    exact .of_fits fun ⟨_, hs, hr, hl⟩ => ⟨rfl, hs, hr, hl⟩
  · exact .refl p

theorem State.Keeps.writeRabase {part : RegPart} {v : W64} : s₀.Keeps (s.writeRabase part v) := .ite h.badAcc h.updHost
theorem State.Keeps.writeRasize : s₀.Keeps (s.writeRasize v) := .ite h.badAcc h.updHost
theorem State.Keeps.writeRatail : s₀.Keeps (s.writeRatail v) := .ite h.badAcc h.updHost
theorem State.Keeps.clearErrsum : s₀.Keeps (s.clearErrsum v) := .when h.updHost fun h => h.setErrsum
theorem State.Keeps.clearCarestart : s₀.Keeps (s.clearCarestart v) := h.updHost
theorem State.Keeps.msixControl {v : Fin 3} {ctrl : W32} : s₀.Keeps (s.msixControl v ctrl) := .when h.updHost fun h => h.updHost.msixSend

theorem State.Keeps.counterLower {c : CounterSel} : s₀.Keeps (s.counterLower c) := by
  unfold State.counterLower
  split
  exacts [h.updPlane.edit, h.updHost.edit]

theorem State.Keeps.bar0Read : s₀.Keeps (s.bar0Read off size) := by
  refine .ite h.edit.badAcc (.ite h.edit (.ite ?_ h.edit))
  dsimp only
  split
  exacts [h.counterLower, h.edit]

theorem State.Keeps.msixWrite : s₀.Keeps (s.msixWrite off v) := by
  unfold State.msixWrite
  dsimp only
  split
  exacts [h.updHost, h.updHost, h.updHost, h.msixControl]

end

/-! ### Commands that planes take (R291) -/

section
variable {s₀ s : State} (h : s₀.Keeps s) {size : Nat} {c : PlaneCmd} {d : DevLane} {j : Job} {k : PlaneIx} {pj : PJob}
include h

theorem State.Keeps.toPlanes {c : Held} : s₀.Keeps (s.toPlanes c) := h.handOut
theorem State.Keeps.refuseLanes {c : Held} : s₀.Keeps (s.refuseLanes c) := h.replyPlanes
theorem State.Keeps.takeDevStatus : s₀.Keeps (s.takeDevStatus k c) := h.planeAnswer
theorem State.Keeps.takeAstatRead : s₀.Keeps (s.takeAstatRead k c) := .planeAnswer (.ite h.updPlane h)

theorem State.Keeps.toJobPlanes {c : Held} : s₀.Keeps (s.toJobPlanes c) := by
  unfold State.toJobPlanes
  split
  exacts [h.replyPlanes, .ite h.handOut h.replyPlanes]

theorem State.Keeps.noJobHere : s₀.Keeps (s.noJobHere k c) := by
  unfold State.noJobHere
  split
  exacts [h.planeAnswer, .ite h.planeAnswer (.ite h.planeAnswer h.planeAnswer)]

theorem State.Keeps.withPJob {f : Job → PJob → State} (hf : ∀ j pj, s₀.Keeps (f j pj)) : s₀.Keeps (s.withPJob k c f) := by
  unfold State.withPJob
  split
  exacts [hf _ _, h.noJobHere]

theorem State.Keeps.takeCntRead : s₀.Keeps (s.takeCntRead k c) := by
  refine .ite h.updPlane.planeAnswer (.ite (h.each fun _ _ h => h.updLane).planeAnswer (h.withPJob fun _ _ => ?_))
  exact .ite h.updPJob.planeAnswer h.updPJob.planeAnswer

theorem State.Keeps.takeRateSet : s₀.Keeps (s.takeRateSet k c) := h.updPJob.planeAnswer
theorem State.Keeps.takeRateRead : s₀.Keeps (s.takeRateRead k c) := h.withPJob fun _ _ => h.planeAnswer
theorem State.Keeps.takeShapeSet : s₀.Keeps (s.takeShapeSet k c) := (h.each fun _ _ h => h.updLane).planeAnswer
theorem State.Keeps.takeShapeRead : s₀.Keeps (s.takeShapeRead k c) := h.planeAnswer
theorem State.Keeps.takeGatePhase : s₀.Keeps (s.takeGatePhase k c) := h.updPlane.planeAnswer
theorem State.Keeps.takeGateRead : s₀.Keeps (s.takeGateRead k c) := h.planeAnswer

theorem State.Keeps.laneCmd {refuse : DevLane → Option Status} {act : State → DevLane → State}
    (ha : ∀ s d, s₀.Keeps s → s₀.Keeps (act s d)) : s₀.Keeps (s.laneCmd k c refuse act) := by
  unfold State.laneCmd
  dsimp only
  split
  exacts [h.planeAnswer, (h.each fun _ _ h => ha _ _ h).planeAnswer]

theorem State.Keeps.takeLaneStatus : s₀.Keeps (s.takeLaneStatus k c) := h.edit.planeAnswer
theorem State.Keeps.takeLaneEq : s₀.Keeps (s.takeLaneEq k c) := h.laneCmd fun _ _ h => h.updLane
theorem State.Keeps.takeLaneHold : s₀.Keeps (s.takeLaneHold k c) := h.laneCmd fun _ _ h => .ite h (.ite h.laneDown h.setLane)
theorem State.Keeps.takeLaneRelease : s₀.Keeps (s.takeLaneRelease k c) := h.laneCmd fun _ _ h => .ite h.setLane h

theorem State.Keeps.takeLaneDormant : s₀.Keeps (s.takeLaneDormant k c) :=
  h.laneCmd fun _ _ h => .ite h (.updLane (.ite (.laneDown (.ite h.edit h)) (.setLane (.ite h.edit h))))

theorem State.Keeps.takeLaneWake : s₀.Keeps (s.takeLaneWake k c) := h.laneCmd fun _ _ h => h.wakeLane
theorem State.Keeps.takeLaneDisable : s₀.Keeps (s.takeLaneDisable k c) := h.laneCmd fun _ _ h => .ite h (.updLane (.ite h.laneDown h.setLane))
theorem State.Keeps.takeLaneEnable : s₀.Keeps (s.takeLaneEnable k c) := h.laneCmd fun _ _ h => .ite h.setLane h

theorem State.Keeps.takeLaneFwd : s₀.Keeps (s.takeLaneFwd k c) := by
  unfold State.takeLaneFwd
  exact h.laneCmd fun _ _ h => h.updLane

theorem State.Keeps.takeTestRun : s₀.Keeps (s.takeTestRun k c) := .ite h.planeAnswer (.ite h.planeAnswer h.updPlane)
theorem State.Keeps.readRange {c : Held} {bs : List Byte} : s₀.Keeps (s.readRange c bs size) := .ite h.reply h.reply

end

/-! ### Checked runs and received frames (R122, R170, R237) -/

section
variable {s₀ s : State} (h : s₀.Keeps s) {again relayed : Bool} {b bkt blk chunk code dev gen id layer m n redund side : Nat}
  {d lane : DevLane} {e : ErrInfo} {f : Frame} {flt : ItemFault} {fs : List WordFault} {j : Job} {k : PlaneIx} {keep : Keep}
  {later : StoredFault} {pj : PJob} {st : Status} {vs ws xs : List W32} {x : Desc}
include h

omit h in
/-- A fold keeps what each of its rounds keeps of the state in its accumulator. -/
theorem State.Keeps.foldl {α β : Type} {g : β → State} {f : β → α → β}
    (hf : ∀ b a, s₀.Keeps (g b) → s₀.Keeps (g (f b a))) (l : List α) : ∀ {b}, s₀.Keeps (g b) → s₀.Keeps (g (l.foldl f b)) := by
  induction l with
  | nil => exact fun hb => hb
  | cons a l ih => exact fun hb => ih (hf _ a hb)

theorem State.Keeps.checkItems {items : Nat} {itemOf lane : Nat → Nat} : s₀.Keeps (s.checkItems k redund e ws fs items itemOf lane).2.2 := by
  unfold State.checkItems
  refine State.Keeps.foldl (g := fun acc : List W32 × Bool × State => acc.2.2) (fun acc i h => ?_) (List.range items) (b := (ws, false, s)) h
  exact h.checkItem

theorem State.Keeps.checkVector : s₀.Keeps (s.checkVector k redund e n ws fs).2.2 := by
  unfold State.checkVector
  exact h.checkItems

theorem State.Keeps.checkTiles : s₀.Keeps (s.checkTiles k redund e b ws fs).2.2 := by
  unfold State.checkTiles
  dsimp only
  exact h.checkItems

section

omit h

variable {x : Checked} (hx : s₀.Keeps x.s)
include hx

theorem State.Keeps.vec {base : Nat} {l : List FR} : s₀.Keeps (x.vec k redund e n fs base l).2.s := hx.checkVector
theorem State.Keeps.mat {base : Nat} {l : List FR} : s₀.Keeps (x.mat k redund e b fs base l).2.s := hx.checkTiles

theorem State.Keeps.squares {base : Nat} : s₀.Keeps (x.squares k redund e fs base xs).2.s := by
  unfold Checked.squares
  dsimp only
  exact hx.vec

theorem State.Keeps.newton {base : Nat} {y z : List W32} : s₀.Keeps (Checked.newton k redund e b fs n base y z x).2.s := by
  induction n generalizing base y z x with
  | zero => exact hx
  | succ n ih =>
    unfold Checked.newton
    dsimp only
    exact ih hx.mat.vec.mat.mat

theorem State.Keeps.root {p : PrecBlock} {stat : List W32} : s₀.Keeps (x.root k redund e p stat fs).2.s := by
  unfold Checked.root
  dsimp only
  refine .vec (.newton ?_)
  exact hx.vec.squares.vec.vec

end

theorem State.Keeps.refreshFrom {stat : KBlock → List W32} : s₀.Keeps (s.refreshFrom k j blk side flt stat) := by
  unfold State.refreshFrom
  split
  · exact h
  · split
    · exact h
    · dsimp only
      exact .ite (.jobCtr (.arith (.arith (.root h)))) (.updShare (.arith (.arith (.root h))))

theorem State.Keeps.refreshRoot : s₀.Keeps (s.refreshRoot k j blk side flt) := by
  unfold State.refreshRoot
  split
  exacts [h, h.refreshFrom]

theorem State.Keeps.replayRoots {x : StepHdr} {b : Option Nat} : s₀.Keeps (s.replayRoots k j x b) := by
  unfold State.replayRoots
  split
  exacts [h, (h.updPJob.each fun _ _ h => h.refreshFrom).updPJob]

theorem State.Keeps.installShare : s₀.Keeps (s.installShare k id b) := by
  unfold State.installShare
  split
  exacts [h, h.updShare.jobCtr.jobCtr]

theorem State.Keeps.sendArray {bucket : Nat} : s₀.Keeps (s.sendArray k j dev bucket code chunk gen ws) := by
  unfold State.sendArray
  dsimp only
  exact h.each fun _ _ h => h.toDevice

theorem State.Keeps.sendPSN {arr : List (List W32 × List W32)} : s₀.Keeps (s.sendPSN k j b gen arr) := by
  unfold State.sendPSN
  dsimp only
  exact h.each fun _ _ h => h.each fun _ _ h => h.sendArray.sendArray

theorem State.Keeps.kronBlocks {y : Share} {kc : KConst} {own : Bool} : s₀.Keeps (s.kronBlocks k j pj y kc redund e own gen vs fs).s := by
  unfold State.kronBlocks
  refine State.Keeps.foldl (g := KronRun.s) (fun r a h => ?_) _ h
  dsimp only
  split
  exacts [h.checkTiles.checkTiles.arith.arith.checkVector, h]

theorem State.Keeps.runKernel {c : W32} {opk : Nat} {own : Bool} : s₀.Keeps (s.runKernel k j b c redund opk own gen vs fs again).s := by
  unfold State.runKernel
  split
  · dsimp only
    refine .when (.updShare (.arith (.edit ?_))) fun h => h.jobCtr
    split
    exacts [h.kronBlocks.arith.checkVector.error, h.kronBlocks.arith.checkVector]
  · exact h

theorem State.Keeps.holdFrame {serve : Bool} {who : Option Nat} : s₀.Keeps (s.holdFrame lane f serve who later relayed) := by
  unfold State.holdFrame
  exact h.updPlane

theorem State.Keeps.fecCount {x : FecInfo} : s₀.Keeps (s.fecCount lane x) := h.updLane
theorem State.Keeps.stomp : s₀.Keeps (s.stomp d f) := h.updLane.edit
theorem State.Keeps.stompRelay {f : RxFrame} : s₀.Keeps (s.stompRelay lane f) := .ite (h.each fun _ _ h => h.stomp) h
theorem State.Keeps.discard {f : RxFrame} {c : LCtr} : s₀.Keeps (s.discard lane f c) := .when h.laneCtr.frmDrop.stompRelay fun h => h.error

theorem State.Keeps.receive {rx : RxFrame} {ops : List Nat} {act : Parked → State → State} (ha : ∀ x s, s₀.Keeps s → s₀.Keeps (act x s)) :
    s₀.Keeps (s.receive lane rx ops act) := by
  unfold State.receive
  dsimp only
  refine .ite h (.ite h.fecCount.laneCtr (.ite h.fecCount.frmDrop ?_))
  split
  · exact h.fecCount.discard
  · refine .ite h (.ite h.fecCount.laneCtr.frmDrop (.ite h.fecCount.updPlane ?_))
    exact .ite (ha _ _ h.fecCount.police.workFault) h.fecCount.police

theorem State.Keeps.relay : s₀.Keeps (s.relay k j pj m dev f bkt keep) := h.toDevice
theorem State.Keeps.noteRelay : s₀.Keeps (s.noteRelay k j pj f) := h.jobCtr.updPJob
theorem State.Keeps.holdResult : s₀.Keeps (s.holdResult lane f n m keep) := h.updPlane fun _ => by dsimp only; split <;> rfl

theorem State.Keeps.replicate : s₀.Keeps (s.replicate lane f keep) := by
  unfold State.replicate
  dsimp only
  split
  · exact h.frmDrop
  · refine .ite ?_ (h.noteRelay.each fun _ _ h => h.holdResult).toLocal
    split
    exacts [h.frmDrop, .ite (.ite h.holdResult h.enqueue) h.frmDrop]

theorem State.Keeps.refuseFrame {c : Option JCtr} : s₀.Keeps (s.refuseFrame lane f st c gen layer) := by
  unfold State.refuseFrame
  dsimp only
  split
  exacts [h.status.frmDrop.jobCtr, h.status.frmDrop]

end

/-! ### Pairs, gathers and synchronisation (R13, R132, R139) -/

section
variable {s₀ s : State} (h : s₀.Keeps s) {relayed : Bool} {b chunk id layer m n obj op redund : Nat} {c : PlaneCmd} {lane : DevLane}
  {f : Frame} {fl : Flags} {work : ItemFault} {j : Job} {k : PlaneIx} {keep : Keep} {later : StoredFault} {pj : PJob} {st : Status}
include h

theorem State.Keeps.sendPair {norm : W32} : s₀.Keeps (s.sendPair k j pj norm fl) :=
  .normCheck (.when (h.each fun _ _ h => h.toDevice).updPlane.updPJob fun h => h.updJob)

theorem State.Keeps.checkPair : s₀.Keeps (s.checkPair k id) := by
  unfold State.checkPair
  split
  exacts [.ite h (.ite h.sendPair (.ite h.arith.sendPair h)), h]

theorem State.Keeps.normIn : s₀.Keeps (s.normIn lane f) := by
  unfold State.normIn
  dsimp only
  split
  exacts [h.frmDrop, .ite h.frmDrop h.updPlane.normCheck]

theorem State.Keeps.jdigCheck : s₀.Keeps (s.jdigCheck id) := by
  unfold State.jdigCheck
  split
  exacts [h, .ite h.fenceJob h]

theorem State.Keeps.jdigIn : s₀.Keeps (s.jdigIn lane f) := by
  unfold State.jdigIn
  dsimp only
  split
  exacts [h.refuseFrame, .when h.updJob fun h => h.jdigCheck]

theorem State.Keeps.prefetchLayer : s₀.Keeps (s.prefetchLayer k j pj layer) := .ite h (.ite h (h.updPlane.each fun _ _ h => h.jobCtr))

theorem State.Keeps.stashStore {e : StashEnt} : s₀.Keeps (s.stashStore k j e) := by
  unfold State.stashStore
  split
  exacts [h, .ite h h.updPJob.jobCtr]

theorem State.Keeps.serveGather {q : Serve} : s₀.Keeps (s.serveGather k id q) := by
  unfold State.serveGather
  split
  · exact h
  · extract_lets sh pref whole rest all inStash s₁ s₂ s₃
    have h₁ : s₀.Keeps s₁ := .when h fun h => h.jobCtr.updPlane
    have h₂ : s₀.Keeps s₂ := .ite h₁.jobCtr (.ite h₁.jobCtr (.when h₁ fun h => h.jobCtr))
    have h₃ : s₀.Keeps s₃ := by
      refine h₂.each fun s x h => .unless (h.arith.each fun s f h => ?_) fun h => h.stashStore
      split
      exacts [h.toMember, h.multicast]
    split
    · exact h₃
    · split
      exacts [h₃.prefetchLayer, h₃]

theorem State.Keeps.startGather {g : Gather} : s₀.Keeps (s.startGather k g) := h.updPlane.serveGather
theorem State.Keeps.flushGathers : s₀.Keeps (s.flushGathers k id) := h.each fun _ _ h => h.startGather

theorem State.Keeps.askGather {q : Serve} : s₀.Keeps (s.askGather lane f j q m) := by
  unfold State.askGather
  dsimp only
  split
  exacts [h.jobCtr.updPlane.jobCtr, .ite h.jobCtr.serveGather h.jobCtr.updPlane]

theorem State.Keeps.sendNotices : s₀.Keeps (s.sendNotices k j pj m) := .unless (.ite h h.toMember) fun h => .toMember h

theorem State.Keeps.greqHome {q : Greq} : s₀.Keeps (s.greqHome lane f j pj m q later relayed) :=
  .ite h.refuseFrame (.ite h.refuseFrame (.ite h.refuseFrame (.ite h.holdFrame.jobCtr (.ite h.askGather (.ite h.askGather h.refuseFrame)))))

theorem State.Keeps.greq : s₀.Keeps (s.greq lane f keep relayed) := by
  unfold State.greq
  dsimp only
  split
  · exact h.refuseFrame
  · refine .ite h.refuseFrame (.ite h.refuseFrame (.ite h.sendNotices (.ite h.holdFrame ?_)))
    exact .unless (h.each fun _ _ h => h.relay) fun h => h.greqHome

theorem State.Keeps.retryGathers : s₀.Keeps (s.retryGathers k id) := h.updPlane.each fun _ _ h => .ite h.greq h.loseStored

theorem State.Keeps.convItems : s₀.Keeps (s.convItems k redund n) := by
  unfold State.convItems
  exact State.Keeps.foldl (g := id) (fun _ _ h => by exact h.itemChecked) _ h

theorem State.Keeps.earlyPublish : s₀.Keeps (s.earlyPublish k id b) := by
  unfold State.earlyPublish
  split
  · exact h
  · split
    exacts [.ite h (h.convItems.arith.each fun _ _ h => h.multicast).updShare, h]

theorem State.Keeps.deliverResult {r : Retained} : s₀.Keeps (s.deliverResult k j pj r) := by
  unfold State.deliverResult
  split
  exacts [h, (h.each fun _ _ h => h.multicast).updPlane]

theorem State.Keeps.readResult {r : Retained} : s₀.Keeps (s.readResult k r op chunk work n).2 := by
  unfold State.readResult
  dsimp only
  exact h.parityRead

theorem State.Keeps.admitResult : s₀.Keeps (s.admitResult k work) := by
  unfold State.admitResult
  dsimp only
  split
  · exact h
  · split
    · exact h
    · split
      exacts [h, .ite h.updPlane.updShare.readResult.poison.updPlane h.updPlane.updShare.readResult.deliverResult]

theorem State.Keeps.dropResult : s₀.Keeps (s.dropResult k id b) := h.updPlane.checkPair
theorem State.Keeps.releaseResults : s₀.Keeps (s.releaseResults k id) := h.updPlane.checkPair

theorem State.Keeps.ack : s₀.Keeps (s.ack lane f keep) := by
  unfold State.ack
  dsimp only
  split
  · exact h.refuseFrame
  · refine .ite h.relay ?_
    split
    exacts [h.frmDrop, .ite h.frmDrop h.updPlane.updPJob.releaseResults]

theorem State.Keeps.ackTimeout : s₀.Keeps (s.ackTimeout k id b m) := by
  unfold State.ackTimeout
  split
  · exact h
  · split
    · split
      exacts [h, .ite h (.when (h.updPlane.updPJob.each fun _ _ h => h.toMember).jobCtr fun h => h.report)]
    · exact h

theorem State.Keeps.rdreq {parityFails : Nat} {count : Bool} : s₀.Keeps (s.rdreq lane f parityFails count work keep) := by
  unfold State.rdreq
  dsimp only
  split
  · exact h.refuseFrame
  · refine .ite h.relay (.ite h.refuseFrame (.ite h.refuseFrame (.ite h.refuseFrame ?_)))
    split
    · exact .ite h.readResult.poison.refuseFrame.dropResult (.when (h.readResult.each fun _ _ h => h.toMember) fun h => h.jobCtr)
    · exact h.refuseFrame

theorem State.Keeps.sread : s₀.Keeps (s.sread lane f work) := by
  unfold State.sread
  split
  exacts [.ite h.rdreq h.refuseFrame, h.rdreq]

theorem State.Keeps.desc : s₀.Keeps (s.desc lane f) := by
  unfold State.desc
  dsimp only
  split
  · exact h.refuseFrame
  · refine .ite h.refuseFrame ((h.updPJob.updPlane.each fun _ _ h => .ite h.replicate h.loseStored).each fun s x h => ?_)
    split
    exacts [h, (h.each fun _ _ h => h.toMember).updPlane]

theorem State.Keeps.takeStashQuery : s₀.Keeps (s.takeStashQuery k c) := h.withPJob fun _ _ => h.planeAnswer
theorem State.Keeps.takeTreeRead : s₀.Keeps (s.takeTreeRead k c) := h.withPJob fun _ _ => h.planeAnswer
theorem State.Keeps.wakeWaits : s₀.Keeps (s.wakeWaits k id obj) := h.each fun _ _ h => h.endWait
theorem State.Keeps.setSync {v : W64} : s₀.Keeps (s.setSync k id obj v) := h.updPJob.wakeWaits
theorem State.Keeps.addSync {x : W64} : s₀.Keeps (s.addSync k id obj x) := .setSync (.ite h.jobCtr h)
theorem State.Keeps.queueSync : s₀.Keeps (s.queueSync k c) := h.withPJob fun _ _ => .ite h.planeAnswer (.ite h.planeAnswer h.updPlane)
theorem State.Keeps.applySyncAdd : s₀.Keeps (s.applySyncAdd k c) := h.addSync.planeAnswer
theorem State.Keeps.applySyncSet : s₀.Keeps (s.applySyncSet k c) := h.setSync.planeAnswer
theorem State.Keeps.applySyncWait : s₀.Keeps (s.applySyncWait k c) := .ite h.planeAnswer (.ite h.planeAnswer h.updPlane)
theorem State.Keeps.applySyncRead : s₀.Keeps (s.applySyncRead k c) := h.planeAnswer
theorem State.Keeps.fenceMember : s₀.Keeps (s.fenceMember k id m) := h.applyFence.releaseResults
theorem State.Keeps.applyMemberFence : s₀.Keeps (s.applyMemberFence k c) := (h.each fun _ _ h => h.fenceMember).planeAnswer

theorem State.Keeps.applyCmd : s₀.Keeps (s.applyCmd k c) := by
  unfold State.applyCmd
  split
  exacts [h.applyMemberFence, h.applySyncAdd, h.applySyncSet, h.applySyncWait, h.applySyncRead]

theorem State.Keeps.applyFirst {f : PlaneCmd → Bool} : s₀.Keeps (s.applyFirst k f) := by
  unfold State.applyFirst
  split
  exacts [h, h.updPlane.applyCmd]

theorem State.Keeps.atComma : s₀.Keeps (s.atComma k id) := (h.updPlane.each fun _ _ h => h.applyCmd).each fun _ _ h => h.fenceMember
theorem State.Keeps.syncReply {v : W64} : s₀.Keeps (s.syncReply lane f st v) := h.replyTo

theorem State.Keeps.syncRefuse : s₀.Keeps (s.syncRefuse lane f st) := by
  unfold State.syncRefuse
  dsimp only
  exact h.takeFresh.syncReply.frmDrop

theorem State.Keeps.sync : s₀.Keeps (s.sync lane f) := by
  unfold State.sync
  dsimp only
  split
  exacts [h.syncRefuse, .ite h.syncRefuse (.ite (.when h.addSync fun h => h.syncReply) (.ite h.syncReply (.ite h.syncRefuse h.updPlane)))]

end

/-! ### Reductions (R50 to R67) -/

section
variable {s₀ s : State} (h : s₀.Keeps s) {b id m n off pass q redund step : Nat} {c : PlaneCmd} {cs : ChunkSet} {lane : DevLane}
  {e : ErrInfo} {f : Frame} {flt work : ItemFault} {fs : List WordFault} {j : Job} {k : PlaneIx} {keep : Keep} {later : StoredFault}
  {pj : PJob} {ps : List PlaneIx} {sh : Share} {st : Status} {vs ws xs : List W32}
include h

theorem State.Keeps.formatFlag : s₀.Keeps (s.formatFlag k id) := h.fmtRej.updPJob

theorem State.Keeps.openShare {c : Claim} : s₀.Keeps (s.openShare k j pj b c) := by
  unfold State.openShare
  dsimp only
  split
  exacts [h.updShare.updPJob, h.updShare.updPJob.jobCtr]

theorem State.Keeps.refuseOpen : s₀.Keeps (s.refuseOpen lane f j sh) := .jobCtr (.frmDrop (.status (.when h.updShare fun h => h.jobCtr)))

theorem State.Keeps.commaNorm : s₀.Keeps (s.commaNorm k j b xs fs) := by
  unfold State.commaNorm
  dsimp only
  refine .when (.updShare (.arith (.squares ?_))) fun h => h.poison
  exact .when h.updPJob fun h => h.overflow

theorem State.Keeps.commaResult {d : BucketDesc} : s₀.Keeps (s.commaResult k j pj d xs fs work) := by
  unfold State.commaResult
  dsimp only
  exact .ite h.checkVector.poison.updShare h.checkVector.edit.arith.updPlane.admitResult

theorem State.Keeps.comma : s₀.Keeps (s.comma k id b xs fs work) := by
  unfold State.comma
  split
  · extract_lets home bad s₁ s₂ s₃ s₄
    have h₂ : s₀.Keeps s₂ := .when h.updShare fun h => h.commaNorm
    have h₃ : s₀.Keeps s₃ := .unless h₂ fun h => h.updShare.logWritten
    have h₄ : s₀.Keeps s₄ := .ite h₃.updShare (.ite (h₃.updPlane fun _ => Plane.flow_errLog _) (.ite h₃.commaResult h₃.updShare))
    exact h₄.atComma.checkPair
  · exact h

theorem State.Keeps.sendPartials {d : BucketDesc} {from' : Nat} : s₀.Keeps (s.sendPartials k j d step vs from') :=
  h.each fun _ _ h => h.each fun _ _ h => h.toDevice

omit h in
theorem State.Keeps.ringAdd {r : RingRun} {y : Share} {devs es : List Nat} {i : Nat} (hr : s₀.Keeps r.s) :
    s₀.Keeps (r.add k redund e y devs es fs i).s := by
  unfold RingRun.add
  exact hr.checkItem

theorem State.Keeps.ringAdds {d : BucketDesc} {devs : List Nat} : s₀.Keeps (s.ringAdds k j d sh devs fs).2.2 := by
  unfold State.ringAdds
  split
  · exact h
  · refine State.Keeps.foldl (g := fun acc : List W32 × Bool × State => acc.2.2) (fun acc c h => ?_) _ (b := ([], false, s)) h
    dsimp only
    refine .arith (State.Keeps.foldl (g := RingRun.s) (fun r i h => ?_) _ h)
    exact .ringAdd h

theorem State.Keeps.sumRead {d : BucketDesc} : s₀.Keeps (s.sumRead k j d pass flt n) := by
  unfold State.sumRead
  split
  exacts [h, .when h.parityRead fun h => h.poison]

theorem State.Keeps.losePartials : s₀.Keeps (s.losePartials k id b sh) := h.updShare.each fun _ _ h => h.loseStored

theorem State.Keeps.boardCheck : s₀.Keeps (s.boardCheck k id b flt) := by
  unfold State.boardCheck
  dsimp only
  split
  · split
    · exact h
    · refine .ite h (.ite h.losePartials (.comma (.ite (.toLocal (.each ?h₁ fun _ _ h => h.toTree)) ?h₁)))
      exact .when h.ringAdds fun h => h.poison
  · exact h

theorem State.Keeps.localCheck : s₀.Keeps (s.localCheck k id b flt) := by
  unfold State.localCheck
  split
  · split
    · exact h
    · dsimp only
      exact .ite h (.ite h.sendPartials.updShare h.sendPartials.updShare.boardCheck)
  · exact h

theorem State.Keeps.schedule : s₀.Keeps (s.schedule k) := by
  refine .ite h ?_
  dsimp only
  split
  exacts [h, h.updPlane]

theorem State.Keeps.loseContrib {staged : Bool} {x : StoredFault} : s₀.Keeps (s.loseContrib k cs m staged x) := h.updShare.updPlane.error.frmDrop

theorem State.Keeps.setAdded {sp : List (Nat × W32)} : s₀.Keeps (s.setAdded k cs off ws sp) := by
  unfold State.setAdded
  refine h.updShare.updPlane fun p => ?_
  dsimp only
  split
  exacts [Plane.flow_errLog _, rfl]

theorem State.Keeps.stageSet {c : Nat} : s₀.Keeps (s.stageSet k id b c q) := by
  unfold State.stageSet
  split
  exacts [.ite h (.updShare (.ite h h.updPlane)), h]

theorem State.Keeps.stageMore : s₀.Keeps (s.stageMore k) := h.each fun _ _ h => h.stageSet

theorem State.Keeps.passCheck {d : BucketDesc} {p : Nat} : s₀.Keeps (s.passCheck k j pj d p) := by
  unfold State.passCheck
  split
  exacts [h, .ite h.updShare.toLocal h]

theorem State.Keeps.commaRead {d : BucketDesc} : s₀.Keeps (s.commaRead k j d cs flt) := by
  unfold State.commaRead
  split
  exacts [h, .ite h.sumRead h]

theorem State.Keeps.chunkSetDone : s₀.Keeps (s.chunkSetDone k cs flt) := by
  unfold State.chunkSetDone
  dsimp only
  split
  · split
    · exact h.updPlane
    · refine .ite h.updPlane (.ite (h.updPlane.each fun _ _ h => h.loseContrib) ?_)
      refine .localCheck (.commaRead (.passCheck (.stageMore (.setAdded (.when (.checkItem (.arith (.ctlFault ?_))) fun h => .poison h)))))
      exact .iteSnd h.updPlane.snd h.updPlane.parityRead
  · exact h.updPlane

theorem State.Keeps.admitContrib {d : BucketDesc} : s₀.Keeps (s.admitContrib k j d f m later) := h.updShare.updPlane.stageSet.schedule

theorem State.Keeps.gradStep {d : BucketDesc} : s₀.Keeps (s.gradStep lane f j pj d m later) := by
  refine .ite h.refuseFrame ?_
  dsimp only
  split
  · exact h.refuseFrame
  · refine .ite (.when h.jobCtr.frmDrop fun h => h.toMember) (.ite h.admitContrib ?_)
    split
    exacts [h.refuseOpen, h.openShare.admitContrib]

theorem State.Keeps.grad : s₀.Keeps (s.grad lane f later) := by
  unfold State.grad
  dsimp only
  split
  · exact h.refuseFrame
  · split
    · exact h.refuseFrame
    · refine .ite h.refuseFrame (.ite h.refuseFrame.formatFlag ?_)
      split
      exacts [h.jobCtr.frmDrop, h.holdFrame, h.gradStep]

theorem State.Keeps.statusDevice : s₀.Keeps (s.statusDevice lane f st) := by
  refine .frmDrop ?_
  split
  exacts [h.toDevice, h.enqueue]

theorem State.Keeps.admitPartial {d : BucketDesc} : s₀.Keeps (s.admitPartial lane f j pj d sh later work) := by
  refine .ite (.when h.frmDrop fun h => h.toTree) (.boardCheck (.when (.ite (.frmDrop ?h₁) (.updShare ?h₁)) fun h => .sumRead h))
  refine .ite h ?_
  split
  exacts [h.openShare, h]

theorem State.Keeps.partialIn : s₀.Keeps (s.partialIn lane f later work) := by
  unfold State.partialIn
  dsimp only
  split
  · exact h.statusDevice
  · refine .ite h.statusDevice ?_
    split
    · refine .ite h.statusDevice (.ite h.statusDevice (.ite h.statusDevice.formatFlag ?_))
      split
      exacts [h.frmDrop, h.holdFrame, h.admitPartial]
    · exact h.statusDevice

theorem State.Keeps.doneIn : s₀.Keeps (s.doneIn lane f keep) := by
  unfold State.doneIn
  dsimp only
  split
  exacts [h.frmDrop, .when h.replicate fun h => h.updShare.atComma.checkPair]

theorem State.Keeps.resendPartials : s₀.Keeps (s.resendPartials k f work) := by
  unfold State.resendPartials
  split
  exacts [.ite h.sumRead.sendPartials h, h]

theorem State.Keeps.peerIn : s₀.Keeps (s.peerIn lane f keep work) := .ite h.resendPartials (.ite h.statusDevice.formatFlag h.replicate)

theorem State.Keeps.bucketTimer : s₀.Keeps (s.bucketTimer k id b pass) := by
  unfold State.bucketTimer
  split
  · split
    · exact h
    · split
      · refine .ite h ?_
        split
        exacts [h, h.openShare.boardCheck]
      · exact .when ((h.jobCtr.updShare.each fun _ _ h => h.toMember).each fun _ _ h => h.toDevice) fun h => h.report
  · exact h

theorem State.Keeps.takeBucketQuery : s₀.Keeps (s.takeBucketQuery k c) := by
  refine h.withPJob fun j pj => ?_
  split
  · exact h.planeAnswer
  · split <;> exact h.planeAnswer

theorem State.Keeps.expandRefused {c : Held} : s₀.Keeps (s.expandRefused c ps) := .replyPlanes (.ite (h.each fun _ _ h => h.fmtRej) h)

theorem State.Keeps.takeExpandSet : s₀.Keeps (s.takeExpandSet k c) := by
  refine h.withPJob fun j pj => ?_
  dsimp only
  split
  exacts [h.formatFlag.planeAnswer, h.planeAnswer, .ite h.formatFlag.planeAnswer h.updPJob.planeAnswer]

theorem State.Keeps.takeHistRead : s₀.Keeps (s.takeHistRead k c) := by
  refine h.withPJob fun j pj => ?_
  dsimp only
  split <;> exact h.planeAnswer

end

/-! ### Digests and the full stop (R85 to R101, R261 to R268) -/

section
variable {s₀ s : State} (h : s₀.Keeps s) {again now : Bool} {b dev flagFault gen id job m step totalFault : Nat} {lane : DevLane}
  {f : Frame} {fl : Flags} {flt : ItemFault} {fs : List WordFault} {j : Job} {k : PlaneIx} {keep : Keep} {pj : PJob} {r : Rebuild}
  {sh : Share} {t : TrainInfo}
include h

theorem State.Keeps.startRead {c : CkptJob} : s₀.Keeps (s.startRead k c) := by
  unfold State.startRead
  split
  exacts [(h.each fun _ _ h => h.toMember).updPlane, h]

theorem State.Keeps.startReads : s₀.Keeps (s.startReads k id) := by
  unfold State.startReads
  split
  exacts [h, h.each fun _ _ h => h.startRead]

theorem State.Keeps.countReadWait : s₀.Keeps (s.countReadWait k id) := h.updPlane.updPJob.jobCtr
theorem State.Keeps.ckptDone : s₀.Keeps (s.ckptDone id) := h.each fun _ _ h => h.each fun _ _ h => h.updPlane.planeAnswer

theorem State.Keeps.holdGathers : s₀.Keeps (s.holdGathers k j b) := by
  unfold State.holdGathers
  dsimp only
  exact h.takeGathers.each fun _ _ h => h.holdFrame.jobCtr

theorem State.Keeps.expel : s₀.Keeps (s.expel k j pj b dev) := by
  unfold State.expel
  dsimp only
  split
  · exact h.updShare.jobCtr.shardReport
  · split
    · exact h.updShare.jobCtr.shardReport.loseShare
    · refine .each (.when (.tellCopies (.updShare ?_)) fun h => h.holdGathers) fun _ _ h => .ite h h.restartRebuild
      exact h.updShare.jobCtr.shardReport

theorem State.Keeps.knownBad : s₀.Keeps (s.knownBad k j pj sh dev) := .ite h (.ite h.expel h.stopShare)

theorem State.Keeps.mirrorExpels : s₀.Keeps (s.mirrorExpels k j pj b dev) := by
  unfold State.mirrorExpels
  dsimp only
  split
  exacts [.when h.updShare fun h => h.updShare, h.updShare]

theorem State.Keeps.badCopy : s₀.Keeps (s.badCopy k id b) := by
  unfold State.badCopy
  split
  exacts [.ite h.knownBad (.ite h h.mirrorExpels.tellCopies), h]

theorem State.Keeps.digestCheck : s₀.Keeps (s.digestCheck k id b now) := by
  unfold State.digestCheck
  split
  · split
    · exact h
    · refine .ite h ?_
      dsimp only
      split
      exacts [h.jobCtr.jobCtr.updShare, h.jobCtr.jobCtr.updShare.expel, h.jobCtr.jobCtr.updShare.haltShare]
  · exact h

theorem State.Keeps.sendDigest : s₀.Keeps (s.sendDigest k j pj sh) := h.toDevice

theorem State.Keeps.sendDigests : s₀.Keeps (s.sendDigests k id) := by
  unfold State.sendDigests
  split
  exacts [h.each fun _ _ h => .ite (.ite h h.sendDigest) (.ite h h.updShare.digestCheck), h]

theorem State.Keeps.replayStep {x : StepHdr} {own : Bool} {arrays : Nat} {vals : List W32} : s₀.Keeps (s.replayStep k j b x own arrays vals) := by
  unfold State.replayStep
  split
  exacts [h, h.updPJob.runKernel.updPJob.updShare]

theorem State.Keeps.installRecvShare {edge : Nat} : s₀.Keeps (s.installRecvShare k id b edge gen) := by
  unfold State.installRecvShare
  split
  exacts [h, h.updShare.jobCtr]

theorem State.Keeps.rebuildDone : s₀.Keeps (s.rebuildDone k j pj b dev) := .when h.updShare.jobCtr.shardReport.tellCopies fun h => h.retryGathers

theorem State.Keeps.rebuildVote : s₀.Keeps (s.rebuildVote k id b) := by
  unfold State.rebuildVote
  split
  · refine .ite h (h.each fun s r h => ?_)
    split
    exacts [h, .ite h.rebuildDone h.restartRebuild]
  · exact h

theorem State.Keeps.keepDigest {d : List Byte} : s₀.Keeps (s.keepDigest k id b dev gen d) := h.updShare

theorem State.Keeps.finishRebuild : s₀.Keeps (s.finishRebuild k j pj b r) := by
  unfold State.finishRebuild
  extract_lets n edge me s₁ s₂ s₃
  have h₂ : s₀.Keeps s₂ := by
    refine h.updShare.each fun s x h => ?_
    split
    · exact h
    · refine .ite (.installShare (.replayStep ?h₁)) (.installRecvShare (.replayStep ?h₁))
      exact .when h fun h => h.replayRoots
  have h₃ : s₀.Keeps s₃ := h₂.updPJob
  split
  · refine .ite (.sendDigest ?h₄) (.rebuildVote (.keepDigest ?h₄))
    exact .when h₃ fun h => h.updPlane fun _ => Plane.flow_errLog _
  · exact h₃

theorem State.Keeps.rebuildCheck : s₀.Keeps (s.rebuildCheck k id b) := by
  unfold State.rebuildCheck
  split
  · split
    exacts [h, .ite h.finishRebuild h]
  · exact h

theorem State.Keeps.sendCopy {target : Nat} : s₀.Keeps (s.sendCopy k j sh target gen) := by
  unfold State.sendCopy
  dsimp only
  exact ((h.each fun _ _ h => h.sendArray).each fun _ _ h => h.toDevice).each fun _ _ h => h.each fun _ _ h => h.sendArray

theorem State.Keeps.startRebuilds : s₀.Keeps (s.startRebuilds k id) := by
  unfold State.startRebuilds
  split
  exacts [h.each fun _ _ h => .each (.when h.updShare fun h => h.keepDigest) fun _ _ h => h.sendCopy, h]

theorem State.Keeps.keepDigests : s₀.Keeps (s.keepDigests k id) := by
  unfold State.keepDigests
  split
  exacts [h.each fun _ _ h => .ite h.sendDigest h.keepDigest.rebuildVote, h]

theorem State.Keeps.copyStatus : s₀.Keeps (s.copyStatus lane f) := by
  unfold State.copyStatus
  dsimp only
  split
  · exact h.frmDrop
  · split
    exacts [h.frmDrop, .ite h.frmDrop (.ite h.knownBad (.ite h.mirrorExpels (.ite h.updShare h.frmDrop)))]

theorem State.Keeps.shardDigest : s₀.Keeps (s.shardDigest lane f j pj) := by
  unfold State.shardDigest
  dsimp only
  split
  exacts [h.frmDrop, .ite h.frmDrop h.keepDigest.rebuildVote.digestCheck]

theorem State.Keeps.memberDigest : s₀.Keeps (s.memberDigest k j m f) := .ite h.frmDrop (.ite h.updPJob h.toDevice)

theorem State.Keeps.digestIn : s₀.Keeps (s.digestIn lane f) := by
  unfold State.digestIn
  dsimp only
  split
  · split
    · exact h.frmDrop
    · refine .ite h.frmDrop (.ite h.shardDigest ?_)
      split
      exacts [.ite h.memberDigest h.frmDrop, h.frmDrop]
  · split
    exacts [h.refuseFrame, .ite h.memberDigest h.refuseFrame]

theorem State.Keeps.digestTimeout : s₀.Keeps (s.digestTimeout k id b) := by
  unfold State.digestTimeout
  split
  exacts [.ite h (h.digestCheck.each fun _ _ h => .ite h h.restartRebuild), h]

theorem State.Keeps.judgeMembers : s₀.Keeps (s.judgeMembers k id) := by
  unfold State.judgeMembers
  split
  exacts [h, .ite h h.jobCtr.jobCtr.updPJob.report]

theorem State.Keeps.ckptIn : s₀.Keeps (s.ckptIn lane f keep) := by
  unfold State.ckptIn
  dsimp only
  split
  · exact h.frmDrop
  · refine .ite h.statusDevice.formatFlag (.ite h.replicate ?_)
    split
    exacts [h.frmDrop, .ite h.frmDrop (.ite h.updShare.rebuildCheck (.ite h.updShare.rebuildCheck h.frmDrop))]

theorem State.Keeps.noticeIn : s₀.Keeps (s.noticeIn lane f keep) := by
  unfold State.noticeIn
  dsimp only
  split
  exacts [h.frmDrop, .ite h.replicate h.updPlane.noticeCheck]

theorem State.Keeps.sendBlocks {words : Nat} : s₀.Keeps (s.sendBlocks k id b words) := by
  refine h.updPlane fun p => (Plane.flow_errLog _).trans ?_
  exact List.foldlRecOn (motive := fun q : Plane => q.errLog = p.errLog) _ _ rfl fun q hq _ _ => hq

theorem State.Keeps.kernelRun {e : QEntry} : s₀.Keeps (s.kernelRun k e flt) := by
  unfold State.kernelRun
  dsimp only
  split
  · refine .ite h.updShare.checkPair (.ite ?h₁ (.ite (.checkPair (.updShare (.badCopy (.poison ?h₁)))) ?_))
    · exact h.ctlFault.parityRead
    · refine .checkPair (.updShare (.sendBlocks ?_))
      refine .when (.when (.when (.ite (.poison ?hr) ?hr) fun h => h.badCopy) fun h => h.overflow) fun h => h.sendPSN
      exact h.ctlFault.parityRead.runKernel
  · exact h

theorem State.Keeps.refreshDone : s₀.Keeps (s.refreshDone k id flt) := by
  unfold State.refreshDone
  dsimp only
  split
  · split
    · exact h
    · refine .ite h (.ite ?h₁ (.ite (.checkPair (.when (.poison ?h₁) fun h => h.badCopy)) (.refreshRoot ?h₁)))
      exact h.updPJob.ctlFault.parityRead
  · exact h

theorem State.Keeps.beginStep : s₀.Keeps (s.beginStep k id) := by
  unfold State.beginStep
  split
  exacts [h.updPJob.arith.checkPair, h]

theorem State.Keeps.chainError {w : Nat × Nat × Nat} : s₀.Keeps (s.chainError job w) := by
  unfold State.chainError
  dsimp only
  split
  exacts [h.combError, h, h.combError, h.combError]

theorem State.Keeps.settleCombine {tot : W32} : s₀.Keeps (s.settleCombine job tot fl totalFault flagFault).2.2 := by
  unfold State.settleCombine
  dsimp only
  exact .snd (.takeFresh (.ite h.chainError h.chainError))

theorem State.Keeps.combine {pairs : List (Nat × W32 × Flags)} : s₀.Keeps (s.combine j step pairs totalFault flagFault) :=
  .when (h.settleCombine.edit.each fun _ _ h => h.updPlane fun _ => Plane.pushDown_errLog ..).updJob fun h => h.fenceJob

theorem State.Keeps.pairDrop : s₀.Keeps s.pairDrop := h.updHost.setErrsum

theorem State.Keeps.takePair {x : Pair} : s₀.Keeps (s.takePair k x totalFault flagFault) := by
  unfold State.takePair
  split
  exacts [h.pairDrop, .ite h.pairDrop (.ite h (.ite h.pairDrop (.ite h.combine h.edit)))]

theorem State.Keeps.choosePath {total : W32} : s₀.Keeps (s.choosePath k id total fl) := by
  unfold State.choosePath
  split
  exacts [h, .ite h.updPJob.fenceJob (.ite h.updPJob h.arith.updPJob)]

theorem State.Keeps.takeScalars : s₀.Keeps (s.takeScalars k) := by
  unfold State.takeScalars
  split
  · split
    exacts [h.choosePath, h]
  · split
    exacts [.when h.updPlane fun h => h.choosePath, h]

theorem State.Keeps.recordStop : s₀.Keeps (s.recordStop k id) := by
  unfold State.recordStop
  split
  exacts [h.arith.logWritten.updPJob, h]

theorem State.Keeps.floorCheck : s₀.Keeps (s.floorCheck k id) := by
  unfold State.floorCheck
  split
  exacts [.ite h.updJob.report h, h]

theorem State.Keeps.sendStop : s₀.Keeps (s.sendStop k id) := by
  unfold State.sendStop
  split
  · refine .ite (.each ?h₁ fun s x h => ?_) ?h₁
    · exact .updPJob (.multicastAll (.when h fun h => h.updPlane.multicastAll))
    · split
      exacts [h, h.convItems.arith.each fun _ _ h => h.multicast]
  · exact h

theorem State.Keeps.endPath : s₀.Keeps (s.endPath k id) := by
  unfold State.endPath
  extract_lets s₁ s₂ s₃ s₄
  have h₄ : s₀.Keeps s₄ := h.flushGathers.recordStop.updPlane.atComma.floorCheck.sendStop
  split
  · exact .retryGathers (.when h₄.keepDigests fun h => h.sendDigests)
  · exact h₄

theorem State.Keeps.commitDone : s₀.Keeps (s.commitDone k id) := by
  unfold State.commitDone
  split
  exacts [h, .ite h (.ite h.countReadWait h.endPath)]

theorem State.Keeps.rescaleShare : s₀.Keeps (s.rescaleShare k j pj sh fs again).2 := by
  unfold State.rescaleShare
  extract_lets own vals r r'
  have hr : s₀.Keeps r'.s := by
    dsimp only [r', r]
    split
    exacts [h.runKernel.runKernel, h.runKernel]
  exact .iteSnd hr (.snd (.when (.ite hr.poison hr) fun h => h.sendPSN))

theorem State.Keeps.rescaleAll {hs : List Share} : s₀.Keeps (s.rescaleAll k j pj again hs fs).2 := by
  induction hs generalizing s fs with
  | nil => exact h
  | cons y hs ih =>
    unfold State.rescaleAll
    exact .iteSnd h.rescaleShare (ih h.rescaleShare)

theorem State.Keeps.rescaleDone : s₀.Keeps (s.rescaleDone k id flt) := by
  unfold State.rescaleDone
  split
  · dsimp only
    refine .ite h (.ite h.countReadWait (.ite h.endPath (.ite h (.ite ?h₁ (.ite (.unless ?h₂ fun h => h.retirePlane) (.endPath ?h₂))))))
    · exact h.parityRead.ctlFault
    · refine .rescaleAll (.ite (.badCopy (.poison ?h₃)) (.ite (.poison ?h₃) ?h₃))
      exact h.parityRead.ctlFault
  · exact h

theorem State.Keeps.discardDone : s₀.Keeps (s.discardDone k id) := by
  unfold State.discardDone
  split
  exacts [h, .ite h h.updPJob.endPath]

theorem State.Keeps.emptyStep : s₀.Keeps (s.emptyStep k id) := h.updPlane.updPJob

theorem State.Keeps.installRoots : s₀.Keeps (s.installRoots k j pj) := by
  unfold State.installRoots
  dsimp only
  refine .ite h (.ite h.updPJob (h.each fun _ _ h => .ite (.ite h h.installRecvShare) ?_))
  exact h.installShare.each fun _ _ h => h.each fun _ _ h => h.each fun _ _ h => h.sendArray

theorem State.Keeps.applyReform : s₀.Keeps (s.applyReform k j pj) := by
  unfold State.applyReform
  split
  exacts [h, .ite h (.when h.updPJob fun h => h.edit.updJob)]

theorem State.Keeps.admitHeld : s₀.Keeps (s.admitHeld k id) := h.updPlane.each fun _ _ h => .ite h.loseStored (.ite h.partialIn h.grad)

theorem State.Keeps.reclaimPlane : s₀.Keeps (s.reclaimPlane k id) :=
  ((h.endWaits.each fun _ _ h => h.endApply).updPlane.each fun _ _ h => h.planeAnswer).updPlane.updPJob.settleJob

theorem State.Keeps.prefetchFirst : s₀.Keeps (s.prefetchFirst k id) := by
  unfold State.prefetchFirst
  split
  · split
    exacts [.ite h h.prefetchLayer, h]
  · exact h

theorem State.Keeps.nextStep : s₀.Keeps (s.nextStep k id) := h.beginStep.startReads.startRebuilds.admitHeld.schedule

theorem State.Keeps.drainWaits : ∀ t, s.drainWaits k pj = some t → s₀.Keeps t := by
  intro t ht
  unfold State.drainWaits at ht
  split at ht
  · cases ht
    exact h
  split at ht
  · cases ht
    exact .unless h fun h => h.jobCtr.updPJob
  split at ht
  · split at ht <;> cases ht
    exacts [h, h.planeCtr.updPlane]
  · cases ht

theorem State.Keeps.drainComplete : s₀.Keeps (s.drainComplete k id) := by
  unfold State.drainComplete
  split
  · refine .ite h ?_
    split
    · next hw => exact h.drainWaits _ hw
    · refine .ite (.fencePlane ?h₁) (.ite (.reclaimPlane ?h₁) (State.Keeps.prefetchFirst ?h₁).nextStep)
      exact h.emptyStep.installRoots.applyReform.updPJob
  · exact h

theorem State.Keeps.fenceOrder : s₀.Keeps (s.fenceOrder k) := by
  unfold State.fenceOrder
  split
  · dsimp only
    split
    exacts [h.updPlane, .ite h.updPlane.updPJob h.updPlane.fencePlane]
  · exact h

theorem State.Keeps.removeJob : s₀.Keeps (s.removeJob id) := (h.each fun _ _ h => h.updPlane).edit

end

/-! ### Restores, tests, jobs and frames (R75, R142 to R163, R254) -/

section
variable {s₀ s : State} (h : s₀.Keeps s) {isLog mirror : Bool} {b block cell id job m n : Nat} {c : PlaneCmd} {lane : DevLane} {f : Frame}
  {j : Job} {k : PlaneIx} {keep : Keep} {pj : PJob} {sh : Share} {st : Status} {vs : List W32}
include h

theorem State.Keeps.writeArray {i : Nat} {at' : Nat} : s₀.Keeps (s.writeArray k id b i at' vs) := by
  unfold State.writeArray
  split
  exacts [h, h.updShare.arith]

theorem State.Keeps.loadWrite {d : BucketDesc} : s₀.Keeps (s.loadWrite k j pj d sh f) :=
  .ite h.arith.writeArray (.ite h.arith.updShare (.ite h.arith.updShare h.arith.writeArray))

theorem State.Keeps.loadRefuse : s₀.Keeps (s.loadRefuse lane f mirror st) :=
  .ite (.jobCtr (.frmDrop (.ite h.formatFlag h))) (.refuseFrame (.ite h.formatFlag h))

theorem State.Keeps.loadRows : s₀.Keeps (s.loadRows lane f j pj m mirror keep) := by
  refine .ite h.loadRefuse ?_
  dsimp only
  split
  · exact h.loadRefuse
  · refine .ite h.loadRefuse ?_
    split
    · exact h.loadRefuse
    · refine .ite h.loadRefuse (.ite h.loadRefuse (.ite h.loadRefuse (.ite h.loadWrite ?_)))
      exact (h.loadWrite.each fun _ _ h => h.toDevice).status

theorem State.Keeps.load : s₀.Keeps (s.load lane f keep) := by
  unfold State.load
  dsimp only
  split
  exacts [h.loadRefuse, .ite h.relay h.loadRows]

theorem State.Keeps.takeRestoreBegin : s₀.Keeps (s.takeRestoreBegin k c) := h.withPJob fun _ _ => .ite h.planeAnswer h.updPJob.planeAnswer

theorem State.Keeps.replayCommit {x : StepHdr} : s₀.Keeps (s.replayCommit k j pj x) :=
  .ite h (.each (.ite h.replayRoots h) fun _ _ h => h.replayStep.installShare)

theorem State.Keeps.replayAll {xs : List StepHdr} : s₀.Keeps (s.replayAll k id xs n).2.2 := by
  induction xs generalizing s n with
  | nil => exact h
  | cons x xs ih =>
    unfold State.replayAll
    split
    · split
      · exact ih h
      · split
        · exact h
        · exact ih (.updPJob (.when h fun h => h.replayCommit))
    · exact h

theorem State.Keeps.takeRestoreReplay : s₀.Keeps (s.takeRestoreReplay k c) := h.withPJob fun _ _ => .ite h.planeAnswer h.replayAll.planeAnswer

theorem State.Keeps.leakCell : s₀.Keeps (s.leakCell k cell job) := by
  unfold State.leakCell
  dsimp only
  split
  exacts [.ite h.updPlane.error.planeCtr h.updPlane.error.updPlane, h.updPlane.error.planeCtr]

theorem State.Keeps.audit {f : AuditFinding} : s₀.Keeps (s.audit k cell f) := by
  unfold State.audit
  split
  exacts [h.updPlane, .ite h (.ite h.leakCell h.updPlane), h.error.planeCtr]

theorem State.Keeps.endCmdTest {t : TestRun} {cmd : Nat} : s₀.Keeps (s.endCmdTest k t cmd) := by
  unfold State.endCmdTest
  split
  exacts [h.updPlane, h.planeAnswer]

theorem State.Keeps.endRun {t : TestRun} {failed : Bool} : s₀.Keeps (s.endRun k t failed) := by
  unfold State.endRun
  dsimp only
  refine .ite h.updPlane.updPlane ?_
  split
  exacts [h.updPlane.updPlane.endCmdTest, h.updPlane.updPlane]

theorem State.Keeps.segmentDone {run1 run2 : SegRun} {unit : Nat} : s₀.Keeps (s.segmentDone k block run1 run2 unit) := by
  unfold State.segmentDone
  split
  · exact h
  · dsimp only
    refine .ite h (.ite ?h₁ (.ite (.endRun ?h₁) (.updPlane ?h₁)))
    exact .ite h.updPlane (.ite h.updPlane.error h.updPlane.error.error)

theorem State.Keeps.testOverdue : s₀.Keeps (s.testOverdue k block) := by
  unfold State.testOverdue
  split
  exacts [h, h.updPlane.writeRecord]

theorem State.Keeps.watchdog {core : Fin 4} : s₀.Keeps (s.watchdog k core) :=
  .ite h (.ite h.error (h.error.reportLost.updPlane.each fun _ _ h => h.planeAnswer).dropPlaneJobs)

theorem State.Keeps.openJob {c : Held} {peers : List (Nat × Nat × Nat)} : s₀.Keeps (s.openJob c j peers) := h.edit.updJob.handOut

theorem State.Keeps.takeJobOpen : s₀.Keeps (s.takeJobOpen k c) := by
  unfold State.takeJobOpen
  split
  exacts [h.planeAnswer, .ite h.planeAnswer (.ite h.planeAnswer (h.updPlane.each fun _ _ h => h.wakeLane).planeAnswer)]

theorem State.Keeps.takeJobStart : s₀.Keeps (s.takeJobStart k c) :=
  h.withPJob fun _ _ => .ite h.planeAnswer (h.updJob.each fun _ _ h => h.toDevice).jdigCheck.nextStep.retryGathers.planeAnswer

theorem State.Keeps.closeQuiet : s₀.Keeps (s.closeQuiet j) := (h.updJob.each fun _ _ h => h.fencePlane).releaseGroups

theorem State.Keeps.closeJob {c : Held} : s₀.Keeps (s.closeJob c j) := by
  unfold State.closeJob
  extract_lets s₁ s₂
  have h₂ : s₀.Keeps s₂ := h.updHeld.updJob.each fun _ _ h => h.endReads
  split
  exacts [h₂.fenceJob, h₂.fenceJob, h₂.closeQuiet, h₂]

theorem State.Keeps.takeJobQuery : s₀.Keeps (s.takeJobQuery k c) := h.withPJob fun _ _ => h.planeAnswer
theorem State.Keeps.notify {c : Held} : s₀.Keeps (s.notify c j) := h.each fun _ _ h => .ite h.updPlane h.updHost

theorem State.Keeps.reclaimLoading {r : ReclaimSt} : s₀.Keeps (s.reclaimLoading j r) := by
  unfold State.reclaimLoading
  exact (h.updJob.each fun _ _ h => h.reclaimPlane).releaseGroups.reclaimReport

theorem State.Keeps.takeReclaim : s₀.Keeps (s.takeReclaim k c) := h.updJob

theorem State.Keeps.readCmd {c : Held} : s₀.Keeps (s.readCmd c isLog) := by
  unfold State.readCmd
  dsimp only
  split
  exacts [h.replyPlanes, .ite h.replyPlanes (.ite h.replyPlanes h.handOut)]

theorem State.Keeps.takeRead : s₀.Keeps (s.takeRead k c isLog) := h.withPJob fun _ _ => .unless h.updPlane fun h => h.startRead
theorem State.Keeps.takeCkptRead : s₀.Keeps (s.takeCkptRead k c) := h.takeRead
theorem State.Keeps.takeLogRead : s₀.Keeps (s.takeLogRead k c) := h.takeRead
theorem State.Keeps.takeGroupReform : s₀.Keeps (s.takeGroupReform k c) := h.updPJob.checkPair
theorem State.Keeps.takeMemberFence : s₀.Keeps (s.takeMemberFence k c) := h.withPJob fun _ _ => .ite h.planeAnswer h.updPlane

theorem State.Keeps.setBlock {c : Held} {ok : Job → Bool} {pend : PJob → PJob} : s₀.Keeps (s.setBlock c ok pend) := by
  unfold State.setBlock
  dsimp only
  split
  exacts [h.reply, .ite h.reply (.ite (.ite h.handOut h.reply) (.ite h.reply (h.each fun _ _ h => h.updPJob).reply))]

theorem State.Keeps.takeOptSet : s₀.Keeps (s.takeOptSet k c) := h.withPJob fun _ _ => .ite h.planeAnswer h.updPJob.planeAnswer
theorem State.Keeps.takeOptRead : s₀.Keeps (s.takeOptRead k c) := h.withPJob fun _ _ => h.planeAnswer
theorem State.Keeps.takePrecSet : s₀.Keeps (s.takePrecSet k c) := h.withPJob fun _ _ => .ite h.planeAnswer h.updPJob.planeAnswer

theorem State.Keeps.takeCmd : s₀.Keeps (s.takeCmd k c) := by
  unfold State.takeCmd
  split
  exacts [h.takeDevStatus, h.takeCntRead, h.takeAstatRead, h.takeJobOpen, h.takeJobStart, h.takeJobQuery, h.takeReclaim, h.takeCkptRead,
    h.takeLogRead, h.takeRestoreBegin, h.takeRestoreReplay, h.takeGroupReform, h.takeMemberFence, h.queueSync, h.queueSync, h.queueSync,
    h.queueSync, h.takeBucketQuery, h.takeExpandSet, h.takeHistRead, h.takeOptSet, h.takeOptRead, h.takePrecSet, h.takeStashQuery,
    h.takeTreeRead, h.takeRateSet, h.takeRateRead, h.takeShapeSet, h.takeShapeRead, h.takeGatePhase, h.takeGateRead, h.takeLaneStatus,
    h.takeLaneEq, h.takeLaneHold, h.takeLaneRelease, h.takeLaneDormant, h.takeLaneWake, h.takeLaneDisable, h.takeLaneEnable,
    h.takeLaneFwd, h.takeTestRun, h]

theorem State.Keeps.planeTake : s₀.Keeps (s.planeTake k) := by
  unfold State.planeTake
  split
  exacts [h, h.updPlane.refillCmdIn.takeCmd]

theorem State.Keeps.handleBy {x : Parked} : s₀.Keeps (s.handleBy x) := by
  refine .ite h.grad (.ite h.partialIn (.ite h.doneIn (.ite h.copyStatus (.ite h.peerIn (.ite h.load (.ite h.greq (.ite h.ack ?_)))))))
  refine .ite h.rdreq (.ite h.sread (.ite h.noticeIn (.ite h.sync (.ite h.desc (.ite h.ckptIn (.ite h.digestIn ?_))))))
  exact .ite h.normIn (.ite h.jdigIn h)

theorem State.Keeps.handle {x : Parked} : s₀.Keeps (s.handle x) := by
  unfold State.handle
  dsimp only
  split
  exacts [h.handleBy.badCopy, h.handleBy]

theorem State.Keeps.resumeOne : s₀.Keeps (s.resumeOne k) := by
  refine .ite h ?_
  split
  exacts [h, .ite h.updPlane.loseStored (.when h.updPlane.police fun h => h.workFault.handle)]

theorem State.Keeps.resume : s₀.Keeps (s.resume k) := h.each fun _ _ h => h.resumeOne

end

/-! ### Rows with outcomes of their own -/

section
variable {s₀ s : State} (h : s₀.Keeps s) {dev flagFault job layer totalFault : Nat} {d lane : DevLane} {flt : ItemFault} {k : PlaneIx}
  {p : Packet}
include h

theorem State.Keeps.railFails : s₀.Keeps (s.railFails k) := .ite h (.ite h.updPlane h.retirePlane.updPlane)
theorem State.Keeps.bootSettled : s₀.Keeps s.bootSettled := .when (.when h fun h => h.setHpFault) fun h => h.setErrsum

theorem State.Keeps.onLinks {f : State → State} (hf : ∀ s, s₀.Keeps s → s₀.Keeps (f s)) : Goes (s.onLinks k f) s₀.Keeps :=
  .next (.when h (hf s))

theorem State.Keeps.frameIn {rx : RxFrame} {ops : List Nat} : Goes (frameIn s lane rx ops) s₀.Keeps := .next (h.receive fun _ _ h => h.handle)

theorem State.Keeps.execErrlogRead : Goes (execErrlogRead p s) s₀.Keeps := by
  refine .next (h.dispatch fun c s h => ?_)
  dsimp only
  split
  exacts [h.reply, .ite h.reply h.takeFresh.reply]

theorem State.Keeps.execFwLoad : Goes (execFwLoad p s) s₀.Keeps := by
  refine .next (h.dispatch fun c s h => .ite h.reply (.reply (h.onHost (.of_fits ?_))))
  exact fun ⟨ha, hs, hr, hl⟩ => ⟨ha, memWriteN_wf _ _ hs, hr, hl⟩

theorem State.Keeps.execFwCommit : Goes (execFwCommit p s) s₀.Keeps := by
  refine .next (h.dispatch fun c s h => .ite h.reply (.ite h.updHeld.updHost (.reply (h.onHost (.of_fits ?_)))))
  exact fun ⟨ha, _, hr, hl⟩ => ⟨ha, rfl, hr, hl⟩

theorem State.Keeps.execCntRead : Goes (execCntRead p s) s₀.Keeps := by
  refine .next (h.dispatch fun c s h => .ite h.toPlanes ?_)
  split
  exacts [.ite h.replyPlanes h.toJobPlanes, h.toJobPlanes]

theorem State.Keeps.execRateSet : Goes (execRateSet p s) s₀.Keeps := by
  refine .next (h.dispatch fun c s h => ?_)
  split
  exacts [h.reply, .ite h.reply (.ite h.reply h.handOut)]

theorem State.Keeps.execExpandSet : Goes (execExpandSet p s) s₀.Keeps := by
  refine .next (h.dispatch fun c s h => ?_)
  split
  exacts [.ite h.toJobPlanes h.expandRefused, h.expandRefused]

theorem State.Keeps.execPrecRead : Goes (execPrecRead p s) s₀.Keeps := by
  refine .next (h.dispatch fun c s h => ?_)
  split
  exacts [h.reply, .ite h.reply h.reply]

theorem State.Keeps.execJobDefine : Goes (execJobDefine p s) s₀.Keeps := by
  refine .next (h.dispatch fun c s h => .ite h.reply ?_)
  split
  exacts [.ite h.updJob.reply h.reply, .ite h.reply (.ite h.reply h.edit.reply)]

theorem State.Keeps.execJobTable : Goes (execJobTable p s) s₀.Keeps := by
  refine .next (h.dispatch fun c s h => ?_)
  dsimp only
  split
  exacts [h.reply, .ite h.reply (.ite h.reply h.updJob.reply)]

theorem State.Keeps.execReplSet : Goes (execReplSet p s) s₀.Keeps := by
  refine .next (h.dispatch fun c s h => ?_)
  dsimp only
  split
  exacts [h.reply, .ite h.reply h.updJob.reply]

theorem State.Keeps.execJobOpen : Goes (execJobOpen p s) s₀.Keeps := by
  refine .next (h.dispatch fun c s h => .ite h.reply ?_)
  split
  · exact h.reply
  · refine .ite h.reply ?_
    dsimp only
    split
    exacts [h.openJob, h.reply]

theorem State.Keeps.execJobStart : Goes (execJobStart p s) s₀.Keeps := by
  refine .next (h.dispatch fun c s h => ?_)
  split
  exacts [h.reply, .ite h.reply h.updJob.handOut]

theorem State.Keeps.execJobClose : Goes (execJobClose p s) s₀.Keeps := by
  refine .next (h.dispatch fun c s h => ?_)
  split
  exacts [h.reply, .ite h.reply (.ite h.edit.reply h.closeJob)]

theorem State.Keeps.execJobCloseReleased : Goes (execJobCloseReleased job s) s₀.Keeps := by
  refine .next ?_
  split
  · exact h
  · split
    exacts [h, .ite h.removeJob.updHost.answer.updHost h]

theorem State.Keeps.execJobQuery : Goes (execJobQuery p s) s₀.Keeps := by
  refine .next (h.dispatch fun c s h => ?_)
  split
  exacts [h.reply, .ite h.edit.reply h.edit.handOut]

theorem State.Keeps.execReclaim : Goes (execReclaim p s) s₀.Keeps := by
  refine .next (h.dispatch fun c s h => .ite h.reply ?_)
  split
  · exact h.reply
  · refine .ite h.reply (.ite h.reply ?_)
    dsimp only
    split
    exacts [h.reply.reclaimLoading, h.reply.updJob.notify, h.reply.updJob, h.reply]

theorem State.Keeps.execRestoreBegin : Goes (execRestoreBegin p s) s₀.Keeps := by
  refine .next (h.dispatch fun c s h => ?_)
  split
  exacts [h.reply, .ite h.reply h.updJob.handOut]

theorem State.Keeps.execRestoreReplay : Goes (execRestoreReplay p s) s₀.Keeps := by
  refine .next (h.dispatch fun c s h => ?_)
  split
  exacts [h.reply, .ite h.handOut h.reply]

theorem State.Keeps.execGroupReform : Goes (execGroupReform p s) s₀.Keeps := by
  refine .next (h.dispatch fun c s h => ?_)
  split
  · exact h.reply
  · dsimp only
    split
    exacts [h.edit.updJob.reply.notify, h.reply]

theorem State.Keeps.execMemberFence : Goes (execMemberFence p s) s₀.Keeps := by
  refine .next (h.dispatch fun c s h => ?_)
  split
  exacts [h.reply, .ite h.reply (.ite h.reply h.updJob.handOut)]

theorem State.Keeps.execGatherWindowExpiry : Goes (execGatherWindowExpiry k job layer s) s₀.Keeps := by
  refine .next (.ite h ?_)
  split
  exacts [h, h.startGather]

theorem State.Keeps.execNoticeCopyTimeout : Goes (execNoticeCopyTimeout k job dev s) s₀.Keeps := by
  refine .next ?_
  split
  exacts [h, h.noticeCheck.planeCtr]

theorem State.Keeps.execChunkSetDone : Goes (execChunkSetDone k flt s) s₀.Keeps := by
  refine .next ?_
  split
  exacts [h, h.chunkSetDone.schedule]

theorem State.Keeps.execKernelRun : Goes (execKernelRun k flt s) s₀.Keeps := by
  refine .next (.ite h ?_)
  split
  · exact h
  · refine State.Keeps.kernelRun ?_
    refine h.updPlane fun p => ?_
    exact Plane.flow_errLog _

theorem State.Keeps.execScalarPair : Goes (execScalarPair k totalFault flagFault s) s₀.Keeps := by
  refine .next ?_
  split
  exacts [h, h.updPlane.takePair]

theorem State.Keeps.execReclaimDeadline : Goes (execReclaimDeadline job s) s₀.Keeps := by
  refine .next ?_
  split
  exacts [h, .ite h (.ite h.updJob h.fenceJob)]

theorem State.Keeps.execRingFenceHoldExpiry : Goes (execRingFenceHoldExpiry job s) s₀.Keeps := by
  refine .next ?_
  split
  exacts [h, .ite h.fenceJob h]

theorem State.Keeps.execCkholdExpiry : Goes (execCkholdExpiry job s) s₀.Keeps := by
  refine .next ?_
  split
  exacts [h, .ite h (h.each fun _ _ h => h.endReads).jobReport.removeJob]

theorem State.Keeps.execMemberFenceApply : Goes (execMemberFenceApply k job s) s₀.Keeps := by
  refine .next (.ite h.applyFirst ?_)
  split
  exacts [h, h.fenceMember]

theorem State.Keeps.execSyncWaitTimeout {wait : Nat} : Goes (execSyncWaitTimeout k wait s) s₀.Keeps := by
  refine .next ?_
  split
  exacts [h, h.endWait]

/-! ### Rows of lanes and engines -/

theorem State.Keeps.execLossOfLight : Goes (execLossOfLight d s) s₀.Keeps := h.onLinks fun _ h => h.lossOfLight
theorem State.Keeps.execReceiveClockLoss : Goes (execReceiveClockLoss d s) s₀.Keeps := h.onLinks fun _ h => .ite h h.updLane.linkLoss

theorem State.Keeps.execFecLockLoss {uncorrectable : Nat} : Goes (execFecLockLoss d uncorrectable s) s₀.Keeps :=
  h.onLinks fun _ h => .ite h h.laneCtr.updLane.linkLoss

theorem State.Keeps.execTrainWhileUp {t : TrainInfo} : Goes (execTrainWhileUp d t s) s₀.Keeps := h.onLinks fun _ h => .ite h.laneDown.updLane h
theorem State.Keeps.execDormantReceived : Goes (execDormantReceived d s) s₀.Keeps := h.onLinks fun _ h => h.dormantIn
theorem State.Keeps.execTransmitterFault : Goes (execTransmitterFault d s) s₀.Keeps := h.onLinks fun _ h => h.txFault

theorem State.Keeps.execEngineControlFault {e : Fin 16} : Goes (execEngineControlFault e s) s₀.Keeps :=
  h.onLinks fun _ h => h.each fun _ _ h => h.txFault

theorem State.Keeps.execHighLaserBias : Goes (execHighLaserBias d s) s₀.Keeps := h.onLinks fun _ h => .ite h.updLane.error h
theorem State.Keeps.execInvalidBlock : Goes (execInvalidBlock d s) s₀.Keeps := h.onLinks fun _ h => .ite h h.laneCtr
theorem State.Keeps.execPatternLock {t : TrainInfo} : Goes (execPatternLock d t s) s₀.Keeps := h.onLinks fun _ h => h.patternLock

theorem State.Keeps.execPatternLockLost {erroredBlocks : Nat} : Goes (execPatternLockLost d erroredBlocks s) s₀.Keeps :=
  h.onLinks fun _ h => .ite h.laneCtr.updLane h

theorem State.Keeps.execReadyTimerExpiry : Goes (execReadyTimerExpiry d s) s₀.Keeps := h.onLinks fun _ h => .ite h.updLane h
theorem State.Keeps.execLaneUp {t : TrainInfo} : Goes (execLaneUp d t s) s₀.Keeps := h.onLinks fun _ h => h.bringUp
theorem State.Keeps.execDownHoldoffExpiry : Goes (execDownHoldoffExpiry d s) s₀.Keeps := h.onLinks fun _ h => h.updLane
theorem State.Keeps.execNoechoTimeout : Goes (execNoechoTimeout d s) s₀.Keeps := h.onLinks fun _ h => .ite h.updLane h
theorem State.Keeps.execPolarityFlip {e : Fin 16} : Goes (execPolarityFlip e s) s₀.Keeps := h.onLinks fun _ h => h.flipPolarity

theorem State.Keeps.execPolarityFlipDone {e : Fin 16} {lit : BitVec 8} : Goes (execPolarityFlipDone e lit s) s₀.Keeps :=
  h.onLinks fun _ h => h.flipDone

theorem State.Keeps.execEngineReevaluate {e : Fin 16} : Goes (execEngineReevaluate e s) s₀.Keeps := h.onLinks fun _ h => .ite h.updEngine h
theorem State.Keeps.execDormantWakeLight : Goes (execDormantWakeLight d s) s₀.Keeps := h.onLinks fun _ h => .ite h.lightIn.wakeLane h
theorem State.Keeps.execLightReturn : Goes (execLightReturn d s) s₀.Keeps := h.onLinks fun _ h => h.lightIn

end

/-! ### The rows of the table -/

section
variable {s₀ s : State} (h : s₀.Keeps s)
include h

/-- The rows that write what `State.Keeps` fixes: those of the module, of boot and of the non-volatile store, and those that may enable the reply
area or count an overrun. -/
def ordinary : Instr → Bool
  | .apertureWrite .. | .raenEnable .. | .bar0Write .. | .fwCommitProgramDone | .calWriteDone | .planesReleased | .bootEnd ..
  | .deviceWatchdogExpiry | .inputPowerUp .. | .inputUndervoltage | .inputOvervoltage .. | .mateDetectOpen | .inputFuseOpen | .rstInAssert
  | .perstAssert | .resetRelease .. | .rstOutRelease | .thermalTrip | .powerCapEvaluation .. | .referenceClockLoss | .alertInLow
  | .smbusReadWord .. | .smbusTimeout | .standbyDiodeRead .. | .inputLowRange .. | .alertInRelease | .alertOutStuck => false
  | _ => true

/-- Every other row goes on to a state that keeps. -/
theorem State.Keeps.row {i : Instr} (hi : ordinary i = true) : Goes (exec i s) s₀.Keeps := by
  cases i with
  | packetTake => exact .next h.packetTake
  | replyWrite => exact .next h.replyWrite
  | raenDisable => exact .ite (.next h.raenOff) (.next h)
  | interruptEnableWrite => exact .ite (.next h.updHost) (.next h)
  | rabaseWrite => exact .ite (.next h.writeRabase) (.next h)
  | rasizeWrite => exact .ite (.next h.writeRasize) (.next h)
  | ratailWrite => exact .ite (.next h.writeRatail) (.next h)
  | errsumClear => exact .ite (.next h.clearErrsum) (.next h)
  | carestartClear => exact .ite (.next h.clearCarestart) (.next h)
  | msixVectorUnmask => exact .ite (.next h.msixControl) (.next h)
  | counterLowerRead => exact .ite (.next h.counterLower) (.next h)
  | bar0MalformedRead => exact .ite (.next h.bar0Read) (.next h)
  | devInfo | jobList | boardQuery | obsRead | fwQuery => exact .next (h.dispatch fun _ _ h => h.reply)
  | devStatus | astatRead | shapeRead | gateRead | laneStatus | laneHold | laneRelease | laneDormant | laneWake | laneDisable
  | laneEnable => exact .next (h.dispatch fun _ _ h => h.toPlanes)
  | cntRead => exact h.execCntRead
  | barrier => exact .next (h.dispatch fun _ _ h => h.updHeld.onHost (HostPort.Keeps.refl _).barriers_endDrain)
  | jobDefine => exact h.execJobDefine
  | jobTable => exact h.execJobTable
  | jobOpen => exact h.execJobOpen
  | jobStart => exact h.execJobStart
  | jobClose => exact h.execJobClose
  | jobCloseReleased => exact h.execJobCloseReleased
  | jobQuery => exact h.execJobQuery
  | reclaim => exact h.execReclaim
  | ckptRead | logRead => exact .next (h.dispatch fun _ _ h => h.readCmd)
  | ckptReadDone => exact .next h.ckptDone
  | replSet => exact h.execReplSet
  | restoreBegin => exact h.execRestoreBegin
  | restoreReplay => exact h.execRestoreReplay
  | groupReform => exact h.execGroupReform
  | memberFence => exact h.execMemberFence
  | syncAdd | syncSet | syncWait | syncRead | bucketQuery | histRead | optRead | stashQuery | treeRead
  | rateRead => exact .next (h.dispatch fun _ _ h => h.toJobPlanes)
  | expandSet => exact h.execExpandSet
  | optSet | precSet => exact .next (h.dispatch fun _ _ h => h.setBlock)
  | precRead => exact h.execPrecRead
  | rateSet => exact h.execRateSet
  | shapeSet | laneEq | laneFwd => exact .next (h.dispatch fun _ _ h => .ite h.toPlanes h.refuseLanes)
  | gatePhase | testRun => exact .next (h.dispatch fun _ _ h => .ite h.toPlanes h.replyPlanes)
  | errlogRead => exact h.execErrlogRead
  | obsSet => exact .next (h.dispatch fun _ _ h => .ite h.updHost.reply h.reply)
  | fwLoad => exact h.execFwLoad
  | fwCommit => exact h.execFwCommit
  | attest => exact .next (h.dispatch fun _ _ h => h.updHost.reply)
  | manifestRead | calRead => exact .next (h.dispatch fun _ _ h => h.readRange)
  | calWrite => exact .next (h.dispatch fun _ _ h => .ite h.reply (.ite h.reply h.updHeld.updHost))
  | gradFrame | partialFrame | doneFrame | peerFrameReplicate | loadFrame | greqFrame | ackFrame | noticeCopyFrame | syncFrame | descFrame
  | ckptFrame | sreadFrame | digestFrame | normFrame | jdigFrame => exact h.frameIn
  | gatherWindowExpiry => exact h.execGatherWindowExpiry
  | rdreqFrame => exact .next (h.receive fun _ _ h => h.handle)
  | noticeCopyTimeout => exact h.execNoticeCopyTimeout
  | digestCompareTimeout => exact .next h.digestTimeout
  | memberDigestJudge => exact .next h.judgeMembers
  | chunkSetDone => exact h.execChunkSetDone
  | bucketTimerExpiry => exact .next h.bucketTimer
  | kernelRun => exact h.execKernelRun
  | earlyPublication => exact .next h.earlyPublish
  | rootRefreshDone => exact .next h.refreshDone
  | scalarPair => exact h.execScalarPair
  | combinedScalars => exact .next h.takeScalars
  | commitDone => exact .next h.commitDone
  | rescaleDone => exact .next h.rescaleDone
  | discardDone => exact .next h.discardDone
  | drainComplete => exact .next h.drainComplete
  | scalarFenceOrder => exact .next h.fenceOrder
  | reclaimDeadline => exact h.execReclaimDeadline
  | ringFenceHoldExpiry => exact h.execRingFenceHoldExpiry
  | ckholdExpiry => exact h.execCkholdExpiry
  | commandApplyPoint => exact .next h.applyFirst
  | memberFenceApply => exact h.execMemberFenceApply
  | resultRetentionAdmit => exact .next h.admitResult
  | ackTimeout => exact .next h.ackTimeout
  | syncWaitTimeout => exact h.execSyncWaitTimeout
  | creditReturn => exact .next h.creditReturn.resume
  | egressSelect => exact .next h.egressSelect
  | refill => exact .next h.refill
  | gateWindowOpen => exact .ite (.next h) (.next h.updPlane)
  | gateWindowClose => exact .next h.updPlane
  | gateCycleStart => exact .ite (.next h.updPlane) (.next h.updPlane)
  | bufferAudit => exact .next (.ite h.audit h)
  | testDue => exact .next (.ite h h.updPlane)
  | testSegmentDone => exact .next h.segmentDone
  | testOverdue => exact .next h.testOverdue
  | watchdogExpiry => exact .next h.watchdog
  | planeRestartDone => exact .next (.ite h.updPlane h)
  | lossOfLight => exact h.execLossOfLight
  | receiveClockLoss => exact h.execReceiveClockLoss
  | fecLockLoss => exact h.execFecLockLoss
  | trainWhileUp => exact h.execTrainWhileUp
  | dormantReceived => exact h.execDormantReceived
  | transmitterFault => exact h.execTransmitterFault
  | engineControlFault => exact h.execEngineControlFault
  | highLaserBias => exact h.execHighLaserBias
  | invalidBlock => exact h.execInvalidBlock
  | patternLock => exact h.execPatternLock
  | patternLockLost => exact h.execPatternLockLost
  | readyTimerExpiry => exact h.execReadyTimerExpiry
  | noechoTimeout => exact h.execNoechoTimeout
  | laneUp => exact h.execLaneUp
  | downHoldoffExpiry => exact h.execDownHoldoffExpiry
  | polarityFlip => exact h.execPolarityFlip
  | polarityFlipDone => exact h.execPolarityFlipDone
  | engineReevaluate => exact h.execEngineReevaluate
  | dormantWakeLight => exact h.execDormantWakeLight
  | planeRailTimeout | railFault => exact .next h.railFails
  | throttleEvaluation => exact .ite (.next h.updPlane) (.next h)
  | smbusWrite => exact .next h
  | planeCommandTake => exact .next (.ite h.planeTake h)
  | lightReturn => exact h.execLightReturn
  | apertureWrite | raenEnable | bar0Write | fwCommitProgramDone | calWriteDone | planesReleased | bootEnd | deviceWatchdogExpiry
  | inputPowerUp | inputUndervoltage | inputOvervoltage | mateDetectOpen | inputFuseOpen | rstInAssert | perstAssert | resetRelease
  | rstOutRelease | thermalTrip | powerCapEvaluation | referenceClockLoss | alertInLow | smbusReadWord | smbusTimeout | standbyDiodeRead
  | inputLowRange | alertInRelease | alertOutStuck => exact absurd hi Bool.false_ne_true

end

/-! ## The invariant of every step (R248, R292) -/

/-- What every row does, those of the module and of boot included: it leaves the queue as it is and keeps the invariant. -/
structure State.Guards (s t : State) : Prop where
  pending : t.pending = s.pending
  inv : s.Inv → t.Inv

theorem State.Keeps.guards {s t : State} (h : s.Keeps t) : s.Guards t := ⟨congrArg (·.1) h.fixed, h.inv⟩

theorem State.Guards.refl (s : State) : s.Guards s := (State.Keeps.refl s).guards

theorem State.Guards.ite {s₀ : State} {c : Prop} [Decidable c] {a b : State} (ha : s₀.Guards a) (hb : s₀.Guards b) :
    s₀.Guards (if c then a else b) := by
  split <;> assumption

section
variable {s₀ s : State} (h : s₀.Guards s)
include h

theorem State.Guards.keeps {t : State} (g : s.Keeps t) : s₀.Guards t := ⟨g.guards.pending.trans h.pending, g.inv ∘ h.inv⟩

theorem State.Guards.via {t : State} (g : s.Keeps s → s.Keeps t) : s₀.Guards t := h.keeps (g (.refl s))

/-- The non-volatile contents, the module, boot and the partition view are no part of the invariant. -/
theorem State.Guards.edit {n : Nat} {v : NonVol} {m : Module} {b : Boot} {p : PartView} :
    s₀.Guards ⟨s.pending, n, v, m, b, p, s.host, s.comb, s.groups, s.jobs, s.planes, s.out⟩ := ⟨h.pending, h.inv⟩

theorem State.Guards.onHost {f : HostPort → HostPort} (hf : s.host.Fits → (f s.host).Fits) : s₀.Guards (s.updHost f) := by
  refine ⟨h.pending, fun hi => ?_⟩
  obtain ⟨ha, hs, hm, hr, hl, hp⟩ := h.inv hi
  obtain ⟨ha, hs, hr, hl⟩ := hf ⟨ha, hs, hr, hl⟩
  exact ⟨ha, hs, hm, hr, hl, hp⟩

/-! ### The reply area and the aperture (R282, R283, R358) -/

theorem State.Guards.raenOn {e : BitVec 3} : s₀.Guards (s.raenOn e) := by
  have h₁ : s₀.Guards (s.updHost fun p => p.setEnables e) := h.onHost id
  exact .ite (h₁.via fun h => h.badAcc) (.ite h₁ (h₁.onHost fun ⟨_, hs, hr, hl⟩ => ⟨rfl, hs, hr, hl⟩))

theorem State.Guards.bar0Write4 {off : Nat} {v : W32} : s₀.Guards (s.bar0Write4 off v) := by
  unfold State.bar0Write4
  split
  exacts [h.via fun h => h.clearCarestart, h.via fun h => h.writeRabase, h.via fun h => h.writeRabase, h.via fun h => h.writeRasize,
    .ite h.raenOn (h.via fun h => h.raenOff), h.via fun h => h.writeRatail, h.via fun h => h.clearErrsum,
    h.via fun h => .ite h.msixWrite h.badAcc]

theorem State.Guards.bar0Write {off size : Nat} {v : W64} : s₀.Guards (s.bar0Write off size v) :=
  .ite h.bar0Write4 (.ite h.bar0Write4.bar0Write4 (h.via fun h => h.badAcc))

omit h in
theorem HostPort.apertureWrite_fits {p : HostPort} (off : Nat) (data : List Byte) (hp : p.Fits) : (p.apertureWrite off data).Fits := by
  obtain ⟨ha, hs, hr, hl⟩ := hp
  unfold HostPort.apertureWrite HostPort.readHeader
  split
  · exact ⟨ha, hs, hr, hl⟩
  · split
    · exact ⟨ha, hs, hr, hl⟩
    · have hw := ringWrite_wf apertureSize data off ha
      dsimp only
      split <;> exact ⟨hw, hs, hr, hl⟩

/-! ### Boot (R314, R315) -/

theorem State.Guards.raiseSvn {svnFails : Bool} : s₀.Guards (s.raiseSvn svnFails) := .ite (.ite h.edit h.edit) h

theorem State.Guards.releasePlanes {svnFails : Bool} : s₀.Guards (s.releasePlanes svnFails) := by
  unfold State.releasePlanes
  extract_lets s₁ s₂ b s₃
  have h₁ : s₀.Guards s₁ := State.Guards.raiseSvn (.edit h)
  have h₂ : s₀.Guards s₂ := h₁.via fun h => h.each fun _ _ h => h.updPlane fun _ => Plane.release_errLog ..
  have h₃ : s₀.Guards s₃ := h₂.edit
  exact .ite (h₃.via fun h => h.setHpFault) h₃

theorem State.Guards.bootEnd {svnFails : Bool} : s₀.Guards (s.bootEnd svnFails) := by
  unfold State.bootEnd
  split
  · exact h.edit.via fun h => h.bootSettled
  · extract_lets s₁
    have h₁ : s₀.Guards s₁ := .ite h.releasePlanes h
    exact h₁.edit.via fun h => h.bootSettled

/-! ### The module (R336, R340, R341, R347) -/

/-- A reset leaves nothing stored but the host's memory. -/
theorem State.Guards.holdReset : s₀.Guards s.holdReset := by
  refine ⟨h.pending, fun hi => ?_⟩
  obtain ⟨-, -, hm, -⟩ := h.inv hi
  exact ⟨rfl, rfl, hm, Nat.zero_le _, Nat.zero_le _, fun k => (congrArg (·.errLog.length) (State.holdReset_plane s k)).trans_le (Nat.zero_le _)⟩

theorem State.Guards.setRails {on : Bool} : s₀.Guards (s.setRails on) := h.edit.via fun h => h.each fun _ _ h => h.updPlane

theorem State.Guards.powerOff : s₀.Guards s.powerOff := h.holdReset.setRails.edit

theorem State.Guards.pinReset : s₀.Guards s.pinReset := .ite h (.ite (.ite h.setRails.edit h) h.holdReset)

/-! ### The rows -/

theorem State.Guards.fwCommitProgramDone : Goes (execFwCommitProgramDone s) s₀.Guards := by
  unfold execFwCommitProgramDone
  split
  · exact .next h
  · exact .next ((h.onHost fun ⟨ha, _, hr, hl⟩ => ⟨ha, rfl, hr, hl⟩).edit.via fun h => h.answer)

theorem State.Guards.calWriteDone : Goes (execCalWriteDone s) s₀.Guards := by
  unfold execCalWriteDone
  split
  · exact .next h
  · exact .next ((h.onHost id).edit.via fun h => h.answer)

/-- Every row goes on, with the queue as it was and the invariant kept. -/
theorem State.Guards.row (i : Instr) : Goes (exec i s) s₀.Guards := by
  cases hi : ordinary i with
  | true =>
    obtain ⟨t, ht, hk⟩ := (State.Keeps.refl s).row hi
    exact ⟨t, ht, h.keeps hk⟩
  | false =>
    cases i with
    | apertureWrite => exact .ite (.next (h.onHost (HostPort.apertureWrite_fits _ _))) (.next h)
    | raenEnable => exact .ite (.next h.raenOn) (.next h)
    | bar0Write => exact .ite (.next h.bar0Write) (.next h)
    | planesReleased => exact .ite (.next h.edit.releasePlanes) (.next h)
    | bootEnd => exact .ite (.next h.bootEnd) (.next h)
    | deviceWatchdogExpiry => exact .ite (.next h) (.next h.holdReset)
    | inputPowerUp => exact .ite (.next h.edit) (.ite (.next h.edit) (.next h.setRails.edit))
    | inputUndervoltage => exact .next h.powerOff
    | inputOvervoltage => exact .ite (.next h.edit) (.next h.powerOff.edit)
    | mateDetectOpen | inputFuseOpen => exact .next h.powerOff.edit
    | rstInAssert | perstAssert => exact .next h.pinReset.edit
    | resetRelease => exact .ite (.next (h.via fun h => h.each fun _ _ h => h.updPlane).edit) (.next h)
    | rstOutRelease | alertOutStuck => exact .ite (.next h) (.next h.edit)
    | thermalTrip => exact .ite (.next h.holdReset.setRails.edit) (.next h)
    | powerCapEvaluation => exact .ite (.next h.edit) (.next h.edit)
    | referenceClockLoss => exact .next (h.via fun h => h.each fun _ _ h => h.updPlane).edit
    | alertInLow => exact .ite (.next (h.edit.via fun h => h.setErrsum)) (.next h.edit)
    | smbusReadWord => exact .ite (.next h.edit.edit) (.next h.edit)
    | smbusTimeout | alertInRelease => exact .next h.edit
    | standbyDiodeRead | inputLowRange => exact .ite (.next h.edit) (.next h)
    | fwCommitProgramDone => exact h.fwCommitProgramDone
    | calWriteDone => exact h.calWriteDone
    | _ => cases hi

end

theorem Plane.tick_errLog (p : Plane) (k : PlaneIx) (n : Nat) : (p.tick k n).errLog = p.errLog := by
  unfold Plane.tick
  split <;> rfl

theorem State.tick_keeps (s : State) : s.Keeps s.tick where
  fixed := rfl
  host := s.host.settleTail_keeps.trans (.of_guarded rfl)
  hostMem := id
  errLog k hk := by
    have hp : s.tick.plane k = (s.plane k).tick k s.fresh := by simp [State.plane, State.tick]
    rwa [hp, Plane.tick_errLog]

/-- A step is an idle tick, or the row of the command at the front of the queue. -/
theorem step_inv {s t : State} (hi : s.Inv) (hs : step s = .next t) : t.Inv := by
  unfold step at hs
  split at hs
  · cases hs
    exact s.tick_keeps.inv hi
  · next c cs _ =>
    obtain ⟨u, hu, hg⟩ := (State.Guards.refl { s with pending := cs }).row c
    rw [hu] at hs
    cases hs
    exact hg.inv hi

end Sys2Proof.Machine

section
open Sys2Proof Sys2Proof.Machine

/-- Settles O53: by what every operation keeps, composed along each row, and by the few rows that change more. -/
theorem everyStepKeepsTheInvariant : Obligations.EveryStepKeepsTheInvariant := fun _ _ => step_inv

end

/-! ## The rules of every step (R283, R287, R318, R321, R357)

Every row either begins a reset or leaves the device running, and then says of the reply area, the counters of R357, `MINSVN` and the partition
view only what `State.Obeys` allows. -/

namespace Sys2Proof.Machine


/-! ### The reply area and the counters (R283, R357) -/

/-- The counters of R357 within their 32 bits. -/
def HostPort.Counted (h : HostPort) : Prop := h.caovrun ≤ 0xFFFFFFFF ∧ h.rptlost ≤ 0xFFFFFFFF

/-- `RAEN` changes from 0 to 1. -/
def HostPort.Enables (h h' : HostPort) : Prop := h.raen = false ∧ h'.raen = true

/-- What a row that begins no reset does with the reply area and the counters of R357. -/
structure HostPort.Moves (h h' : HostPort) : Prop where
  idle : h.Idle → h'.Idle
  counted : h.Counted → h'.Counted
  cleared : h.Enables h' → h'.caovrun = 0 ∧ h'.rptlost = 0
  rises : ¬h.Enables h' → h.Counted → h.caovrun ≤ h'.caovrun ∧ h.rptlost ≤ h'.rptlost

theorem HostPort.Keeps.not_enables {h h' : HostPort} (g : h.Keeps h') : ¬h.Enables h' := by
  rintro ⟨h0, h1⟩
  rw [g.raen h1] at h0
  cases h0

theorem HostPort.Keeps.counters_le {h h' : HostPort} (g : h.Keeps h') (hc : h.Counted) :
    h.caovrun ≤ h'.caovrun ∧ h.rptlost ≤ h'.rptlost := ⟨g.caovrun.ge, (g.rptlost hc.2).1⟩

theorem HostPort.Keeps.counted {h h' : HostPort} (g : h.Keeps h') (hc : h.Counted) : h'.Counted :=
  ⟨g.caovrun.le.trans hc.1, (g.rptlost hc.2).2⟩

theorem HostPort.Keeps.moves {h h' : HostPort} (g : h.Keeps h') : h.Moves h' :=
  ⟨g.idle, g.counted, fun e => absurd e g.not_enables, fun _ => g.counters_le⟩

/-- What went before, so long as it left the enable as it was. -/
theorem HostPort.Moves.after {h m h' : HostPort} (f : m.Moves h') (g : h.Keeps m) (hr : m.raen = h.raen) : h.Moves h' where
  idle := f.idle ∘ g.idle
  counted := f.counted ∘ g.counted
  cleared e := f.cleared (by rwa [HostPort.Enables, hr])
  rises e hc := by
    obtain ⟨h1, h2⟩ := g.counters_le hc
    obtain ⟨g1, g2⟩ := f.rises (by rwa [HostPort.Enables, hr]) (g.counted hc)
    exact ⟨h1.trans g1, h2.trans g2⟩

/-- An enabled area comes up with its offsets and counters at 0 (R359). -/
theorem HostPort.enable_moves {h : HostPort} (hr : h.raen = false) : h.Moves h.enable where
  idle _ e := by cases e
  counted _ := ⟨Nat.zero_le _, Nat.zero_le _⟩
  cleared _ := ⟨rfl, rfl⟩
  rises e := absurd ⟨hr, rfl⟩ e

theorem satAdd_le (b n m : Nat) : satAdd b n m ≤ 2 ^ b - 1 := Nat.min_le_right _ _

theorem le_satAdd {b n : Nat} (h : n ≤ 2 ^ b - 1) (m : Nat) : n ≤ satAdd b n m := Nat.le_min.2 ⟨Nat.le_add_right n m, h⟩

/-- A write into the aperture changes neither the enable nor the offsets; where it is discarded, only the count of overruns (R282, R283). -/
theorem HostPort.apertureWrite_moves (h : HostPort) (off : Nat) (data : List Byte) : h.Moves (h.apertureWrite off data) := by
  unfold HostPort.apertureWrite
  split
  · exact (HostPort.Keeps.refl h).moves
  · split
    · exact ⟨id, fun hc => ⟨satAdd_le .., hc.2⟩, fun ⟨h0, h1⟩ => absurd (h0.symm.trans h1) Bool.false_ne_true,
        fun _ hc => ⟨le_satAdd hc.1 1, le_refl _⟩⟩
    · unfold HostPort.readHeader
      dsimp only
      split <;>
      exact ⟨id, id, fun ⟨h0, h1⟩ => absurd (h0.symm.trans h1) Bool.false_ne_true, fun _ _ => ⟨le_refl _, le_refl _⟩⟩

/-! ### The relation -/

/-- `t` follows `s` without a reset: the partition view changes only before boot step 8. -/
structure State.Obeys (s t : State) : Prop where
  host : s.host.Moves t.host
  minSvn : s.nv.minSvn ≤ t.nv.minSvn
  part : t.part = s.part ∨ s.booting = true ∧ s.boot.bootstep < 8
  running : s.mod.inReset = false → s.mod.inputGood = true → t.mod.inReset = false

/-- As `State.Obeys`, for rows that neither enable the reply area nor count an overrun. -/
structure State.Stays (s t : State) : Prop where
  host : s.host.Keeps t.host
  minSvn : s.nv.minSvn ≤ t.nv.minSvn
  part : t.part = s.part ∨ s.booting = true ∧ s.boot.bootstep < 8
  running : s.mod.inReset = false → s.mod.inputGood = true → t.mod.inReset = false

/-- In `t` the device is held in reset, with the host port block at its reset values. -/
structure State.Resets (s t : State) : Prop where
  inReset : t.mod.inReset = true
  host : t.host = HostPort.reset
  minSvn : s.nv.minSvn ≤ t.nv.minSvn

/-- What every row does. -/
def State.Acts (s t : State) : Prop := s.Obeys t ∨ s.Resets t

theorem State.Stays.refl (s : State) : s.Stays s := ⟨.refl _, le_refl _, .inl rfl, fun h _ => h⟩

theorem State.Stays.acts {s t : State} (h : s.Stays t) : s.Acts t := .inl ⟨h.host.moves, h.minSvn, h.part, h.running⟩

theorem State.Stays.ite {s₀ : State} {c : Prop} [Decidable c] {a b : State} (ha : s₀.Stays a) (hb : s₀.Stays b) :
    s₀.Stays (if c then a else b) := by
  split <;> assumption

/-- A row that writes the host port block alone. -/
theorem State.acts_of_moves {s t : State} (hf : t.fixed = s.fixed) (hm : s.host.Moves t.host) : s.Acts t := by
  simp only [State.fixed, Prod.mk.injEq] at hf
  obtain ⟨-, hnv, hmod, -, hpart⟩ := hf
  exact .inl ⟨hm, by rw [hnv], .inl hpart, fun h _ => by rw [hmod]; exact h⟩

section
variable {s₀ s : State} (h : s₀.Stays s)
include h

theorem State.Stays.keeps {t : State} (g : s.Keeps t) : s₀.Stays t := by
  have hf := g.fixed
  simp only [State.fixed, Prod.mk.injEq] at hf
  obtain ⟨-, hnv, hmod, -, hpart⟩ := hf
  exact ⟨h.host.trans g.host, by rw [hnv]; exact h.minSvn, by rw [hpart]; exact h.part, by rw [hmod]; exact h.running⟩

theorem State.Stays.via {t : State} (g : s.Keeps s → s.Keeps t) : s₀.Stays t := h.keeps (g (.refl s))

/-- An edit that leaves `MINSVN`, the reset and the partition view as they are. -/
theorem State.Stays.edit {n : Nat} {v : NonVol} {m : Module} {b : Boot} {hp : HostPort} {o : Outputs} (ev : v.minSvn = s.nv.minSvn := by rfl)
    (em : m.inReset = s.mod.inReset := by rfl) (eh : hp.guarded = s.host.guarded := by rfl) :
    s₀.Stays ⟨s.pending, n, v, m, b, s.part, hp, s.comb, s.groups, s.jobs, s.planes, o⟩ :=
  ⟨h.host.trans (.of_guarded eh), h.minSvn.trans ev.ge, h.part, fun h1 h2 => em.trans (h.running h1 h2)⟩

/-- Rails that turn on or off, with the device held in reset or not. -/
theorem State.Stays.setRails {on : Bool} : s₀.Stays (s.setRails on) :=
  State.Stays.via (s := { s with mod := { s.mod with railsOn := on } }) h.edit fun h => h.each fun _ _ h => h.updPlane

/-! ### Boot (R314, R315, R318, R321) -/

theorem State.Stays.raiseSvn {svnFails : Bool} : s₀.Stays (s.raiseSvn svnFails) := by
  unfold State.raiseSvn
  dsimp only
  split
  · next hr =>
    simp only [Bool.and_eq_true, decide_eq_true_eq] at hr
    split
    · exact h.edit
    · exact ⟨h.host, h.minSvn.trans hr.2.le, h.part, h.running⟩
  · exact h

/-- Step 6 writes the partition view, before step 8. -/
theorem State.Stays.releasePlanes {svnFails : Bool} (hb : s₀.booting = true ∧ s₀.boot.bootstep < 8) :
    s₀.Stays (s.releasePlanes svnFails) := by
  unfold State.releasePlanes
  extract_lets s₁ s₂ b s₃
  have h₀ : s₀.Stays ((s.measure none).partitionUp) := ⟨h.host, h.minSvn, .inr hb, h.running⟩
  have h₂ : s₀.Stays s₂ := h₀.raiseSvn.via fun h => h.each fun _ _ h => h.updPlane fun _ => Plane.release_errLog ..
  have h₃ : s₀.Stays s₃ := h₂.edit
  exact .ite (h₃.via fun h => h.setHpFault) h₃

omit h in
theorem State.bootEnd_stays (hb : s.booting = true) (svnFails : Bool) : s.Stays (s.bootEnd svnFails) := by
  have h := State.Stays.refl s
  unfold State.bootEnd
  split
  · exact h.edit.via fun h => h.bootSettled
  · extract_lets s₁
    have h₁ : s.Stays s₁ := by
      simp only [s₁]
      split
      · next hs => exact h.releasePlanes ⟨hb, hs⟩
      · exact h
    exact h₁.edit.via fun h => h.bootSettled

end

/-! ### The module (R336, R340, R341, R347) -/

theorem State.holdReset_resets (s : State) : s.Resets s.holdReset := ⟨rfl, rfl, le_refl _⟩

theorem State.each_updPlane_fixed (f : PlaneIx → Plane → Plane) : ∀ (ks : List PlaneIx) (s : State),
    s.each ks (fun s k => s.updPlane k (f k)) = { s with planes := (s.each ks fun s k => s.updPlane k (f k)).planes }
  | [], _ => rfl
  | k :: ks, s => by
    rw [State.each_cons, State.each_updPlane_fixed f ks]
    rfl

theorem State.setRails_eq (s : State) (on : Bool) :
    s.setRails on = { s with mod := { s.mod with railsOn := on }, planes := (s.setRails on).planes } :=
  State.each_updPlane_fixed (fun _ p => { p with railsOn := on }) allPlanes _

theorem State.Resets.setRails {s t : State} (h : s.Resets t) (on : Bool) : s.Resets (t.setRails on) := by
  rw [State.setRails_eq]
  exact ⟨h.inReset, h.host, h.minSvn⟩

theorem State.Resets.edit {s t : State} (h : s.Resets t) {n : Nat} {m : Module} (e : m.inReset = t.mod.inReset := by rfl) :
    s.Resets ⟨t.pending, n, t.nv, m, t.boot, t.part, t.host, t.comb, t.groups, t.jobs, t.planes, t.out⟩ := ⟨e.trans h.inReset, h.host, h.minSvn⟩

theorem State.powerOff_resets (s : State) : s.Resets s.powerOff := (s.holdReset_resets.setRails false).edit

/-- A reset pin begins a reset, releases a trip, or does nothing (R336, R347). -/
theorem State.pinReset_acts (s : State) : s.Stays s.pinReset ∨ s.Resets s.pinReset := by
  have h := State.Stays.refl s
  unfold State.pinReset
  split
  · exact .inl h
  · split
    · exact .inl (.ite h.setRails.edit h)
    · exact .inr s.holdReset_resets

/-! ### The host's registers (R283, R351, R359) -/

theorem State.msixSend_raen (s : State) (v : Fin 3) : (s.msixSend v).host.raen = s.host.raen := by
  unfold State.msixSend
  dsimp only
  split <;> rfl

theorem State.badAcc_raen (s : State) : s.badAcc.host.raen = s.host.raen := by
  unfold State.badAcc State.setErrsum
  dsimp only
  split
  · exact State.msixSend_raen ..
  · rfl

theorem State.writeRasize_raen (s : State) (v : W32) : (s.writeRasize v).host.raen = s.host.raen := by
  unfold State.writeRasize
  dsimp only
  split
  · exact s.badAcc_raen
  · rfl

theorem State.raenOn_fixed (s : State) (e : BitVec 3) : (s.raenOn e).fixed = s.fixed := by
  unfold State.raenOn
  dsimp only
  split
  · exact (State.Keeps.refl (s.updHost fun h => h.setEnables e)).badAcc.fixed
  · split <;> rfl

theorem State.raenOn_moves (s : State) (e : BitVec 3) : s.host.Moves (s.raenOn e).host := by
  have h₁ : s.Keeps (s.updHost fun h => h.setEnables e) := (State.Keeps.refl s).updHost
  unfold State.raenOn
  dsimp only
  split
  · exact h₁.badAcc.host.moves
  · split
    · exact h₁.host.moves
    · next hr => exact .after (HostPort.enable_moves (by simpa using hr)) h₁.host rfl

/-- No aligned write but that of `RACTL` enables the reply area. -/
theorem State.bar0Write4_keeps (s : State) {off : Nat} (ho : off ≠ 0x011C) (v : W32) : s.Keeps (s.bar0Write4 off v) := by
  have h := State.Keeps.refl s
  unfold State.bar0Write4
  split
  exacts [h.clearCarestart, h.writeRabase, h.writeRabase, h.writeRasize, absurd rfl ho, h.writeRatail, h.clearErrsum, .ite h.msixWrite h.badAcc]

theorem State.bar0Write4_ractl (s : State) (v : W32) : s.bar0Write4 0x011C v =
    if v.getLsbD 0 then s.raenOn (BitVec.ofNat 3 (v.toNat / 2)) else s.raenOff (BitVec.ofNat 3 (v.toNat / 2)) := rfl

theorem State.bar0Write4_fixed (s : State) (off : Nat) (v : W32) : (s.bar0Write4 off v).fixed = s.fixed := by
  by_cases ho : off = 0x011C
  · subst ho
    rw [State.bar0Write4_ractl]
    split
    exacts [s.raenOn_fixed _, (State.Keeps.refl s).raenOff.fixed]
  · exact (s.bar0Write4_keeps ho v).fixed

theorem State.bar0Write4_moves (s : State) (off : Nat) (v : W32) : s.host.Moves (s.bar0Write4 off v).host := by
  by_cases ho : off = 0x011C
  · subst ho
    rw [State.bar0Write4_ractl]
    split
    exacts [s.raenOn_moves _, (State.Keeps.refl s).raenOff.host.moves]
  · exact (s.bar0Write4_keeps ho v).host.moves

theorem State.bar0Write_fixed (s : State) (off size : Nat) (v : W64) : (s.bar0Write off size v).fixed = s.fixed := by
  unfold State.bar0Write
  dsimp only
  split
  · exact s.bar0Write4_fixed ..
  · split
    · exact (State.bar0Write4_fixed ..).trans (s.bar0Write4_fixed ..)
    · exact (State.Keeps.refl s).badAcc.fixed

/-- Of the two halves of an 8-byte write, only the upper can be that of `RACTL`, and then the lower is that of `RASIZE`. -/
theorem State.bar0Write_moves (s : State) (off size : Nat) (v : W64) : s.host.Moves (s.bar0Write off size v).host := by
  unfold State.bar0Write
  dsimp only
  split
  · exact s.bar0Write4_moves ..
  · split
    · next h8 =>
      simp only [Bool.and_eq_true, decide_eq_true_eq] at h8
      have hlow : s.Keeps (s.bar0Write4 off _) := s.bar0Write4_keeps (by omega) (BitVec.ofNat 32 v.toNat)
      by_cases ho : off + 4 = 0x011C
      · obtain rfl : off = 0x0118 := by omega
        exact (State.bar0Write4_moves ..).after hlow.host (s.writeRasize_raen _)
      · exact (hlow.host.trans (State.bar0Write4_keeps _ ho _).host).moves
    · exact (State.Keeps.refl s).badAcc.host.moves

/-! ### The rows -/

theorem State.acts_of_pin {s : State} {m : Module} (h : s.Stays s.pinReset ∨ s.Resets s.pinReset)
    (e : m.inReset = s.pinReset.mod.inReset := by rfl) : s.Acts { s.pinReset with mod := m } :=
  h.elim (fun h => (h.edit (em := e)).acts) fun h => .inr (h.edit e)

theorem State.planesReleased_acts (s : State) : Goes (execPlanesReleased s) s.Acts := by
  unfold execPlanesReleased
  split
  · next hb =>
    simp only [Bool.and_eq_true, decide_eq_true_eq] at hb
    obtain ⟨⟨hboot, hstep⟩, -⟩ := hb
    exact .next (State.Stays.releasePlanes (.edit (.refl s)) ⟨hboot, hstep⟩).acts
  · exact .next (State.Stays.refl s).acts

theorem State.bootEnd_acts (s : State) (svnFails : Bool) : Goes (execBootEnd svnFails s) s.Acts := by
  unfold execBootEnd
  split
  · next hb => exact .next (State.bootEnd_stays hb svnFails).acts
  · exact .next (State.Stays.refl s).acts

/-- The input's return holds the device in reset; while it was good there was nothing to return from. -/
theorem State.inputPowerUp_acts (s : State) (mv : Nat) : Goes (execInputPowerUp mv s) s.Acts := by
  have h := State.Stays.refl s
  unfold execInputPowerUp
  split
  · exact .next h.edit.acts
  · next hg =>
    refine .ite (.next h.edit.acts) (.next ?_)
    obtain ⟨hhost, hsvn, hpart, -⟩ := h.setRails (on := true)
    exact .inl ⟨hhost.moves, hsvn, hpart, fun _ hgood => absurd hgood hg⟩

theorem State.resetRelease_acts (s : State) (src : ResetSource) (strap : BitVec 3) (ref : Bool) :
    Goes (execResetRelease src strap ref s) s.Acts := by
  have h := State.Stays.refl s
  refine .ite (.next ?_) (.next h.acts)
  obtain ⟨hhost, hsvn, hpart, -⟩ : s.Stays (s.each allPlanes fun s k => s.updPlane k fun p => { p with refSel := ref }) :=
    h.via fun h => h.each fun _ _ h => h.updPlane
  exact .inl ⟨hhost.moves, hsvn, hpart, fun _ _ => rfl⟩

theorem State.fwCommitProgramDone_acts (s : State) : Goes (execFwCommitProgramDone s) s.Acts := by
  have h := State.Stays.refl s
  unfold execFwCommitProgramDone
  split
  · exact .next h.acts
  · next id pkg _ =>
    have h₁ : s.Stays (s.updHost fun h => { h with programming := none, staging := [] }) :=
      h.via fun h => h.onHost (.of_fits fun ⟨ha, _, hr, hl⟩ => ⟨ha, rfl, hr, hl⟩)
    exact .next (h₁.edit.via fun h => h.answer).acts

theorem State.calWriteDone_acts (s : State) : Goes (execCalWriteDone s) s.Acts := by
  have h := State.Stays.refl s
  unfold execCalWriteDone
  split
  · exact .next h.acts
  · exact .next (State.Stays.via (State.Stays.edit (h.via fun h => h.updHost)) fun h => h.answer).acts

/-- Every row obeys the rules of the whole machine, or begins a reset. -/
theorem State.row_acts (s : State) (i : Instr) : Goes (exec i s) s.Acts := by
  have h := State.Stays.refl s
  have hk := State.Keeps.refl s
  cases hi : ordinary i with
  | true =>
    obtain ⟨t, ht, hk⟩ := hk.row hi
    exact ⟨t, ht, (h.keeps hk).acts⟩
  | false =>
    cases i with
    | apertureWrite => exact .ite (.next (State.acts_of_moves rfl (HostPort.apertureWrite_moves ..))) (.next h.acts)
    | raenEnable => exact .ite (.next (State.acts_of_moves (s.raenOn_fixed _) (s.raenOn_moves _))) (.next h.acts)
    | bar0Write => exact .ite (.next (State.acts_of_moves (s.bar0Write_fixed ..) (s.bar0Write_moves ..))) (.next h.acts)
    | planesReleased => exact s.planesReleased_acts
    | bootEnd => exact s.bootEnd_acts _
    | deviceWatchdogExpiry => exact .ite (.next h.acts) (.next (.inr s.holdReset_resets))
    | inputPowerUp => exact s.inputPowerUp_acts _
    | inputUndervoltage => exact .next (.inr s.powerOff_resets)
    | inputOvervoltage => exact .ite (.next h.edit.acts) (.next (.inr s.powerOff_resets.edit))
    | mateDetectOpen | inputFuseOpen => exact .next (.inr s.powerOff_resets.edit)
    | rstInAssert | perstAssert => exact .next (State.acts_of_pin s.pinReset_acts)
    | resetRelease => exact s.resetRelease_acts ..
    | rstOutRelease | alertOutStuck => exact .ite (.next h.acts) (.next h.edit.acts)
    | thermalTrip => exact .ite (.next (.inr (s.holdReset_resets.setRails false).edit)) (.next h.acts)
    | powerCapEvaluation => exact .ite (.next h.edit.acts) (.next h.edit.acts)
    | referenceClockLoss => exact .next (State.Stays.edit (h.via fun h => h.each fun _ _ h => h.updPlane)).acts
    | alertInLow => exact .ite (.next (h.edit.via fun h => h.setErrsum).acts) (.next h.edit.acts)
    | smbusReadWord => exact .ite (.next h.edit.edit.acts) (.next h.edit.acts)
    | smbusTimeout | alertInRelease => exact .next h.edit.acts
    | standbyDiodeRead | inputLowRange => exact .ite (.next h.edit.acts) (.next h.acts)
    | fwCommitProgramDone => exact s.fwCommitProgramDone_acts
    | calWriteDone => exact s.calWriteDone_acts
    | _ => cases hi

theorem State.Acts.of_pending {s t : State} {q : List Instr} (h : State.Acts { s with pending := q } t) : s.Acts t :=
  h.imp (fun h => ⟨h.host, h.minSvn, h.part, h.running⟩) fun h => ⟨h.inReset, h.host, h.minSvn⟩

/-- Every step obeys the rules of the whole machine, or begins a reset. -/
theorem step_acts {s t : State} (hs : step s = .next t) : s.Acts t := by
  unfold step at hs
  split at hs
  · cases hs
    exact ((State.Stays.refl s).keeps s.tick_keeps).acts
  · next c cs _ =>
    obtain ⟨u, hu, ha⟩ := State.row_acts { s with pending := cs } c
    rw [hu] at hs
    cases hs
    exact ha.of_pending

/-! ### The registers of R283 and R357 through a step -/

/-- While the reply area is disabled the dispatcher takes no packet (R356). -/
theorem State.packetTake_disabled {s : State} (hr : s.host.raen = false) : s.packetTake = s := if_pos (by simp [State.catake, hr])

theorem HostPort.apertureWrite_disabled {h : HostPort} (hr : h.raen = false) (off : Nat) (data : List Byte) : h.apertureWrite off data = h :=
  if_pos (by simp [hr])

theorem step_idle {s t : State} (hs : step s = .next t) (hi : s.host.Idle) : t.host.Idle := by
  obtain h | h := step_acts hs
  · exact h.host.idle hi
  · rw [h.host]
    exact fun _ => ⟨rfl, rfl, rfl⟩

theorem State.Resets.counters {s t : State} (h : s.Resets t) : t.host.caovrun = 0 ∧ t.host.rptlost = 0 := by
  rw [h.host]
  exact ⟨rfl, rfl⟩

theorem step_counted {s t : State} (hs : step s = .next t) (hc : s.host.Counted) : t.host.Counted := by
  obtain h | h := step_acts hs
  · exact h.host.counted hc
  · exact ⟨h.counters.1.le.trans (Nat.zero_le _), h.counters.2.le.trans (Nat.zero_le _)⟩

theorem step_clears {s t : State} (hs : step s = .next t)
    (hb : (s.mod.inReset = false ∧ s.mod.inputGood = true ∧ t.mod.inReset = true) ∨ s.host.Enables t.host) :
    t.host.caovrun = 0 ∧ t.host.rptlost = 0 := by
  obtain h | h := step_acts hs
  · obtain ⟨h0, hg, h1⟩ | he := hb
    · rw [h.running h0 hg] at h1
      cases h1
    · exact h.host.cleared he
  · exact h.counters

theorem step_counters_fall {s t : State} (hs : step s = .next t) (hc : s.host.Counted)
    (hf : t.host.caovrun < s.host.caovrun ∨ t.host.rptlost < s.host.rptlost) : t.mod.inReset = true ∨ s.host.Enables t.host := by
  obtain h | h := step_acts hs
  · refine .inr (by_contra fun he => ?_)
    obtain ⟨h1, h2⟩ := h.host.rises he hc
    omega
  · exact .inl h.inReset

end Sys2Proof.Machine

section
open Sys2Proof Sys2Proof.Machine

/-- Settles O52: no row touches the queue. -/
theorem commandsLeaveTheQueue : Obligations.CommandsLeaveTheQueue := by
  intro i s
  obtain ⟨t, ht, hg⟩ := (State.Guards.refl s).row i
  exact ⟨t, ht, hg.pending⟩

/-- Settles O55: `CATAKE` is 0, the write is discarded, and every step keeps the offsets of a disabled area at 0. -/
theorem disabledAreaTakesNothing : Obligations.DisabledAreaTakesNothing := by
  intro s hr
  refine ⟨⟨_, rfl, State.packetTake_disabled hr⟩, fun off data => ?_, fun hc he hl t hs hr' => ?_⟩
  · by_cases hu : s.hostUp = true
    · refine ⟨_, if_pos hu, ?_⟩
      rw [State.updHost, HostPort.apertureWrite_disabled hr]
    · exact ⟨_, if_neg hu, rfl⟩
  · exact step_idle hs (fun _ => ⟨hc, he, hl⟩) hr'

/-- Settles O56: a reset and an enable clear the counters, and no other row lowers them. -/
theorem countersReturnAtResetOrEnable : Obligations.CountersReturnAtResetOrEnable := by
  intro s t hc hl hs
  obtain ⟨hc', hl'⟩ := step_counted hs ⟨hc, hl⟩
  exact ⟨hc', hl', step_clears hs, step_counters_fall hs ⟨hc, hl⟩⟩

end

/-! ## Boot (R314, R315, R318, R321, R355) -/

namespace Sys2Proof.Machine

/-! ### What a row does with every plane -/

theorem State.each_updPlane_plane_of_mem (f : PlaneIx → Plane → Plane) (q : PlaneIx) : ∀ {ks : List PlaneIx}, ks.Nodup → ∀ s : State,
    (s.each ks fun s k => s.updPlane k (f k)).plane q = if q ∈ ks then f q (s.plane q) else s.plane q
  | [], _, s => by simp
  | k :: ks, hn, s => by
    obtain ⟨hk, hks⟩ := List.nodup_cons.1 hn
    rw [State.each_cons, State.each_updPlane_plane_of_mem f q hks]
    by_cases h : q = k
    · subst h
      simp [hk]
    · simp [h]

theorem State.eachPlane_plane (f : PlaneIx → Plane → Plane) (s : State) (q : PlaneIx) :
    (s.each allPlanes fun s k => s.updPlane k (f k)).plane q = f q (s.plane q) :=
  (State.each_updPlane_plane_of_mem f q (List.nodup_finRange 8) s).trans (if_pos (List.mem_finRange q))

theorem State.setRails_plane (s : State) (on : Bool) (k : PlaneIx) : (s.setRails on).plane k = { s.plane k with railsOn := on } :=
  State.eachPlane_plane (fun _ p => { p with railsOn := on }) _ k

/-! ### Releasing the planes -/

@[simp] theorem State.setHpFault_plane (s : State) (b : Nat) (k : PlaneIx) : (s.setHpFault b).plane k = s.plane k := by
  unfold State.setHpFault
  split
  · rfl
  · rw [State.setErrsum_plane, State.updHost_plane]

theorem State.setHpFault_fixed (s : State) (b : Nat) : (s.setHpFault b).fixed = s.fixed := (State.Keeps.refl s).setHpFault.fixed

theorem State.bootSettled_fixed (s : State) : s.bootSettled.fixed = s.fixed := (State.Keeps.refl s).bootSettled.fixed

@[simp] theorem State.bootSettled_nv (s : State) : s.bootSettled.nv = s.nv := congrArg (·.2.1) s.bootSettled_fixed
@[simp] theorem State.bootSettled_boot (s : State) : s.bootSettled.boot = s.boot := congrArg (·.2.2.2.1) s.bootSettled_fixed

theorem State.setHpFault_when_plane (s : State) (c : Prop) [Decidable c] (b : Nat) (k : PlaneIx) :
    (if c then s.setHpFault b else s).plane k = s.plane k := by
  split
  · exact s.setHpFault_plane b k
  · rfl

@[simp] theorem State.bootSettled_plane (s : State) (k : PlaneIx) : s.bootSettled.plane k = s.plane k := by
  unfold State.bootSettled
  extract_lets u
  have hu : u.plane k = s.plane k := s.setHpFault_when_plane _ 3 k
  split
  · rw [State.setErrsum_plane, hu]
  · exact hu

theorem State.each_release {part : PartView} {cal : List Byte} (ks : List PlaneIx) {s : State} (hp : s.part = part) (hc : s.boot.calUsed = cal) :
    (s.each ks fun s k => s.updPlane k fun p => p.release k s.part s.boot.calUsed) =
      s.each ks fun s k => s.updPlane k fun p => p.release k part cal := by
  induction ks generalizing s with
  | nil => rw [State.each_nil, State.each_nil]
  | cons k ks ih =>
    rw [State.each_cons, State.each_cons, hp, hc]
    exact ih hp hc

theorem State.each_release_eq (s : State) : (s.each allPlanes fun s k => s.updPlane k fun p => p.release k s.part s.boot.calUsed) =
    { s with planes := (s.each allPlanes fun s k => s.updPlane k fun p => p.release k s.part s.boot.calUsed).planes } := by
  rw [State.each_release allPlanes rfl rfl]
  exact State.each_updPlane_fixed (fun k p => p.release k s.part s.boot.calUsed) allPlanes s

theorem State.each_release_plane (s : State) (k : PlaneIx) :
    (s.each allPlanes fun s k => s.updPlane k fun p => p.release k s.part s.boot.calUsed).plane k =
      (s.plane k).release k s.part s.boot.calUsed := by
  rw [State.each_release allPlanes rfl rfl]
  exact State.eachPlane_plane (fun k p => p.release k s.part s.boot.calUsed) s k

/-- Steps 5 to 8 of the boot of `s`, with `f` the outcome of step 7. -/
structure State.Released (s t : State) (f : Bool) : Prop where
  nv : t.nv = (s.raiseSvn f).nv
  part : t.part = partOf (pkgManifest s.nv.slot) s.bidx
  bootstep : t.boot.bootstep = 8
  recmode : t.boot.recmode = s.boot.recmode
  calBad : t.boot.calBad = (calInUse s.nv).2
  svnBad : t.boot.svnBad = (s.raiseSvn f).boot.svnBad
  plane : ∀ k, t.plane k = (s.plane k).release k (partOf (pkgManifest s.nv.slot) s.bidx) (calInUse s.nv).1

/-- Whether step 7 raises `MINSVN`. -/
def NonVol.raises (nv : NonVol) : Bool := (pkgHdr nv.slot).fflags % 2 = 1 && (pkgHdr nv.slot).fsvn > nv.minSvn

theorem State.raiseSvn_eq (s : State) (f : Bool) : s.raiseSvn f = { s with
    nv := if s.nv.raises && !f then { s.nv with minSvn := (pkgHdr s.nv.slot).fsvn } else s.nv
    boot := { s.boot with svnBad := s.boot.svnBad || s.nv.raises && f } } := by
  unfold State.raiseSvn NonVol.raises
  dsimp only
  split
  · next h => cases f <;> simp [h]
  · next h => simp [h]

/-- Step 7 looks at the non-volatile contents alone. -/
theorem State.raiseSvn_congr {s u : State} (hn : u.nv = s.nv) (hb : u.boot.svnBad = s.boot.svnBad) (f : Bool) :
    (u.raiseSvn f).nv = (s.raiseSvn f).nv ∧ (u.raiseSvn f).boot.svnBad = (s.raiseSvn f).boot.svnBad := by
  rw [u.raiseSvn_eq, s.raiseSvn_eq]
  dsimp only
  rw [hn, hb]
  exact ⟨rfl, rfl⟩

theorem State.releasePlanes_released (s : State) (f : Bool) : s.Released (s.releasePlanes f) f := by
  unfold State.releasePlanes
  extract_lets s₁ s₂ b s₃
  have h₁ := State.raiseSvn_eq (s.measure none).partitionUp f
  obtain ⟨hnv, hsvn⟩ : s₁.nv = (s.raiseSvn f).nv ∧ s₁.boot.svnBad = (s.raiseSvn f).boot.svnBad :=
    State.raiseSvn_congr (s := s) (u := (s.measure none).partitionUp) rfl rfl f
  have hpart : s₁.part = partOf (pkgManifest s.nv.slot) s.bidx := congrArg State.part h₁
  have hrec : s₁.boot.recmode = s.boot.recmode := congrArg (·.boot.recmode) h₁
  have hcal : s₁.boot.calBad = (calInUse s.nv).2 := congrArg (·.boot.calBad) h₁
  have hused : s₁.boot.calUsed = (calInUse s.nv).1 := congrArg (·.boot.calUsed) h₁
  have hplane (k : PlaneIx) : s₁.plane k = s.plane k := congrArg (·.plane k) h₁
  have h₂ : s₂ = { s₁ with planes := s₂.planes } := s₁.each_release_eq
  have hrelease (k : PlaneIx) : s₂.plane k = (s₁.plane k).release k s₁.part s₁.boot.calUsed := s₁.each_release_plane k
  clear_value s₂ s₁
  have h : s.Released s₃ f := {
    nv := (congrArg State.nv h₂).trans hnv
    part := (congrArg State.part h₂).trans hpart
    bootstep := rfl
    recmode := (congrArg (·.boot.recmode) h₂).trans hrec
    calBad := (congrArg (·.boot.calBad) h₂).trans hcal
    svnBad := (congrArg (·.boot.svnBad) h₂).trans hsvn
    plane := fun k => (hrelease k).trans (by rw [hplane, hpart, hused]) }
  split
  · have hf := s₃.setHpFault_fixed 3
    simp only [State.fixed, Prod.mk.injEq] at hf
    obtain ⟨-, hnv, -, hboot, hpart⟩ := hf
    exact ⟨hnv ▸ h.nv, hpart ▸ h.part, hboot ▸ h.bootstep, hboot ▸ h.recmode, hboot ▸ h.calBad, hboot ▸ h.svnBad,
      fun k => (s₃.setHpFault_plane 3 k).trans (h.plane k)⟩
  · exact h

theorem Plane.release_ps (p : Plane) (k : PlaneIx) (part : PartView) (cal : List Byte) :
    (p.release k part cal).ps = if p.railFault then .retired else .inService := by
  unfold Plane.release
  split <;> rfl

theorem Plane.release_runs {p : Plane} (hf : p.railFault = false) (k : PlaneIx) (part : PartView) (cal : List Byte) :
    (p.release k part cal).cnt = 0 ∧ (p.release k part cal).tokLend = part.lend.partburst := by
  rw [Plane.release, if_neg (by simp [hf])]
  exact ⟨rfl, rfl⟩

/-! ### Step 7 (R318) -/

theorem NonVol.raises_iff {nv : NonVol} : nv.raises = true ↔ (pkgHdr nv.slot).fflags % 2 = 1 ∧ nv.minSvn < (pkgHdr nv.slot).fsvn := by
  simp [NonVol.raises]

theorem NonVol.not_raises {nv : NonVol} (h : (pkgHdr nv.slot).fflags % 2 = 0 ∨ (pkgHdr nv.slot).fsvn ≤ nv.minSvn) : nv.raises = false := by
  rw [Bool.eq_false_iff, ne_eq, NonVol.raises_iff]
  omega

theorem State.raiseSvn_raises {s : State} (h : s.nv.raises = true) (f : Bool) :
    (s.raiseSvn f).nv.minSvn = (if f then s.nv.minSvn else (pkgHdr s.nv.slot).fsvn) ∧
    (f = true → (s.raiseSvn f).nv = s.nv ∧ (s.raiseSvn f).boot.svnBad = true) := by
  rw [s.raiseSvn_eq, h]
  cases f <;> simp

theorem State.raiseSvn_keeps {s : State} (h : s.nv.raises = false) (f : Bool) : (s.raiseSvn f).nv = s.nv := by
  rw [s.raiseSvn_eq, h]
  rfl

/-! ### The rows -/

/-- Planes are released where boot has not passed step 8 and the package verifies; whether the fuses take is free. -/
theorem planesReleased_releases {s : State} (hb : s.booting = true) (hs : s.boot.bootstep < 8) (hv : verifyPackage s.nv s.bidx s.nv.slot = none) :
    Runs .planesReleased s fun t => ∃ f, s.Released t f := by
  have hx : exec .planesReleased s = execPlanesReleased s := rfl
  rw [execPlanesReleased, if_pos (by simp [hb, hs, hv])] at hx
  refine ⟨_, hx, Config.svnFuseFails s.fresh, ?_⟩
  obtain ⟨hnv, hpart, hstep, hrec, hcal, hsvn, hplane⟩ := State.releasePlanes_released { s with fresh := s.fresh + 1 } (Config.svnFuseFails s.fresh)
  obtain ⟨hn, hb⟩ := State.raiseSvn_congr (s := s) (u := { s with fresh := s.fresh + 1 }) rfl rfl (Config.svnFuseFails s.fresh)
  exact ⟨hnv.trans hn, hpart, hstep, hrec, hcal, hsvn.trans hb, hplane⟩

theorem bootEnd_exec {s : State} (hb : s.booting = true) (bad : Bool) : exec (.bootEnd bad) s = .next (s.bootEnd bad) := by
  have hx : exec (.bootEnd bad) s = execBootEnd bad s := rfl
  rw [hx, execBootEnd, if_pos hb]

theorem State.bootEnd_of_fails {s : State} {c : Nat} (hv : verifyPackage s.nv s.bidx s.nv.slot = some c) (bad : Bool) :
    s.bootEnd bad = ({ s.measure (some c) with boot := { (s.measure (some c)).boot with
      recmode := true, bcode := c, bootstep := if stepThreeCode c then 2 else 3 } } : State).bootSettled := by
  unfold State.bootEnd
  rw [hv]

theorem State.bootEnd_of_passes {s : State} (hv : verifyPackage s.nv s.bidx s.nv.slot = none) (bad : Bool) :
    s.bootEnd bad =
      let u := if s.boot.bootstep < 8 then s.releasePlanes bad else s
      ({ u with boot := { u.boot with
        bootstep := 9, bcode := if u.boot.calBad then 8 else if u.boot.svnBad then 9 else 0 } } : State).bootSettled := by
  unfold State.bootEnd
  rw [hv]

/-- A package that fails leaves recovery mode with its code, and neither the planes nor the fuses change (R315). -/
theorem bootEnd_recovers {s : State} (hb : s.booting = true) (bad : Bool) {c : Nat} (hv : verifyPackage s.nv s.bidx s.nv.slot = some c) :
    Runs (.bootEnd bad) s fun t => t.boot.recmode = true ∧ t.boot.bcode = c ∧ t.boot.bootstep = (if c ≤ 3 then 2 else 3) ∧
      (∀ k, t.plane k = s.plane k) ∧ t.nv = s.nv := by
  refine ⟨_, bootEnd_exec hb bad, ?_⟩
  rw [State.bootEnd_of_fails hv]
  dsimp only
  rw [State.bootSettled_boot, State.bootSettled_nv, stepThreeCode]
  refine ⟨rfl, rfl, ?_, fun k => ?_, rfl⟩
  · simp only [decide_eq_true_eq]
  · rw [State.bootSettled_plane]
    rfl

/-- The state in which a boot whose package verifies ends: as it stands where the planes have been released, and else with them released. -/
theorem bootEnd_serves {s : State} (hb : s.booting = true) (bad : Bool) (hv : verifyPackage s.nv s.bidx s.nv.slot = none) :
    Runs (.bootEnd bad) s fun t => ∃ u : State, (8 ≤ s.boot.bootstep → u = s) ∧ (s.boot.bootstep < 8 → s.Released u bad) ∧
      t.nv = u.nv ∧ (∀ k, t.plane k = u.plane k) ∧ t.boot.recmode = u.boot.recmode ∧ t.boot.bootstep = 9 ∧
      t.boot.bcode = if u.boot.calBad then 8 else if u.boot.svnBad then 9 else 0 := by
  refine ⟨_, bootEnd_exec hb bad, if s.boot.bootstep < 8 then s.releasePlanes bad else s, fun h => if_neg (by omega), fun h => ?_, ?_⟩
  · rw [if_pos h]
    exact s.releasePlanes_released bad
  · rw [State.bootEnd_of_passes hv]
    generalize (if s.boot.bootstep < 8 then s.releasePlanes bad else s) = u
    dsimp only
    rw [State.bootSettled_boot, State.bootSettled_nv]
    refine ⟨rfl, fun k => ?_, rfl, rfl, rfl⟩
    rw [State.bootSettled_plane]
    rfl

/-- A package whose `FSVN` is below `MINSVN` fails at step 3 (R318). -/
theorem verifyPackage_lowSvn {nv : NonVol} {b : List Byte} (h : (pkgHdr b).fsvn < nv.minSvn) (strap : Nat) :
    ∃ c ≤ 3, verifyPackage nv strap b = some c := by
  unfold verifyPackage
  dsimp only
  split
  · exact ⟨1, by decide, rfl⟩
  · exact ⟨3, le_refl _, rfl⟩

end Sys2Proof.Machine

section
open Sys2Proof Sys2Proof.Machine

/-- Settles O46: by what the checks of the package give, and by whether the planes were released before. -/
theorem bootReleasesOrRecovers : Obligations.BootReleasesOrRecovers := by
  intro bad s hb v h
  refine ⟨fun hv hs => ?_, fun c hv => bootEnd_recovers hb bad hv, fun hv hr => ?_⟩
  · refine (planesReleased_releases hb hs hv).imp fun t ⟨f, ht⟩ => ⟨ht.bootstep, ht.part ▸ rfl, fun k => ?_, fun hf hl => ?_, fun hn => ?_⟩
    · rw [ht.plane, Plane.release_ps, ht.part]
      exact ⟨rfl, fun hf => Plane.release_runs hf k ..⟩
    · obtain ⟨hm, hb⟩ := State.raiseSvn_raises (NonVol.raises_iff.2 ⟨hf, hl⟩) f
      cases f with
      | false => exact .inl (ht.nv ▸ hm)
      | true => exact .inr ⟨ht.nv.trans (hb rfl).1, ht.svnBad.trans (hb rfl).2⟩
    · exact ht.nv.trans (State.raiseSvn_keeps (NonVol.not_raises hn) f)
  · refine (bootEnd_serves hb bad hv).imp fun t ⟨u, hu, hrel, hnv, hplane, hrec, hstep, hcode⟩ => ?_
    have hrec' : u.boot.recmode = s.boot.recmode := by
      by_cases hs : s.boot.bootstep < 8
      · exact (hrel hs).recmode
      · rw [hu (by omega)]
    refine ⟨hrec.trans (hrec'.trans hr), hstep, fun hs => by rw [hnv, hu hs], fun hs => ?_⟩
    have ht := hrel hs
    refine ⟨fun hc => by rw [hcode, ht.calBad, hc, if_pos rfl], fun k => ?_, fun hf hl => ?_, fun hn => ?_⟩
    · rw [hplane, ht.plane, Plane.release_ps]
      split <;> decide
    · rw [hnv, ht.nv]
      exact (State.raiseSvn_raises (NonVol.raises_iff.2 ⟨hf, hl⟩) bad).1
    · rw [hnv, ht.nv, State.raiseSvn_keeps (NonVol.not_raises hn)]

/-- Settles O57: step 7 raises `MINSVN`, a failed boot leaves it, a low `FSVN` fails both at boot and at `FW_COMMIT`, and no step lowers it. -/
theorem minSvnNeverFalls : Obligations.MinSvnNeverFalls := by
  refine ⟨fun s hb hv hf hl hs => ⟨?_, ?_⟩, fun bad s hb hv => ?_, fun bad s hb hl => ?_, fun p c s h hj hp hl => ?_, fun s t hs => ?_⟩
  · refine (bootEnd_serves hb false hv).imp fun t ⟨u, _, hrel, hnv, _⟩ => ?_
    rw [hnv, (hrel hs).nv]
    exact (State.raiseSvn_raises (NonVol.raises_iff.2 ⟨hf, hl⟩) false).1
  · refine (planesReleased_releases hb hs hv).imp fun t ⟨f, ht⟩ => ?_
    obtain ⟨hm, hb⟩ := State.raiseSvn_raises (NonVol.raises_iff.2 ⟨hf, hl⟩) f
    cases f with
    | false => exact .inl (ht.nv ▸ hm)
    | true => exact .inr ⟨ht.nv.trans (hb rfl).1, ht.svnBad.trans (hb rfl).2⟩
  · obtain ⟨c, hc⟩ := Option.ne_none_iff_exists'.1 hv
    exact (bootEnd_recovers hb bad hc).imp fun t ⟨_, _, _, _, hnv⟩ => by rw [hnv]
  · obtain ⟨c, hc, hv⟩ := verifyPackage_lowSvn hl s.bidx
    exact (bootEnd_recovers hb bad hv).imp fun t ⟨hrec, _, hstep, _⟩ => ⟨hrec, hstep.trans (if_pos hc)⟩
  · have hbad : commitGood s p ≠ true := fun hg => by
      obtain ⟨x, -, hx⟩ := verifyPackage_lowSvn hl s.bidx
      obtain ⟨-, -, hv⟩ := commitGood_iff.1 hg
      rw [commitPkg, hx] at hv
      cases hv
    exact (fwCommit_refuses h hj hp hbad).imp fun t ⟨hframe, _, hans, hprog, _⟩ => ⟨hans, hprog, by rw [hframe]⟩
  · exact (step_acts hs).elim (·.minSvn) (·.minSvn)

/-- Settles O58: step 6 writes the view from the manifest of the slot, and past step 8 no row that begins no reset writes it. -/
theorem partitionStaysLocked : Obligations.PartitionStaysLocked := by
  refine ⟨fun s hb hs hv => ?_, fun s t _ hb hs => ?_⟩
  · exact (planesReleased_releases hb hs hv).imp fun t ⟨f, ht⟩ => ⟨ht.part, ht.part ▸ rfl, ht.bootstep.ge⟩
  · obtain h | h := step_acts hs
    · refine .inl (h.part.resolve_right fun ⟨hboot, hstep⟩ => ?_)
      obtain hb | hb := hb
      · rw [hb] at hboot
        cases hboot
      · omega
    · exact .inr h.inReset

end

/-! ## Input power, resets and trips (R329, R334, R336, R340, R341, R344, R347, R355) -/

namespace Sys2Proof.Machine

/-! ### Rails -/

theorem State.setRails_of_plane {s : State} {p : Plane} {k : PlaneIx} (h : s.plane k = p) (on : Bool) :
    (s.setRails on).plane k = { p with railsOn := on } := by rw [s.setRails_plane, h]

theorem State.setRails_mod (s : State) (on : Bool) : (s.setRails on).mod = { s.mod with railsOn := on } := by rw [s.setRails_eq]

/-- The device is off: nothing is supplied, and nothing is stored but what needs no supply. -/
structure State.Off (t : State) : Prop where
  standby : t.mod.standby = false
  railsOn : t.mod.railsOn = false
  inReset : t.mod.inReset = true
  inputGood : t.mod.inputGood = false
  tripLatch : t.mod.tripLatch = false
  alertIn : t.mod.alertIn = false
  alertStuck : t.mod.alertStuck = false
  rstOutLow : t.mod.rstOutLow = true
  jobs : t.jobs = []
  plane : ∀ k, (t.plane k).railsOn = false ∧ (t.plane k).jobs = []

theorem State.powerOff_off (s : State) : s.powerOff.Off where
  standby := rfl
  railsOn := congrArg (·.mod.railsOn) (s.holdReset.setRails_eq false)
  inReset := congrArg (·.mod.inReset) (s.holdReset.setRails_eq false)
  inputGood := rfl
  tripLatch := rfl
  alertIn := rfl
  alertStuck := rfl
  rstOutLow := rfl
  jobs := congrArg (·.jobs) (s.holdReset.setRails_eq false)
  plane k := by
    have h : s.powerOff.plane k = { Plane.reset with railsOn := false } := State.setRails_of_plane (s.holdReset_plane k) false
    rw [h]
    exact ⟨rfl, rfl⟩

/-- The input in range turns the rails on, with the device held in reset (R340). -/
theorem inputPowerUp_powers {s : State} {mv : Nat} (hg : s.mod.inputGood = false) (hlo : 49000 ≤ mv)
    (hhi : mv ≤ if s.mod.overvolt then 61000 else 62000) : Runs (.inputPowerUp mv) s fun t =>
      t.mod.inputGood = true ∧ t.mod.standby = true ∧ t.mod.railsOn = true ∧ t.mod.inReset = true ∧ t.mod.vin = mv ∧
      (t.mod.lowIn = true ↔ mv < 50000) ∧ ∀ k, t.plane k = { s.plane k with railsOn := true } := by
  have hx : exec (.inputPowerUp mv) s = execInputPowerUp mv s := rfl
  have hin : ¬(decide (mv < 49000) || decide (mv > if s.mod.overvolt then 61000 else 62000)) = true := by
    simp only [Bool.or_eq_true, decide_eq_true_eq]
    omega
  rw [execInputPowerUp, if_neg (by simp [hg]), if_neg hin] at hx
  exact ⟨_, hx, rfl, rfl, congrArg Module.railsOn (s.setRails_mod true), rfl, rfl, decide_eq_true_iff, s.setRails_plane true⟩

theorem inputOvervoltage_powersOff {s : State} {mv : Nat} (h : 62000 < mv) :
    Runs (.inputOvervoltage mv) s fun t => t.Off ∧ t.mod.overvolt = true ∧ t.mod.vin = mv := by
  have hx : exec (.inputOvervoltage mv) s = execInputOvervoltage mv s := rfl
  rw [execInputOvervoltage, if_neg (by omega)] at hx
  exact ⟨_, hx, { s.powerOff_off with }, rfl, rfl⟩

theorem inputLowRange_notes {s : State} (hg : s.mod.inputGood = true) (mv : Nat) : Runs (.inputLowRange mv) s fun t =>
    t = { s with mod := t.mod } ∧ t.mod.vin = mv ∧ (t.mod.lowIn = true ↔ mv < 50000) :=
  ⟨_, if_pos hg, rfl, rfl, decide_eq_true_iff⟩

/-! ### Resets -/

/-- A reset holds the device with everything at its reset value but what the standby domain keeps (R336). -/
structure State.InReset (s t : State) : Prop where
  inReset : t.mod.inReset = true
  jobs : t.jobs = []
  host : t.host = HostPort.reset
  plane : ∀ k, t.plane k = Plane.reset
  part : t.part = {}
  boot : t.boot = { bidx := s.boot.bidx, rstcause := s.boot.rstcause }

theorem State.holdReset_held (s : State) : s.InReset s.holdReset := ⟨rfl, rfl, rfl, s.holdReset_plane, rfl, rfl⟩

theorem State.pinReset_untripped {s : State} (hs : s.mod.standby = true) (ht : s.mod.tripLatch = false) : s.pinReset = s.holdReset := by
  simp [State.pinReset, hs, ht]

theorem State.pinReset_cool {s : State} (hs : s.mod.standby = true) (ht : s.mod.tripLatch = true) (hc : s.mod.cool = true) :
    s.pinReset = { s.setRails true with mod := { (s.setRails true).mod with tripLatch := false } } := by
  simp [State.pinReset, hs, ht, hc]

theorem State.pinReset_hot {s : State} (hs : s.mod.standby = true) (ht : s.mod.tripLatch = true) (hc : s.mod.cool = false) :
    s.pinReset = s := by
  simp [State.pinReset, hs, ht, hc]

theorem rstInAssert_holds {s : State} (hs : s.mod.standby = true) (ht : s.mod.tripLatch = false) :
    Runs .rstInAssert s fun t => s.InReset t ∧ t.mod.rstIn = true ∧ t.mod.rstOutLow = true := by
  refine ⟨_, rfl, ?_⟩
  rw [s.pinReset_untripped hs ht]
  exact ⟨{ s.holdReset_held with }, rfl, rfl⟩

theorem perstAssert_holds {s : State} (hs : s.mod.standby = true) (ht : s.mod.tripLatch = false) :
    Runs .perstAssert s fun t => s.InReset t ∧ t.mod.perst = true := by
  refine ⟨_, rfl, ?_⟩
  rw [s.pinReset_untripped hs ht]
  exact ⟨{ s.holdReset_held with }, rfl⟩

/-- A pin releases the latch of a trip once the diodes are cool (R347). -/
theorem rstInAssert_releasesTrip {s : State} (hs : s.mod.standby = true) (ht : s.mod.tripLatch = true) (hc : s.mod.cool = true) :
    Runs .rstInAssert s fun t => t.mod.tripLatch = false ∧ t.mod.railsOn = true ∧ ∀ k, t.plane k = { s.plane k with railsOn := true } := by
  refine ⟨_, rfl, ?_⟩
  rw [s.pinReset_cool hs ht hc]
  exact ⟨rfl, congrArg Module.railsOn (s.setRails_mod true), s.setRails_plane true⟩

theorem perstAssert_ignored {s : State} (hs : s.mod.standby = true) (ht : s.mod.tripLatch = true) (hc : s.mod.cool = false) :
    Runs .perstAssert s fun t => t = { s with mod := { s.mod with perst := true } } := by
  refine ⟨_, rfl, ?_⟩
  rw [s.pinReset_hot hs ht hc]

theorem resetRelease_samples {s : State} (hr : s.mod.inReset = true) (hp : s.mod.railsOn = true) (hg : s.mod.inputGood = true)
    (ht : s.mod.tripLatch = false) (src : ResetSource) (strap : BitVec 3) (ref : Bool) :
    Runs (.resetRelease src strap ref) s fun t => t.mod.inReset = false ∧ t.boot = { bidx := strap, rstcause := ResetSource.code src } ∧
      t.mod.strap = strap ∧ ∀ k, t.plane k = { s.plane k with refSel := ref } := by
  have hx : exec (.resetRelease src strap ref) s = execResetRelease src strap ref s := rfl
  rw [execResetRelease, if_pos (by simp [hr, hp, hg, ht])] at hx
  exact ⟨_, hx, rfl, rfl, rfl, s.eachPlane_plane fun _ p => { p with refSel := ref }⟩

theorem thermalTrip_latches {s : State} (hp : s.mod.railsOn = true) : Runs .thermalTrip s fun t =>
    t.mod.tripLatch = true ∧ t.mod.railsOn = false ∧ t.mod.inReset = true ∧ t.jobs = [] ∧ t.mod.standby = s.mod.standby ∧
      ∀ k, (t.plane k).railsOn = false := by
  have hx : exec .thermalTrip s = execThermalTrip s := rfl
  rw [execThermalTrip, if_pos hp] at hx
  have he := s.holdReset.setRails_eq false
  exact ⟨_, hx, rfl, congrArg (·.mod.railsOn) he, congrArg (·.mod.inReset) he, congrArg (·.jobs) he, congrArg (·.mod.standby) he,
    fun k => congrArg Plane.railsOn (s.holdReset.setRails_plane false k)⟩

end Sys2Proof.Machine

section
open Sys2Proof Sys2Proof.Machine

/-- Settles O43: the rails of every plane go with the module's, and what ends the input ends in the same state. -/
theorem inputPowerSwitchesRails : Obligations.InputPowerSwitchesRails := by
  intro mv s off
  have hoff {t : State} (h : t.Off) : off t := by
    obtain ⟨h1, h2, h3, h4, h5, h6, h7, h8, h9, h10⟩ := h
    exact ⟨h1, h2, h3, h4, h5, h6, h7, h8, h9, h10⟩
  refine ⟨inputPowerUp_powers, ⟨_, rfl, hoff s.powerOff_off⟩, fun h => ?_, ⟨_, rfl, hoff { s.powerOff_off with }, rfl⟩,
    ⟨_, rfl, hoff { s.powerOff_off with }, rfl⟩, fun hg => inputLowRange_notes hg mv⟩
  exact (inputOvervoltage_powersOff h).imp fun t ⟨ht, hv⟩ => ⟨hoff ht, hv⟩

/-- Settles O44: a pin resets, releases a trip or is ignored by the trip's latch and the diodes; the release and the trip act at once. -/
theorem resetsAndTrips : Obligations.ResetsAndTrips := by
  intro src strap ref ds s held
  have hheld {t : State} (h : s.InReset t) : held t := by
    obtain ⟨h1, h2, h3, h4, h5, h6⟩ := h
    exact ⟨h1, h2, h3, h4, h5, h6⟩
  refine ⟨fun hs => ⟨fun ht => ⟨?_, ?_⟩, rstInAssert_releasesTrip hs, perstAssert_ignored hs⟩,
    fun hr hp hg ht => resetRelease_samples hr hp hg ht src strap ref, fun hr => ⟨_, if_neg (by simp [hr]), rfl⟩, thermalTrip_latches,
    fun hs ht => ⟨_, if_pos (by simp [hs, ht]), rfl⟩⟩
  · exact (rstInAssert_holds hs ht).imp fun t ⟨ht, hp⟩ => ⟨hheld ht, hp⟩
  · exact (perstAssert_holds hs ht).imp fun t ⟨ht, hp⟩ => ⟨hheld ht, hp⟩

end

/-! ## Sensors, the power cap, plane rails and the reference (R326, R337, R340, R343, R345, R346) -/

namespace Sys2Proof.Machine

/-! ### Rails that fail (R340, R345) -/

/-- What the loss of a plane's contents leaves of its supply and its lanes. -/
def Plane.supply (p : Plane) : Bool × Bool × Vector Lane 16 := (p.railFault, p.railsOn, p.lanes.map Lane.still)

theorem Plane.supply_congr {p q : Plane} (hf : q.railFault = p.railFault) (hr : q.railsOn = p.railsOn)
    (hl : q.lanes.map Lane.still = p.lanes.map Lane.still) : q.supply = p.supply := by
  rw [Plane.supply, hf, hr, hl, Plane.supply]

/-- Every plane keeps its supply and its lanes but for their queues and counters. -/
structure State.Supplied (s t : State) : Prop where
  plane : ∀ q, (t.plane q).supply = (s.plane q).supply

theorem State.Supplied.refl (s : State) : s.Supplied s := ⟨fun _ => rfl⟩

theorem State.Supplied.trans {s t u : State} (h : s.Supplied t) (g : t.Supplied u) : s.Supplied u :=
  ⟨fun q => (g.plane q).trans (h.plane q)⟩

theorem State.Supplied.each {α : Type} {f : State → α → State} (h : ∀ (s : State) a, s.Supplied (f s a)) : ∀ (l : List α) (s : State),
    s.Supplied (s.each l f)
  | [], s => .refl s
  | a :: l, s => (h s a).trans (State.Supplied.each h l (f s a))

theorem State.Supplied.of_plane {s t : State} (h : ∀ q, t.plane q = s.plane q) : s.Supplied t := ⟨fun q => by rw [h]⟩

theorem State.Supplied.updHost (s : State) (f : HostPort → HostPort) : s.Supplied (s.updHost f) := ⟨fun _ => rfl⟩

theorem State.Supplied.updJob (s : State) (id : Nat) (f : Job → Job) : s.Supplied (s.updJob id f) := ⟨fun _ => rfl⟩

theorem State.Supplied.updPlane (s : State) (k : PlaneIx) {f : Plane → Plane} (h : ∀ p, (f p).supply = p.supply) :
    s.Supplied (s.updPlane k f) := by
  refine ⟨fun q => ?_⟩
  rw [plane_updPlane]
  split
  · next e => subst e; exact h _
  · rfl

/-- Frames on their way out change the queues and counters of lanes alone. -/
theorem State.Sends.supplied {s t : State} (h : s.Sends t) (g : s.Steady t) : s.Supplied t := by
  refine ⟨fun q => ?_⟩
  have hl : (t.plane q).lanes.map Lane.still = (s.plane q).lanes.map Lane.still := congrArg (·.2.2.2) (g.plane q)
  rw [Plane.supply, hl, h.plane q]
  rfl

theorem State.toMember_supplied (s : State) (k : PlaneIx) (j : Job) (pj : PJob) (m : Nat) (f : Frame) (u : Bool) :
    s.Supplied (s.toMember k j pj m f u) := by
  refine (s.toMember_sends ..).supplied ?_
  unfold State.toMember
  split
  · exact s.enqueue_steady ..
  · exact s.toDevice_steady ..

theorem State.planeAnswer_supplied (s : State) (id : Nat) (k : PlaneIx) (st : Status) (sec : List Byte) :
    s.Supplied (s.planeAnswer id k st sec) := .of_plane fun q => s.planeAnswer_plane id k q st sec

/-- Queues and counters of lanes are no part of a plane's supply. -/
theorem Vector.map_still {n : Nat} {ls : Vector Lane n} {f : Lane → Lane} (h : ∀ l, (f l).still = l.still) :
    (ls.map f).map Lane.still = ls.map Lane.still := by
  rw [Vector.map_map]
  exact congrArg (Vector.map · ls) (funext h)

theorem State.endReads_supplied (s : State) (k : PlaneIx) (id : Nat) : s.Supplied (s.endReads k id) := by
  refine .trans ?_ (.each (fun s _ => s.planeAnswer_supplied ..) _ _)
  exact .updPlane s k fun p => Plane.supply_congr rfl rfl (Vector.map_still fun _ => rfl)

theorem State.endWait_supplied (s : State) (k : PlaneIx) (w : Wait) (st : Status) : s.Supplied (s.endWait k w st) := by
  have h := State.Supplied.updPlane s k (f := fun p => { p with waits := p.waits.filter (·.id != w.id) }) fun _ => rfl
  unfold State.endWait
  dsimp only
  split
  · exact h.trans (State.planeAnswer_supplied ..)
  · split
    · exact h.trans (State.toMember_supplied ..)
    · exact h

theorem State.endApply_supplied (s : State) (k : PlaneIx) (c : PlaneCmd) : s.Supplied (s.endApply k c) := by
  unfold State.endApply
  dsimp only
  split <;> exact s.planeAnswer_supplied ..

theorem State.settleJob_supplied (s : State) (id : Nat) : s.Supplied (s.settleJob id) := .of_plane (s.settleJob_plane id)

theorem State.fenceJob_supplied (s : State) (id cause : Nat) : s.Supplied (s.fenceJob id cause) := by
  unfold State.fenceJob
  split
  · exact .refl s
  · split
    · exact .refl s
    · refine .trans (.trans (.of_plane fun _ => ?_) (.each (fun s k => ?_) _ _)) (State.settleJob_supplied ..)
      · rfl
      · refine .updPlane s k fun p => ?_
        unfold Plane.pushDown
        split <;> rfl

theorem State.dropPlaneJobs_supplied (s : State) (k : PlaneIx) (cause : Nat) : s.Supplied (s.dropPlaneJobs k cause) := by
  unfold State.dropPlaneJobs
  extract_lets named s1 s2 s3 s4 s5 s6 s7 s8
  have h1 : s.Supplied s1 := .each (fun s _ => s.endReads_supplied ..) _ s
  have h2 : s1.Supplied s2 := .each (fun s _ => s.endWait_supplied ..) _ s1
  have h3 : s2.Supplied s3 := .each (fun s _ => s.endApply_supplied ..) _ s2
  have h4 : s3.Supplied s4 := .each (fun s _ => s.planeAnswer_supplied ..) _ s3
  have h5 : s4.Supplied s5 := .updHost s4 _
  have h6 : s5.Supplied s6 := .each (fun s c => .trans (.updHost s _) (State.planeAnswer_supplied _ c ..)) _ s5
  have h7 : s6.Supplied s7 := .updPlane s6 k fun p => Plane.supply_congr rfl rfl (Vector.map_still fun _ => rfl)
  have h8 : s7.Supplied s8 := .each (fun s (j : Job) => .updJob s j.id _) _ s7
  exact h1.trans (h2.trans (h3.trans (h4.trans (h5.trans (h6.trans (h7.trans (h8.trans
    ((State.Supplied.each (fun s (j : Job) => s.fenceJob_supplied j.id cause) _ s8).trans
      (.each (fun s (j : Job) => s.settleJob_supplied j.id) _ _)))))))))

/-- A plane whose rails have failed: without its supply, its lanes turned off. -/
structure Plane.Unpowered (p : Plane) : Prop where
  railFault : p.railFault = true
  railsOn : p.railsOn = false
  lanes : ∀ l : LaneIx, p.lanes[l].st = .disabled ∧ p.lanes[l].laserOn = false

theorem Plane.Unpowered.congr {p q : Plane} (h : p.Unpowered) (e : q.supply = p.supply) : q.Unpowered := by
  simp only [Plane.supply, Prod.mk.injEq] at e
  obtain ⟨hf, hr, hl⟩ := e
  refine ⟨hf.trans h.railFault, hr.trans h.railsOn, fun l => ?_⟩
  have hs : q.lanes[l].still = p.lanes[l].still := by simpa using congrArg (·[l]) hl
  obtain ⟨hst, hon⟩ := h.lanes l
  exact ⟨(congrArg Lane.st hs :).trans hst, (congrArg Lane.laserOn hs :).trans hon⟩

/-- A plane retired because its rails failed (R345). -/
theorem State.retirePlane_unpowered (s : State) (k : PlaneIx) : ((s.retirePlane k true).plane k).Unpowered := by
  unfold State.retirePlane
  extract_lets t s1 s2 cmds s3 s4 s5
  have h2 : (s2.plane k).Unpowered := by
    rw [show s2.plane k = _ from plane_updPlane_same s1 k _]
    exact ⟨Bool.or_true _, rfl, fun l => by simp [Lane.laserStop, Lane.clockStop]⟩
  have h3 : s2.Supplied s3 := .updPlane s2 k fun _ => rfl
  have h4 : s3.Supplied s4 := .each (fun s _ => s.planeAnswer_supplied ..) _ s3
  rw [State.setHpFault_plane]
  exact h2.congr ((h3.trans (h4.trans (s4.dropPlaneJobs_supplied k 4))).plane k)

/-- Rails that fail retire the plane without a record, whether boot has released it or not (R340, R345). -/
theorem State.railFails_retires {s : State} {k : PlaneIx} (h : (s.plane k).railFault = false) :
    ((s.railFails k).plane k).ps = .retired ∧ ((s.railFails k).plane k).Unpowered ∧
      ((s.railFails k).plane k).errSeq = (s.plane k).errSeq := by
  unfold State.railFails
  rw [if_neg (by simp [h])]
  split
  · rw [plane_updPlane_same]
    exact ⟨rfl, ⟨rfl, rfl, fun l => by simp [Plane.railsOff, Lane.laserStop, Lane.clockStop]⟩, rfl⟩
  · obtain ⟨hl, hp⟩ := s.retirePlane_leaves k true
    rw [plane_updPlane_same]
    exact ⟨hp, (s.retirePlane_unpowered k).congr rfl, hl.errSeq k⟩

end Sys2Proof.Machine

namespace Sys2Proof.Machine

/-! ### Throttle and cap (R343, R346) -/

/-- A thermal step moves by at most one (R346). -/
theorem thermNext_near (n : Nat) (t : Int) : thermNext n t ≤ n + 1 ∧ n ≤ thermNext n t + 1 := by
  unfold thermNext
  split
  · omega
  · split <;> omega

theorem throttleEvaluation_evaluates {k : PlaneIx} {dt ht : Int} {vc : Nat} {s : State} (hr : (s.plane k).railsOn = true)
    (hp : (s.plane k).ps ≠ .held) : Runs (.throttleEvaluation k dt ht vc) s fun t =>
      let d := s.trimTemp k.val dt
      t = { s with planes := t.planes } ∧ (t.plane k).dtemp = d ∧ (t.plane k).hbmTemp = ht ∧ (t.plane k).vcore = s.trimMv k.val vc ∧
      (t.plane k).thermStep = thermNext (s.plane k).thermStep d ∧ (t.plane k).thermStep ≤ (s.plane k).thermStep + 1 ∧
      (s.plane k).thermStep ≤ (t.plane k).thermStep + 1 ∧ (950 ≤ ht → (t.plane k).hbmThr = true) ∧
      (ht < 920 → (t.plane k).hbmThr = false) ∧ ∀ q, q ≠ k → t.plane q = s.plane q := by
  refine ⟨_, if_pos (by simp [hr, hp]), rfl, ?_⟩
  rw [plane_updPlane_same]
  obtain ⟨hup, hdown⟩ := thermNext_near (s.plane k).thermStep (s.trimTemp k.val dt)
  exact ⟨rfl, rfl, rfl, rfl, hup, hdown, fun h => if_pos h, fun h => (if_neg (by omega)).trans (if_pos h),
    fun q hq => plane_updPlane_other s _ _ _ hq⟩

theorem powerCapEvaluation_evaluates {s : State} (h : s.mod.inReset = false) (w : Nat) : Runs (.powerCapEvaluation w) s fun t =>
    t = { s with mod := t.mod } ∧ t.mod.power = w ∧ (11500 < w → t.mod.pwrCap = true) ∧ (w < 10800 → t.mod.pwrCap = false) ∧
      (10800 ≤ w → w ≤ 11500 → t.mod.pwrCap = s.mod.pwrCap) :=
  ⟨_, if_neg (by simp [h]), rfl, rfl, fun h => if_pos h, fun h => (if_neg (by omega)).trans (if_pos h),
    fun hlo hhi => (if_neg (by omega)).trans (if_neg (by omega))⟩

/-! ### The reference and the alert ring (R335, R337) -/

theorem referenceClockLoss_switches (s : State) : Runs .referenceClockLoss s fun t => t.mod = { s.mod with refIn := false } ∧
    ∀ q, t.plane q = { s.plane q with refLost := (s.plane q).refLost || (s.plane q).refSel } := by
  refine ⟨_, rfl, ?_, s.eachPlane_plane fun _ p => { p with refLost := p.refLost || p.refSel }⟩
  rw [State.each_updPlane_fixed fun _ p => { p with refLost := p.refLost || p.refSel }]

theorem State.setErrsum_mod (s : State) (bits : List Nat) : (s.setErrsum bits).mod = s.mod := by
  simp only [State.setErrsum]
  split
  · unfold State.msixSend
    dsimp only
    split <;> rfl
  · rfl

theorem alertInLow_booted {s : State} (h : s.boot.bcode ≠ 255) : Runs .alertInLow s fun t =>
    t.mod.alertIn = true ∧ t.host.errsum = s.host.errsum ||| BitVec.ofNat 32 (2 ^ esUpAlert) := by
  refine ⟨_, if_pos (bne_iff_ne.2 h), ?_, State.setErrsum_errsum ..⟩
  rw [State.setErrsum_mod]

/-! ### SMBus (R334, R338, R339) -/

/-- The bits of a word whose eight lowest bits are given one by one. -/
theorem ofNat_bits : ∀ b7 b6 b5 b4 b3 b2 b1 b0 : Bool,
    let b (x : Bool) (n : Nat) : Nat := if x then 2 ^ n else 0
    let w := BitVec.ofNat 16 (b b7 7 + b b6 6 + b b5 5 + b b4 4 + b b3 3 + b b2 2 + b b1 1 + b b0 0)
    w.getLsbD 7 = b7 ∧ w.getLsbD 5 = b5 ∧ w.getLsbD 4 = b4 ∧ w.getLsbD 3 = b3 ∧ w.getLsbD 2 = b2 ∧ w.getLsbD 1 = b1 ∧
      w.getLsbD 0 = b0 := by
  decide

theorem State.smbusStatus_bits (s : State) : s.smbusStatus.getLsbD 7 = s.mod.tripLatch ∧ s.smbusStatus.getLsbD 5 = s.mod.alertIn ∧
    s.smbusStatus.getLsbD 4 = s.alertOut ∧ s.smbusStatus.getLsbD 3 = (s.mod.alertStuck && !s.alertOut) ∧
    s.smbusStatus.getLsbD 2 = s.mod.pwrCap ∧ s.smbusStatus.getLsbD 1 = s.mod.lowIn ∧ s.smbusStatus.getLsbD 0 = s.mod.inReset :=
  ofNat_bits ..

/-- What a Read Word finds: the pins as they are (R338, R339). -/
def State.smbusPins (s : State) (x : SmbusTarget) : State :=
  { s with fresh := s.fresh + 1, mod := { s.mod with strap := x.strap, alertStuck := s.mod.alertStuck && x.alertLow } }

theorem smbusReadWord_reads {x : SmbusTarget} {s : State} (hs : s.mod.standby = true) (hx : smbusHere x = true) :
    Runs (.smbusReadWord x) s fun t => t.mod.smbusOut = some ((s.smbusPins x).smbusWord x.code s.fresh) :=
  ⟨_, if_pos (by simp [hs, hx]), rfl⟩

theorem smbusReadWord_elsewhere {x : SmbusTarget} {s : State} (hx : smbusHere x = false) :
    Runs (.smbusReadWord x) s fun t => t = { s with mod := { s.mod with smbusOut := none } } :=
  ⟨_, if_neg (by simp [hx]), rfl⟩

theorem State.smbusWord_eq {s : State} {c : Byte} {n : Nat} : s.smbusWord 0 n = 0x4880 ∧ s.smbusWord 1 n = s.smbusStatus ∧
    s.smbusWord 2 n = BitVec.ofNat 16 (s.trimMv 8 s.mod.vin / 10) ∧ s.smbusWord 4 n = BitVec.ofNat 16 s.mod.power ∧
    s.smbusWord 15 n = BitVec.ofNat 16 (s.mod.strap.toNat + 16 * s.topThrottle + 256 * s.boot.recmode.toNat) ∧
    (15 < c.toNat → s.smbusWord c n = 0xFFFF) := by
  refine ⟨rfl, rfl, rfl, rfl, rfl, fun h => ?_⟩
  simp only [State.smbusWord]
  simp [show ¬c.toNat = 0 by omega, show ¬c.toNat = 1 by omega, show ¬c.toNat = 2 by omega, show ¬c.toNat = 3 by omega,
    show ¬c.toNat = 4 by omega, show ¬c.toNat ≤ 12 by omega, show ¬c.toNat = 13 by omega, show ¬c.toNat = 14 by omega,
    show ¬c.toNat = 15 by omega]

end Sys2Proof.Machine

section
open Sys2Proof Sys2Proof.Machine

/-- Settles O45: the sensors act on the plane or the module they read, rails that fail retire their plane, and a word is read off the pins. -/
theorem sensorsRailsAndAlertsAct : Obligations.SensorsRailsAndAlertsAct := by
  refine ⟨fun k dt ht vc w s => ⟨throttleEvaluation_evaluates, fun h => powerCapEvaluation_evaluates h w, fun h => ?_,
    referenceClockLoss_switches s⟩, fun x v s => ⟨alertInLow_booted, fun h => ⟨_, if_neg (by simp [h]), rfl⟩, ⟨_, rfl, rfl⟩,
    fun h => ⟨_, if_neg (by simp [h]), rfl⟩, fun hs hx => ?_, smbusReadWord_elsewhere, ⟨_, rfl, rfl⟩, ⟨_, rfl, rfl⟩⟩⟩
  · obtain ⟨hps, hu, he⟩ := State.railFails_retires h
    have hl l : ((s.railFails k).lane (devLane k l)).st = .disabled ∧ ((s.railFails k).lane (devLane k l)).laserOn = false := by
      rw [State.lane_devLane]
      exact hu.lanes l
    exact ⟨⟨_, rfl, hps, hu.railFault, hu.railsOn, he, hl⟩, ⟨_, rfl, hps, hu.railFault, hu.railsOn, he, hl⟩⟩
  · have hrun := smbusReadWord_reads hs hx
    obtain ⟨h0, h1, h2, h4, h15, hbeyond⟩ := (s.smbusPins x).smbusWord_eq (c := x.code) (n := s.fresh)
    refine ⟨fun hc => hrun.imp fun t ht => ?_, fun hc => hrun.imp fun t ht => ⟨_, ht, ?_⟩, fun hc => hrun.imp fun t ht => ?_,
      fun hc => hrun.imp fun t ht => ?_, fun hc => hrun.imp fun t ht => ?_, fun hc => hrun.imp fun t ht => ?_⟩
    · rw [ht, hc, h0]
    · rw [hc, h1]
      exact (s.smbusPins x).smbusStatus_bits
    · rw [ht, hc, h2]
      rfl
    · rw [ht, hc, h4]
      rfl
    · rw [ht, hc, h15]
      rfl
    · rw [ht, hbeyond hc]

end

/-! ## The queue, reset and the host port's registers (R281 to R283, R351 to R368) -/

namespace Sys2Proof.Machine

/-! ### Ticks and reset -/

theorem State.plane_reset (k : PlaneIx) : State.reset.plane k = Plane.reset := by simp [State.plane, State.reset]

theorem State.inv_reset : State.reset.Inv := by
  refine ⟨rfl, rfl, rfl, Nat.zero_le _, Nat.zero_le _, fun k => ?_⟩
  rw [State.plane_reset]
  exact Nat.zero_le _

theorem State.tick_plane (s : State) (k : PlaneIx) : s.tick.plane k = (s.plane k).tick k s.fresh := by
  simp [State.plane, State.tick]

/-- A tick moves a plane's counter alone, and not that of a plane held in reset (R364). -/
theorem Plane.tick_moves (p : Plane) (k : PlaneIx) (n : Nat) :
    p.tick k n = { p with cnt := (p.tick k n).cnt } ∧ p.cnt ≤ (p.tick k n).cnt ∧ (p.ps = .held → p.tick k n = p) := by
  unfold Plane.tick
  split
  · exact ⟨rfl, Nat.le_refl _, fun _ => rfl⟩
  · next h => exact ⟨rfl, Nat.le_add_right .., fun hp => absurd (by simp [hp]) h⟩

theorem HostPort.settleTail_catail (h : HostPort) :
    h.settleTail.catail = h.catail ∨ h.settleTail.catail = (h.catail + h.lastLen) % 1048576 := by
  unfold HostPort.settleTail
  split
  · exact .inl rfl
  · exact .inr rfl

theorem State.tick_host (s : State) :
    s.tick.host = { s.host with hpcnt := s.tick.host.hpcnt, catail := s.host.settleTail.catail, lastLen := 0 } := by
  unfold State.tick
  dsimp only
  rw [s.host.settleTail_eq]

/-! ### The reply area's registers (R354, R358 to R361) -/

theorem HostPort.endDrain_of_held {h : HostPort} (hh : h.held ≠ []) : h.endDrain = h := by simp [HostPort.endDrain, hh]

/-- The lower half of a base address, its bits [11:0] zero (R354). -/
theorem rabaseLower_bit (r v : W64) (i : Nat) (hi : i < 64) :
    ((r &&& (0xFFFFFFFF00000000 : W64)) ||| (v &&& (0xFFFFF000 : W64))).getLsbD i =
      if i < 32 then decide (12 ≤ i) && v.getLsbD i else r.getLsbD i := by
  have hm : ∀ i < 64, (0xFFFFFFFF00000000 : W64).getLsbD i = decide (32 ≤ i) ∧
      (0xFFFFF000 : W64).getLsbD i = (decide (12 ≤ i) && decide (i < 32)) := by decide
  obtain ⟨hu, hl⟩ := hm i hi
  rw [BitVec.getLsbD_or, BitVec.getLsbD_and, BitVec.getLsbD_and, hu, hl]
  by_cases h : i < 32
  · simp [h, show ¬32 ≤ i by omega, Bool.and_comm]
  · simp [h, show 32 ≤ i by omega]

theorem rabaseUpper_bit (r v : W64) (i : Nat) (hi : i < 64) :
    ((r &&& (0xFFFFFFFF : W64)) ||| (v <<< 32)).getLsbD i = if i < 32 then r.getLsbD i else v.getLsbD (i - 32) := by
  have hm : ∀ i < 64, (0xFFFFFFFF : W64).getLsbD i = decide (i < 32) := by decide
  rw [BitVec.getLsbD_or, BitVec.getLsbD_and, BitVec.getLsbD_shiftLeft, hm i hi]
  split <;> simp [*]

theorem rabaseWhole_bit (v : W64) (i : Nat) (hi : i < 64) : (v &&& (0xFFFFFFFFFFFFF000 : W64)).getLsbD i = (decide (12 ≤ i) && v.getLsbD i) := by
  have hm : ∀ i < 64, (0xFFFFFFFFFFFFF000 : W64).getLsbD i = decide (12 ≤ i) := by decide
  rw [BitVec.getLsbD_and, hm i hi, Bool.and_comm]

/-- `RABASE` takes a value while the reply area is disabled (R359). -/
theorem rabaseWrite_writes {s : State} (hup : s.hostUp = true) (hr : s.host.raen = false) (hd : s.host.radrain = false) (p : RegPart)
    (v : W64) : Runs (.rabaseWrite p v) s fun t => t = { s with host := { s.host with rabase := match p with
      | .whole => v &&& (0xFFFFFFFFFFFFF000 : W64)
      | .lower => (s.host.rabase &&& (0xFFFFFFFF00000000 : W64)) ||| (v &&& (0xFFFFF000 : W64))
      | .upper => (s.host.rabase &&& (0xFFFFFFFF : W64)) ||| (v <<< 32) } } := by
  refine ⟨_, if_pos hup, ?_⟩
  unfold State.writeRabase
  rw [if_neg (by simp [hr, hd])]
  rfl

/-- `RAEN` 0 begins a drain, which ends at once where no command is held (R360). -/
theorem raenDisable_drains {s : State} {e : BitVec 3} (hup : s.hostUp = true) (hr : s.host.raen = true) (hd : s.host.radrain = false) :
    Runs (.raenDisable e) s fun t => t = { s with host := ({ (s.host.setEnables e).settleTail with
      radrain := true, aperture := [], written := [], cahdr := 0 } : HostPort).endDrain } := by
  exact ⟨_, if_pos hup, congrArg (fun h : HostPort => { s with host := h }) (if_pos (by simp [HostPort.setEnables, hr, hd]))⟩

theorem raenDisable_held {s : State} {e : BitVec 3} (hup : s.hostUp = true) (hr : s.host.raen = true) (hd : s.host.radrain = false)
    (hh : s.host.held ≠ []) : Runs (.raenDisable e) s fun t => t = { s with host := t.host } ∧ t.host.radrain = true ∧
      t.host.raen = true ∧ t.host.held = s.host.held ∧ t.host.reports = s.host.reports ∧ t.catake = false := by
  refine (raenDisable_drains hup hr hd).imp fun t ht => ?_
  rw [HostPort.endDrain_of_held (by rwa [HostPort.settleTail_held]), HostPort.settleTail_eq] at ht
  subst ht
  exact ⟨rfl, rfl, hr, rfl, rfl, by simp [State.catake]⟩

theorem raenDisable_empty {s : State} {e : BitVec 3} (hup : s.hostUp = true) (hr : s.host.raen = true) (hd : s.host.radrain = false)
    (hh : s.host.held = []) : Runs (.raenDisable e) s fun t => t = { s with host := t.host } ∧ t.host.radrain = false ∧
      t.host.raen = false ∧ t.host.catail = 0 ∧ t.host.caexp = 0 ∧ t.host.reports = s.host.reports := by
  refine (raenDisable_drains hup hr hd).imp fun t ht => ?_
  rw [HostPort.settleTail_eq, HostPort.endDrain, if_pos (by simp [HostPort.setEnables, hh])] at ht
  subst ht
  exact ⟨rfl, rfl, rfl, rfl, rfl, rfl⟩

/-! ### Accesses that are discarded (R351, R352, R359, R361) -/

/-- A second discarded access notes nothing more. -/
theorem State.badAcc_badAcc {s : State} (h : s.host.errirqen = false) : s.badAcc.badAcc = s.badAcc := by
  have h1 : s.badAcc.host.errirqen = false := by rw [State.badAcc_eq h]; exact h
  rw [State.badAcc_eq h1, State.badAcc_eq h]
  dsimp only
  rw [BitVec.or_assoc, BitVec.or_self]

/-- The offsets of BAR0 whose words are written: registers with a writable field, and the MSI-X table (R352, R367). -/
def bar0Writable (off : Nat) : Prop :=
  off ∈ [0x0108, 0x0110, 0x0114, 0x0118, 0x011C, 0x0124, 0x0140] ∨ 0x8000 ≤ off ∧ off < 0x8030

theorem State.bar0Write4_discards {off : Nat} (h : ¬bar0Writable off) (s : State) (v : W32) : s.bar0Write4 off v = s.badAcc := by
  simp only [bar0Writable, List.mem_cons, List.not_mem_nil, or_false, not_or] at h
  obtain ⟨⟨h1, h2, h3, h4, h5, h6, h7⟩, h8⟩ := h
  unfold State.bar0Write4
  split
  exacts [absurd rfl h1, absurd rfl h2, absurd rfl h3, absurd rfl h4, absurd rfl h5, absurd rfl h6, absurd rfl h7,
    if_neg (by simpa using h8)]

/-- An 8-byte write that holds no writable word is discarded as a whole (R351). -/
theorem State.bar0Write8_discards {s : State} {off : Nat} {v : W64} (he : s.host.errirqen = false) (h8 : off % 8 = 0)
    (hm : off ∉ [0x0108, 0x0110, 0x0118, 0x0120, 0x0140]) (ht : off < 0x8000 ∨ 0x8030 ≤ off) : s.bar0Write off 8 v = s.badAcc := by
  simp only [List.mem_cons, List.not_mem_nil, or_false, not_or] at hm
  have hlo : ¬bar0Writable off := by
    simp only [bar0Writable, List.mem_cons, List.not_mem_nil, or_false]
    omega
  have hhi : ¬bar0Writable (off + 4) := by
    simp only [bar0Writable, List.mem_cons, List.not_mem_nil, or_false]
    omega
  unfold State.bar0Write
  rw [if_neg (by simp), if_pos (by simp [h8]), s.bar0Write4_discards hlo, State.bar0Write4_discards hhi, State.badAcc_badAcc he]

theorem State.bar0Write_misaligned {s : State} {off size : Nat} {v : W64} (h : (size ≠ 4 ∧ size ≠ 8) ∨ off % size ≠ 0) :
    s.bar0Write off size v = s.badAcc := by
  have h4 : ¬(size = 4 ∧ off % 4 = 0) := by rintro ⟨rfl, h0⟩; omega
  have h8 : ¬(size = 8 ∧ off % 8 = 0) := by rintro ⟨rfl, h0⟩; omega
  unfold State.bar0Write
  rw [if_neg (by simpa using h4), if_neg (by simpa using h8)]

theorem State.bar0Write_four {s : State} {off : Nat} {v : W64} (h : off % 4 = 0) :
    s.bar0Write off 4 v = s.bar0Write4 off (BitVec.ofNat 32 v.toNat) := if_pos (by simp [h])

/-- A 4-byte write to a word that none may write is discarded, aligned or not (R351, R352). -/
theorem State.bar0Write_unwritable {s : State} {off : Nat} {v : W64} (h : ¬bar0Writable off) : s.bar0Write off 4 v = s.badAcc := by
  by_cases h4 : off % 4 = 0
  · rw [State.bar0Write_four h4, State.bar0Write4_discards h]
  · exact State.bar0Write_misaligned (.inr h4)

/-- An access that is discarded leaves `BADACC` and nothing else. -/
theorem runs_of_badAcc {i : Instr} {s t : State} (he : s.host.errirqen = false) (hx : exec i s = .next t) (ht : t = s.badAcc) :
    Runs i s fun t => t = { s with host := { s.host with errsum := s.host.errsum ||| 0x10000 } } :=
  ⟨t, hx, ht.trans (State.badAcc_eq he)⟩

/-- A malformed read returns zeros (R351). -/
theorem State.bar0Read_malformed {s : State} {off size : Nat} (h : size ∉ [1, 2, 4, 8] ∨ off % size ≠ 0) :
    s.bar0Read off size = ({ s with out := { s.out with read := 0 } } : State).badAcc := by
  simp only [List.mem_cons, List.not_mem_nil, or_false] at h
  unfold State.bar0Read
  refine if_pos ?_
  simp only [Bool.or_eq_true, Bool.not_eq_true', Bool.or_eq_false_iff, beq_eq_false_iff_ne, bne_iff_ne]
  tauto

/-! ### Status registers, MSI-X and counters (R356, R362, R364, R367) -/

theorem State.clearErrsum_clears {s : State} {v : W32} (h : (s.mod.alertIn && s.host.errsum.getLsbD 14 && v.getLsbD 14) = false) :
    s.clearErrsum v = { s with host := { s.host with errsum := s.host.errsum &&& ~~~v } } := 
  if_neg (by rw [esUpAlert, h]; decide)

/-- `UPALERT` sets again at once while the pin is low (R362). -/
theorem State.clearErrsum_alert {s : State} {v : W32} (ha : s.mod.alertIn = true) (he : s.host.errsum.getLsbD 14 = true)
    (hv : v.getLsbD 14 = true) : (s.clearErrsum v).host.errsum = (s.host.errsum &&& ~~~v) ||| 0x4000 := by
  unfold State.clearErrsum
  rw [if_pos (by simp [esUpAlert, ha, he, hv]), State.setErrsum_errsum]
  rfl

theorem State.msixSend_unmasked {s : State} {v : Fin 3} (h : s.host.msix[v].ctrl = 0) :
    s.msixSend v = { s with out := { s.out with msix := s.out.msix ++ [(s.host.msix[v].addr, s.host.msix[v].data)] } } :=
  if_neg (by rw [h]; decide)

theorem State.msixControl_unmask_idle {s : State} {v : Fin 3} (h : s.host.msixPend.getLsbD v.val = false) : s.msixControl v 0 =
    { s with host := { s.host with msix := s.host.msix.set v { s.host.msix[v] with ctrl := 0 } } } :=
  if_neg (by rw [show (s.updHost _).host.msixPend = s.host.msixPend from rfl, h]; decide)

/-- An unmasked vector sends its pending message (R367). -/
theorem State.msixControl_unmask_pending {s : State} {v : Fin 3} (h : s.host.msixPend.getLsbD v.val = true) :
    (s.msixControl v 0).out = { s.out with msix := s.out.msix ++ [(s.host.msix[v].addr, s.host.msix[v].data)] } ∧
      (s.msixControl v 0).host.msixPend.getLsbD v.val = false := by
  unfold State.msixControl
  rw [if_pos (by simp [h]), State.msixSend_unmasked (by simp)]
  have hv : v.val < 3 := v.isLt
  simp [hv]

/-- The upper half that a read of the lower one latches: bits [63:32] of the counter (R364). -/
theorem latch_eq (n : Nat) : BitVec.ofNat 32 (n % 2 ^ 64 / 2 ^ 32) = BitVec.ofNat 32 (n / 2 ^ 32) := by
  apply BitVec.eq_of_toNat_eq
  simp only [BitVec.toNat_ofNat]
  omega

theorem counterLowerRead_plane {s : State} {k : PlaneIx} (hup : s.hostUp = true) (hk : (s.plane k).ps ≠ .held) :
    Runs (.counterLowerRead (.plane k)) s fun t => t.out = { s.out with read := BitVec.ofNat 64 ((s.plane k).cnt % 2 ^ 32) } ∧
      t.plane k = { s.plane k with latch := BitVec.ofNat 32 ((s.plane k).cnt / 2 ^ 32) } ∧ t.host = s.host := by
  have hc : s.pcnt k = (s.plane k).cnt % 2 ^ 64 := if_neg hk
  refine ⟨_, if_pos hup, ?_, ?_, rfl⟩
  · show { s.out with read := BitVec.ofNat 64 (s.pcnt k % 2 ^ 32) } = _
    rw [hc, Nat.mod_mod_of_dvd _ (by decide)]
  · have hl : (s.counterLower (.plane k)).plane k = { s.plane k with latch := BitVec.ofNat 32 (s.pcnt k / 2 ^ 32) } :=
      plane_updPlane_same s k fun p => { p with latch := BitVec.ofNat 32 (s.pcnt k / 2 ^ 32) }
    rw [hl, hc, latch_eq]

/-- The data word of an MSI-X vector (R367). -/
theorem State.bar0Write4_msixData (s : State) (i : Fin 3) (v : W32) : s.bar0Write4 (0x8008 + 16 * i.val) v =
    { s with host := { s.host with msix := s.host.msix.set i { s.host.msix[i] with data := v } } } := by
  fin_cases i <;> rfl

theorem counterLowerRead_host {s : State} (hup : s.hostUp = true) : Runs (.counterLowerRead .host) s fun t =>
    t.out = { s.out with read := BitVec.ofNat 64 (s.host.hpcnt % 2 ^ 32) } ∧
      t.host = { s.host with latch := BitVec.ofNat 32 (s.host.hpcnt / 2 ^ 32) } := by
  refine ⟨_, if_pos hup, ?_, ?_⟩
  · show { s.out with read := BitVec.ofNat 64 (s.host.hpcnt % 2 ^ 64 % 2 ^ 32) } = _
    rw [Nat.mod_mod_of_dvd _ (by decide)]
  · show { s.host with latch := BitVec.ofNat 32 (s.host.hpcnt % 2 ^ 64 / 2 ^ 32) } = _
    rw [latch_eq]

end Sys2Proof.Machine

section
open Sys2Proof Sys2Proof.Machine

/-- Settles O1: the step function matches on the queue. -/
theorem stepRunsFrontCommand : Obligations.StepRunsFrontCommand := by
  intro c cs s h
  rw [step, h]

/-- Settles O2: a tick moves each plane's counter, the host port block's, and settles the tail. -/
theorem idleStepOnlyMovesClocks : Obligations.IdleStepOnlyMovesClocks := by
  intro s h
  refine ⟨s.tick, by rw [step, h], rfl, fun k => ?_, s.tick_host, Nat.le_add_right .., s.host.settleTail_catail⟩
  rw [s.tick_plane]
  exact (s.plane k).tick_moves k s.fresh

/-- Settles O51: everything is at its default, plane by plane and lane by lane. -/
theorem resetLeavesNothingStored : Obligations.ResetLeavesNothingStored := by
  refine ⟨rfl, rfl, rfl, rfl, rfl, rfl, rfl, rfl, rfl, rfl, rfl, rfl, rfl, rfl, rfl, rfl, rfl, rfl, rfl, rfl, rfl, rfl, rfl, ?_, rfl,
    fun k => ?_, State.inv_reset⟩
  · decide
  · simp only [State.lane_devLane, State.plane_reset]
    exact ⟨rfl, rfl, rfl, rfl, rfl, rfl, fun l => by
      rw [show Plane.reset.lanes[l] = default by simp [Plane.reset]]
      exact ⟨rfl, rfl⟩⟩

/-- Settles O6: each register by its own row, the base bit by bit. -/
theorem replyAreaRegistersWrite : Obligations.ReplyAreaRegistersWrite := by
  intro s hup
  refine ⟨fun e hr hd => ⟨_, if_pos hup, ?_⟩, fun e => raenDisable_held hup, fun e => raenDisable_empty hup, fun e => ⟨_, if_pos hup, rfl⟩,
    fun v hr hd => ?_, fun v hr hd => ?_, fun v hr hd => ?_, fun v hr hd hlo hhi => ⟨_, if_pos hup, ?_⟩, fun v hv => ⟨_, if_pos hup, ?_⟩⟩
  · unfold State.raenOn
    rw [if_neg (by simp [HostPort.setEnables, hd]), if_neg (by simp [HostPort.setEnables, hr])]
    rfl
  · exact (rabaseWrite_writes hup hr hd .whole v).imp fun t ht => by subst ht; exact ⟨rfl, rabaseWhole_bit v⟩
  · exact (rabaseWrite_writes hup hr hd .lower v).imp fun t ht => by subst ht; exact ⟨rfl, rabaseLower_bit _ v⟩
  · exact (rabaseWrite_writes hup hr hd .upper v).imp fun t ht => by subst ht; exact ⟨rfl, rabaseUpper_bit _ v⟩
  · exact if_neg (by simp [hr, hd]; omega)
  · exact if_neg (by omega)

/-- Settles O7: every such access ends in the one write of `BADACC`. -/
theorem badHostAccessSetsBadacc : Obligations.BadHostAccessSetsBadacc := by
  refine ⟨fun i s hup he h => ?_, fun off size s hup he h => ⟨_, if_pos hup, (State.bar0Read_malformed h).trans (State.badAcc_eq he)⟩⟩
  obtain ⟨p, v, rfl, hr⟩ | ⟨v, rfl, hv⟩ | ⟨v, rfl, hv⟩ | ⟨off, size, v, rfl, hs⟩ | ⟨off, v, rfl, h8, hm, ht⟩ | ⟨off, v, rfl, hm, ht⟩ := h
  · exact runs_of_badAcc he (if_pos hup) (if_pos (by simpa using hr))
  · exact runs_of_badAcc he (if_pos hup) (if_pos (by simpa [or_assoc] using hv))
  · exact runs_of_badAcc he (if_pos hup) (if_pos hv)
  · exact runs_of_badAcc he (if_pos hup) (State.bar0Write_misaligned hs)
  · exact runs_of_badAcc he (if_pos hup) (State.bar0Write8_discards he h8 hm ht)
  · refine runs_of_badAcc he (if_pos hup) (State.bar0Write_unwritable ?_)
    rintro (h | h)
    · exact hm h
    · omega

/-- Settles O8: each register by its own row; a 4-byte write runs the row of its register. -/
theorem hostStatusRegistersWrite : Obligations.HostStatusRegistersWrite := by
  intro s hup
  refine ⟨fun v h => ⟨_, if_pos hup, s.clearErrsum_clears h⟩, fun v ha he hv => ⟨_, if_pos hup, s.clearErrsum_alert ha he hv⟩,
    fun v => ⟨_, if_pos hup, rfl⟩, fun v h => ⟨_, if_pos hup, s.msixControl_unmask_idle h⟩,
    fun v h => ⟨_, if_pos hup, s.msixControl_unmask_pending h⟩, counterLowerRead_host hup, fun k hk => counterLowerRead_plane hup hk,
    fun i v => ⟨_, if_pos hup, ?_⟩, fun v => ⟨rfl, rfl, rfl⟩⟩
  rw [State.bar0Write_four (by omega), s.bar0Write4_msixData i]

end

/-! ## A barrier behind two records of one number (R296) -/

namespace Sys2Proof.Machine

/-- A `BARRIER` that wants no reply. -/
def quietBarrierPacket : Packet := { opcode := 0x0105, flags := 1, job := 0, pmask := 0, tag := 0, len := 5, params := [] }

/-- A `BARRIER` with a reply. -/
def barrierPacket : Packet := { quietBarrierPacket with flags := 0 }

/-- The head command: a `BARRIER` of number 1. -/
def barrierHead : Held := { id := 1, pkt := barrierPacket }

/-- The earlier command that the barrier is to wait for, of number 0. -/
def earlierRead : Held := { id := 0, pkt := { barrierPacket with opcode := 0x0104 }, phase := .waiting }

/-- An earlier `BARRIER`, of number 0 as well. -/
def earlierBarrier : Held := { id := 0, pkt := quietBarrierPacket, phase := .waiting }

def barrierState : State := { State.reset with host := { HostPort.reset with held := [earlierBarrier, earlierRead, barrierHead] } }

theorem barrierState_atHead : barrierState.AtHead 0x0105 barrierPacket barrierHead := by
  unfold State.AtHead
  decide +kernel

/-- What the dispatcher makes of the head command: the earlier barrier is complete, its number is dropped with both records, and the head
command is complete as well. -/
def barrierNext : State := barrierState.dispatch 0x0105 barrierPacket fun c s =>
  (s.updHeld c.id fun c => { c with phase := .waiting }).updHost fun h => h.barriers.endDrain

theorem barrierNext_answers : ∀ o ∈ barrierNext.host.held, o.phase = .ready := by
  decide +kernel

end Sys2Proof.Machine

section
open Sys2Proof Sys2Proof.Machine

/-- Refutes O10: an earlier barrier without a reply shares its number with an earlier command; the barrier's completion drops both records, and
the barrier behind them is answered where the statement has it wait. -/
theorem not_readsAndBarrierAnswer : ¬ Obligations.ReadsAndBarrierAnswer := by
  rintro ⟨-, h⟩
  obtain ⟨-, hwait⟩ := h barrierPacket barrierHead barrierState barrierState_atHead
  obtain ⟨t, ht, -, o, ho, -, hph⟩ := hwait ⟨earlierRead, by decide +kernel, by decide, by decide⟩
  obtain rfl : barrierNext = t := Host.Outcome.next.inj ht
  rw [barrierNext_answers o ho] at hph
  exact Phase.noConfusion hph

end

/-! ## Writes into the aperture and the packets taken from it (R281 to R287) -/

namespace Sys2Proof.Machine

/-- Reading a header sets its length alone. -/
theorem HostPort.readHeader_eq (h : HostPort) : h.readHeader = { h with cahdr := h.readHeader.cahdr } := by
  unfold HostPort.readHeader
  split <;> rfl

/-! ### Bytes that land (R281) -/

/-- Bytes that do not run past the aperture's end stand where they were written. -/
theorem apertureRing_same {m : Mem} {off i : Nat} {data : List Byte} (hm : Memory.wf m = true) (hl : off + data.length ≤ apertureSize)
    (hi : i < data.length) : memRead (ringWrite m apertureSize off data) (off + i) = data[i] := by
  have ha : (0 + (off + i) % apertureSize) % 2 ^ 64 = off + i := by unfold apertureSize at *; omega
  rw [ringWrite_eq apertureSize (by decide) (by decide)]
  exact (congrArg _ ha).symm.trans (hostWrite_same 0 apertureSize (by decide) data m off i hm hi (by omega))

theorem apertureRing_other {m : Mem} {off a : Nat} {data : List Byte} (hl : off + data.length ≤ apertureSize)
    (ha : ∀ i < data.length, a ≠ off + i) : memRead (ringWrite m apertureSize off data) a = memRead m a := by
  rw [ringWrite_eq apertureSize (by decide) (by decide)]
  refine hostWrite_other 0 apertureSize data m off a fun i hi => ?_
  rw [show (0 + (off + i) % apertureSize) % 2 ^ 64 = off + i by unfold apertureSize at *; omega]
  exact ha i hi

theorem HostPort.apertureWrite_lands {h : HostPort} {off : Nat} {data : List Byte} (he : h.raen = true) (hd : h.radrain = false)
    (hn : data ≠ []) (ho : h.overruns off data.length = false) :
    h.apertureWrite off data = { h with
      aperture := ringWrite h.aperture apertureSize off data, written := (h.apertureWrite off data).written,
      cahdr := (h.apertureWrite off data).cahdr } := by
  unfold HostPort.apertureWrite
  rw [if_neg (by simp [he, hd, hn]), if_neg (by simp [ho]), HostPort.readHeader_eq]

theorem HostPort.apertureWrite_overruns {h : HostPort} {off : Nat} {data : List Byte} (he : h.raen = true) (hd : h.radrain = false)
    (hn : data ≠ []) (ho : h.overruns off data.length = true) :
    h.apertureWrite off data = { h with caovrun := satAdd 32 h.caovrun 1 } := by
  unfold HostPort.apertureWrite
  rw [if_neg (by simp [he, hd, hn]), if_pos ho]

theorem HostPort.apertureWrite_closed {h : HostPort} {off : Nat} {data : List Byte} (hc : h.raen = false ∨ h.radrain = true) :
    h.apertureWrite off data = h := if_pos (by simp only [Bool.or_eq_true, Bool.not_eq_true']; exact .inl hc)

theorem apertureWrite_runs {s : State} (hup : s.hostUp = true) (off : BitVec 20) (data : List Byte) :
    Runs (.apertureWrite off data) s fun t => t = { s with host := s.host.apertureWrite off.toNat data } := ⟨_, if_pos hup, rfl⟩

/-! ### Packets taken (R282, R284, R286) -/

/-- Moving past a packet changes the aperture's bookkeeping alone. -/
theorem HostPort.moveOn_eq (h : HostPort) (len : Nat) : h.moveOn len = { h with
    catail := (h.moveOn len).catail, caexp := nextOffset (h.caexp + 4 * len), cahdr := (h.moveOn len).cahdr,
    lastLen := (h.moveOn len).lastLen, written := (h.moveOn len).written } := by
  unfold HostPort.moveOn
  dsimp only
  rw [HostPort.readHeader_eq, HostPort.settleTail_eq]

/-- The packet that the words at the expected offset spell (R284). -/
def takenPacket (bs : List Byte) (len : Nat) : Packet := { parsePacket bs with len := len, params := (bs.drop 16).take (4 * len - 20) }

/-- The header fields of a taken packet are the bytes of its header (R284). -/
theorem takenPacket_fields (bs : List Byte) (len : Nat) : (takenPacket bs len).opcode.toNat = fieldAt bs 0 2 ∧
    (takenPacket bs len).flags.toNat = fieldAt bs 2 2 ∧ (takenPacket bs len).job = fieldAt bs 6 2 ∧
    (takenPacket bs len).pmask.toNat = fieldAt bs 8 1 ∧ (takenPacket bs len).tag.toNat = fieldAt bs 12 4 := by
  refine ⟨?_, ?_, rfl, ?_, ?_⟩
  all_goals
    refine (BitVec.toNat_ofNat ..).trans (Nat.mod_eq_of_lt ?_)
    exact fieldAt_lt ..

/-- A packet whose last word is written is taken (R282). -/
theorem packetTake_takes {s : State} {len : Nat} (ht : s.catake = true) (hh : s.host.cahdr = len + 1) (hl : 5 ≤ len)
    (hw : s.host.allWritten (s.host.caexp + 4 * len - 4) 4 = true) : Runs .packetTake s fun t => t = s.takePacket len := by
  refine ⟨_, rfl, ?_⟩
  unfold State.packetTake
  rw [if_neg (by simp [ht]), hh]
  dsimp only
  rw [if_neg (by omega), if_pos hw]

/-- A packet that is refused, by a dispatcher that has come to `h`, is held and answered at once under a number of its own, and `h` keeps
everything else. -/
structure State.Refused (s : State) (h : HostPort) (p : Packet) (st : Status) (t : State) : Prop where
  fixed : t = { s with host := t.host }
  answered : t.Answered { id := s.host.nextHeld, pkt := p } st []
  host : t.host = { h with held := t.host.held, nextHeld := s.host.nextHeld + 1 }

theorem State.refusePacket_refused {s : State} {h : HostPort} {p : Packet} {st : Status} (hd : h.radrain = false)
    (hh : h.held = s.host.held) (hn : h.nextHeld = s.host.nextHeld) (hu : ∀ o ∈ s.host.held, o.id ≠ s.host.nextHeld) :
    s.Refused h p st (({ s with host := h } : State).refusePacket p st) := by
  have hm : ({ id := h.nextHeld, pkt := p } : Held) ∈ (h.hold p).held := by simp [HostPort.hold]
  refine ⟨rfl, ?_, ?_⟩
  · rw [← hn]
    refine State.answer_answered (s := { s with host := h.hold p }) hm (fun o ho hid => ?_) st [] 0
    simp only [HostPort.hold, List.mem_append, List.mem_singleton, hh] at ho
    exact ho.resolve_left fun h => hu o h (hid.trans hn)
  · rw [← hn]
    exact congrArg State.host (State.answer_eq (s := { s with host := h.hold p }) hd h.nextHeld st [] 0)

/-- The dispatcher past a packet, with the count of failures in a row it leaves. -/
def HostPort.past (h : HostPort) (len n : Nat) : HostPort := { h.moveOn len with cacrc := n }

theorem HostPort.past_eq (h : HostPort) (len n : Nat) : h.past len n = { h with
    catail := (h.moveOn len).catail, caexp := nextOffset (h.caexp + 4 * len), cahdr := (h.moveOn len).cahdr,
    lastLen := (h.moveOn len).lastLen, written := (h.moveOn len).written, cacrc := n } := by
  rw [HostPort.past, HostPort.moveOn_eq]

theorem State.refusePacket_past {s : State} {p : Packet} {st : Status} (hd : s.host.radrain = false)
    (hu : ∀ o ∈ s.host.held, o.id ≠ s.host.nextHeld) (len n : Nat) :
    s.Refused (s.host.past len n) p st (({ s with host := s.host.past len n } : State).refusePacket p st) := by
  have he := s.host.past_eq len n
  exact State.refusePacket_refused ((congrArg HostPort.radrain he).trans hd) (congrArg HostPort.held he :) (congrArg HostPort.nextHeld he :) hu

/-- The CRC of a packet of `len` words covers all but its last word (R284). -/
def crcGood (bs : List Byte) (len : Nat) : Prop := bs.drop (4 * len - 4) = crcBytes (bs.take (4 * len - 4))

section
variable {s : State} {len : Nat} {bs : List Byte} (hb : s.host.packetBytes (4 * len) = bs)
include hb

theorem State.takePacket_holds (hc : crcGood bs len) (hp : packetCheck (takenPacket bs len) s.boot.recmode (headerZero bs) = none) :
    s.takePacket len = { s with host := (s.host.past len 0).hold (takenPacket bs len) } := by
  subst hb
  refine (if_neg (not_not.2 hc)).trans ?_
  split
  · next h => exact nomatch h.symm.trans hp
  · rfl

theorem State.takePacket_refuses {st : Status} (hc : crcGood bs len)
    (hp : packetCheck (takenPacket bs len) s.boot.recmode (headerZero bs) = some st) :
    s.takePacket len = ({ s with host := s.host.past len 0 } : State).refusePacket (takenPacket bs len) st := by
  subst hb
  refine (if_neg (not_not.2 hc)).trans ?_
  split
  · next h =>
    cases h.symm.trans hp
    rfl
  · next h => exact nomatch h.symm.trans hp

theorem State.takePacket_bad (hc : ¬crcGood bs len) (hn : s.host.cacrc < 3) : s.takePacket len =
    ({ s with host := s.host.past len (s.host.cacrc + 1) } : State).refusePacket (takenPacket bs len) .crcerr := by
  subst hb
  exact (if_pos hc).trans (if_neg (by omega))

theorem State.takePacket_restarts (hc : ¬crcGood bs len) (hn : 3 ≤ s.host.cacrc) : s.takePacket len =
    ({ s with host := s.host.restart } : State).refusePacket (takenPacket bs len) .crcerr := by
  subst hb
  exact (if_pos hc).trans (if_pos hn)

end

end Sys2Proof.Machine

section
open Sys2Proof Sys2Proof.Machine

/-- Settles O3: the ring is written byte by byte, and no byte wraps. -/
theorem apertureWriteLandsOrIsDiscarded : Obligations.ApertureWriteLandsOrIsDiscarded := by
  intro off data s hup hl hn hm
  have hrun := apertureWrite_runs hup off data
  refine ⟨fun he hd ho => hrun.imp fun t ht => ?_, fun he hd ho => hrun.imp fun t ht => ?_, fun hc => hrun.imp fun t ht => ?_⟩
  · rw [HostPort.apertureWrite_lands he hd hn ho] at ht
    subst ht
    exact ⟨rfl, rfl, fun i hi => apertureRing_same hm hl hi, fun a ha => apertureRing_other hl ha⟩
  · rw [ht, HostPort.apertureWrite_overruns he hd hn ho]
  · rw [ht, HostPort.apertureWrite_closed hc]

/-- Settles O4: the CRC decides first, then the first check that fails; a refusal is answered where the packet is held. -/
theorem packetTakeHoldsOrAnswers : Obligations.PacketTakeHoldsOrAnswers := by
  intro s len ht hh hl hw hu bs
  obtain ⟨hop, hfl, hjob, hpm, htag⟩ := takenPacket_fields bs len
  have hd : s.host.radrain = false := by
    simp only [State.catake, Bool.and_eq_true, Bool.not_eq_true'] at ht
    exact ht.1.1.2
  have hrun := packetTake_takes ht hh hl hw
  refine ⟨takenPacket bs len, rfl, hop, hfl, hjob, hpm, htag, rfl, fun hc => ⟨fun hp => hrun.imp fun t ht => ?_,
    fun st hp => hrun.imp fun t ht => ?_⟩, fun hc => hrun.imp fun t ht => ?_⟩
  · have he := s.host.past_eq len 0
    rw [s.takePacket_holds rfl hc hp, he] at ht
    subst ht
    exact ⟨rfl, rfl, rfl, rfl, rfl⟩
  · obtain ⟨hf, ha, hhost⟩ := s.refusePacket_past (p := takenPacket bs len) (st := st) hd hu len 0
    rw [← s.takePacket_refuses rfl hc hp, ← ht] at hf ha hhost
    rw [s.host.past_eq] at hhost
    exact ⟨hf, ha, congrArg HostPort.cacrc hhost, congrArg HostPort.caexp hhost⟩
  · rcases Nat.lt_or_ge s.host.cacrc 3 with hn | hn
    · obtain ⟨hf, ha, hhost⟩ := s.refusePacket_past (p := takenPacket bs len) (st := .crcerr) hd hu len (s.host.cacrc + 1)
      rw [← s.takePacket_bad rfl hc hn, ← ht] at hf ha hhost
      rw [s.host.past_eq] at hhost
      exact ⟨hf, ha, fun _ => ⟨congrArg HostPort.cacrc hhost, congrArg HostPort.caexp hhost⟩, fun h => absurd hn (by omega)⟩
    · obtain ⟨hf, ha, hhost⟩ := s.refusePacket_refused (h := s.host.restart) (p := takenPacket bs len) (st := .crcerr) hd rfl rfl hu
      rw [← s.takePacket_restarts rfl hc hn, ← ht] at hf ha hhost
      exact ⟨hf, ha, fun h => absurd hn (by omega), fun _ => ⟨congrArg HostPort.cacrc hhost, congrArg HostPort.caexp hhost,
        congrArg HostPort.catail hhost, congrArg HostPort.aperture hhost, congrArg HostPort.carestart hhost⟩⟩

end

/-! ## Replies in the ring (R288 to R290, R361) -/

namespace Sys2Proof.Machine

/-! ### What stands in a reply's entries (R289) -/

/-- A reply is a header of 32 bytes, then its payload. -/
theorem Reply.bytes_split (r : Reply) (q : W32) (a : Nat) : ∃ hdr : List Byte, hdr.length = 32 ∧ r.bytes q a = hdr ++ r.payload :=
  ⟨_, by simp, rfl⟩

theorem Reply.bytes_length (r : Reply) (q : W32) (a : Nat) : (r.bytes q a).length = 32 + r.payload.length := by
  obtain ⟨hdr, hl, he⟩ := r.bytes_split q a
  rw [he, List.length_append, hl]

theorem Reply.bytes_payload (r : Reply) (q : W32) (a i : Nat) (h : i < r.payload.length) (hi : 32 + i < (r.bytes q a).length) :
    (r.bytes q a)[32 + i] = r.payload[i] := by
  obtain ⟨hdr, hl, he⟩ := r.bytes_split q a
  simp [he, List.getElem_append_right, hl]

/-- A byte as a field of one byte. -/
theorem leBytes_byte (b : Byte) : leBytes 1 b.toNat = [b] := by simp [leBytes]

/-- The fields of a reply header, whatever follows the payload (R289). -/
theorem Reply.bytes_fields (r : Reply) (q : W32) (a : Nat) (pad : List Byte) (hop : r.opcode < 65536) (hst : r.status < 65536)
    (hjob : r.job < 65536) (hpl : r.payload.length ≤ 16352) :
    let bs := r.bytes q a ++ pad
    fieldAt bs 0 4 = q.toNat ∧ fieldAt bs 4 4 = r.tag.toNat ∧ fieldAt bs 8 2 = r.opcode ∧ fieldAt bs 10 2 = r.status ∧
      fieldAt bs 12 2 = r.entries ∧ fieldAt bs 14 2 = r.report.toNat ∧ fieldAt bs 16 2 = r.job ∧ fieldAt bs 18 1 = r.pmask.toNat ∧
      fieldAt bs 20 4 = r.payload.length := by
  have he : r.entries < 65536 := by unfold Reply.entries; omega
  have hr : r.report.toNat < 65536 := by cases r.report <;> decide
  have hb : ([r.pmask, 0] : List Byte) = leBytes 1 r.pmask.toNat ++ leBytes 1 0 := by rw [leBytes_byte]; rfl
  simp only [Reply.bytes, hb, List.append_assoc]
  simp [fieldAt_leBytes_skip, fieldAt_leBytes_append, Nat.mod_eq_of_lt, *]
  omega

/-! ### A reply that is written -/

theorem State.msixSend_eq (s : State) (v : Fin 3) : s.msixSend v = { s with
    host := { s.host with msixPend := (s.msixSend v).host.msixPend }, out := { s.out with msix := (s.msixSend v).out.msix } } := by
  unfold State.msixSend
  dsimp only
  split <;> rfl

/-- The bytes of a reply, padded to whole entries (R289). -/
def State.entryBytes (s : State) (r : Reply) : List Byte :=
  r.bytes s.host.rseqnext s.host.catail ++
    (List.range (64 * r.entries - (r.bytes s.host.rseqnext s.host.catail).length)).map fun i =>
      BitVec.ofNat 8 (Config.reading (s.fresh + i)).toNat

theorem State.entryBytes_length (s : State) (r : Reply) : (s.entryBytes r).length = 64 * r.entries := by
  simp only [State.entryBytes, List.length_append, List.length_map, List.length_range, Reply.bytes_length, Reply.entries]
  omega

theorem State.entryBytes_split (s : State) (r : Reply) : ∃ pad, s.entryBytes r = r.bytes s.host.rseqnext s.host.catail ++ pad := ⟨_, rfl⟩

theorem State.entryBytes_payload (s : State) (r : Reply) (i : Nat) (h : i < r.payload.length) (hi : 32 + i < (s.entryBytes r).length) :
    (s.entryBytes r)[32 + i] = r.payload[i] := by
  have hb := r.bytes_length s.host.rseqnext s.host.catail
  have h1 : (s.entryBytes r)[32 + i] = (r.bytes s.host.rseqnext s.host.catail)[32 + i]'(by omega) := List.getElem_append_left _
  rw [h1, Reply.bytes_payload]

/-- What a written reply changes. -/
structure State.Wrote (s : State) (r : Reply) (t : State) : Prop where
  fixed : t = { s with host := t.host, out := t.out, fresh := t.fresh }
  out : t.out = { s.out with
    hostMem := hostWrite s.out.hostMem s.host.rabase.toNat (64 * s.host.rasize) (64 * s.host.rahead) (s.entryBytes r), msix := t.out.msix }
  host : t.host = { s.host with
    rahead := (s.host.rahead + r.entries) % s.host.rasize, rseqnext := nextSeq s.host.rseqnext, msixPend := t.host.msixPend }

theorem State.writeReply_wrote (s : State) (r : Reply) : s.Wrote r (s.writeReply r) := by
  have hsend (w : State) (v : Fin 3) (h : s.Wrote r w) : s.Wrote r (w.msixSend v) := by
    rw [w.msixSend_eq v]
    obtain ⟨hf, ho, hh⟩ := h
    exact ⟨by rw [hf], by rw [ho], by rw [hh]⟩
  unfold State.writeReply
  extract_lets h body pad bytes o w
  have hw : s.Wrote r w := ⟨rfl, rfl, rfl⟩
  split
  · split
    · exact hsend w 1 hw
    · exact hw
  · split
    · exact hsend w 0 hw
    · exact hw

/-- A reply written is a command held no more, and the barriers behind it may complete (R287, R296). -/
def HostPort.drop (h : HostPort) (id : Nat) : HostPort :=
  ({ h with held := h.held.filter (·.id != id), closeReplies := h.closeReplies.filter (·.1 != id) } : HostPort).barriers.endDrain

/-- The ring's registers stay where they are. -/
def HostPort.ring (h : HostPort) : Nat × W32 × W64 × Nat := (h.rahead, h.rseqnext, h.rabase, h.ralog)

theorem HostPort.endDrain_ring (h : HostPort) : h.endDrain.ring = h.ring := by
  unfold HostPort.endDrain
  split <;> rfl

theorem HostPort.drop_ring (h : HostPort) (id : Nat) : (h.drop id).ring = h.ring := by
  rw [HostPort.drop, HostPort.endDrain_ring, HostPort.barriers, HostPort.barriersFuel_eq]
  rfl

theorem HostPort.drop_held (h : HostPort) (id : Nat) : ∀ o ∈ (h.drop id).held, o.id ≠ id := by
  rintro o ho rfl
  rw [HostPort.drop, HostPort.endDrain_held, HostPort.barriers, 
    HostPort.barriersFuel_other _ o.id _ (fun o' h' e => by simp [e] at h') o rfl] at ho
  simp at ho

/-- The state whose tail has settled. -/
def State.settled (s : State) : State := { s with host := { s.host with catail := s.host.settleTail.catail, lastLen := 0 } }

theorem State.settled_eq (s : State) : s.updHost HostPort.settleTail = s.settled :=
  congrArg (fun h => { s with host := h }) s.host.settleTail_eq

/-- `REPLY_WRITE` with room in the ring writes the first complete reply (R361). -/
theorem replyWrite_writes {s : State} {c : Held} {r : Reply} (he : s.host.raen = true) (hn : s.host.nextReply = some c)
    (hc : c.reply = some r) (hroom : (s.host.rahead + s.host.rasize - s.host.ratail) % s.host.rasize + r.entries ≤ s.host.rasize - 1) :
    Runs (.replyWrite false) s fun t => ∃ w, s.settled.Wrote r w ∧ t = { w with host := w.host.drop c.id } := by
  refine ⟨_, rfl, _, State.writeReply_wrote _ r, ?_⟩
  have he' : s.settled.host.raen = true := he
  have hn' : s.settled.host.nextReply = some c := hn
  have hroom' : s.settled.host.room r.entries = true := decide_eq_true hroom
  unfold State.replyWrite
  simp only [s.settled_eq, he', hn', hc, hroom', Bool.not_true, Bool.false_eq_true, if_false, if_true]
  rfl

/-- A reply that fits the ring stands in its entries, and no other byte of host memory changes (R288). -/
theorem State.Wrote.bytes {s t : State} {r : Reply} (h : s.Wrote r t) (hm : Memory.wf s.out.hostMem = true) (hlog : s.host.ralog ≤ 16)
    (hr : r.entries ≤ s.host.rasize) : (∀ (j : Nat) (hj : j < (s.entryBytes r).length), memRead t.out.hostMem
      ((s.host.rabase.toNat + (64 * s.host.rahead + j) % (64 * s.host.rasize)) % 2 ^ 64) = (s.entryBytes r)[j]) ∧
    ∀ a, (∀ i < 64 * r.entries, a ≠ (s.host.rabase.toNat + (64 * s.host.rahead + i) % (64 * s.host.rasize)) % 2 ^ 64) →
      memRead t.out.hostMem a = memRead s.out.hostMem a := by
  have hmem : t.out.hostMem = hostWrite s.out.hostMem s.host.rabase.toNat (64 * s.host.rasize) (64 * s.host.rahead) (s.entryBytes r) := by
    rw [h.out]
  have hsize : 64 * s.host.rasize ≤ 2 ^ 64 := by
    have : s.host.rasize ≤ 2 ^ 16 := Nat.pow_le_pow_right (by decide) hlog
    omega
  have hl := s.entryBytes_length r
  rw [hmem]
  refine ⟨fun j hj => hostWrite_same _ _ hsize _ _ _ j hm hj (by rw [hl]; omega), fun a ha => hostWrite_other _ _ _ _ _ a fun i hi => ?_⟩
  exact ha i (by rwa [hl] at hi)

theorem Outputs.eq_of_written {o o' : Outputs} {m : Mem} {x : List (W64 × W32)} (h : o' = { o with hostMem := m, msix := x }) :
    o' = { o with hostMem := o'.hostMem, msix := o'.msix } := by
  subst h
  rfl

/-- The bytes of a reply that stand in the ring give its fields. -/
theorem State.replyField_of_bytes {t : State} {e : Nat} {bs : List Byte}
    (h : ∀ (j : Nat) (hj : j < bs.length), t.replyByte (64 * e + j) = bs[j]) {off n : Nat} (hl : off + n ≤ bs.length) :
    t.replyField e off n = fieldAt bs off n := by
  refine congrArg leNat (List.ext_getElem (by simp) fun i hi _ => ?_)
  simp only [List.length_map, List.length_range] at hi
  rw [List.getElem_map, List.getElem_range, h (off + i) (by omega)]
  simp [slice, fixLen, show i < bs.length - off by omega]

end Sys2Proof.Machine

section
open Sys2Proof Sys2Proof.Machine

/-- Settles O5: the entries hold the reply's bytes, and what follows the write leaves the ring as it is. -/
theorem replyWriteFillsEntries : Obligations.ReplyWriteFillsEntries := by
  intro s c r he hn hc hroom hlog hrep hop hst hjob hpl hm
  refine (replyWrite_writes he hn hc hroom).imp fun t ⟨w, hw, ht⟩ => ?_
  have hfit : r.entries ≤ s.host.rasize := by omega
  obtain ⟨hbytes, hrest⟩ := hw.bytes hm hlog hfit
  obtain ⟨pad, hpad⟩ := s.settled.entryBytes_split r
  obtain ⟨hf0, hf4, hf8, hf10, hf12, hf14, hf16, hf18, hf20⟩ := r.bytes_fields s.settled.host.rseqnext s.settled.host.catail pad hop hst hjob hpl
  rw [← hpad] at hf0 hf4 hf8 hf10 hf12 hf14 hf16 hf18 hf20
  obtain ⟨hwf, hwo, hwh⟩ := hw
  have hring : t.host.ring = ((s.host.rahead + r.entries) % s.host.rasize, nextSeq s.host.rseqnext, s.host.rabase, s.host.ralog) := by
    rw [ht]
    refine (w.host.drop_ring c.id).trans ?_
    rw [hwh]
    rfl
  simp only [HostPort.ring, Prod.mk.injEq] at hring
  obtain ⟨hhead, hseq, hbase, hlog'⟩ := hring
  have hl := s.settled.entryBytes_length r
  have hn : 32 + r.payload.length ≤ (s.settled.entryBytes r).length := by rw [hl, Reply.entries]; omega
  have hmem : t.out.hostMem = w.out.hostMem := by rw [ht]
  have hbyte (j : Nat) (hj : j < (s.settled.entryBytes r).length) : t.replyByte (64 * s.host.rahead + j) = (s.settled.entryBytes r)[j] := by
    rw [State.replyByte, HostPort.rasize, hbase, hlog', hmem]
    exact hbytes j hj
  have hfield {off n : Nat} (ho : off + n ≤ 32) : t.replyField s.host.rahead off n = fieldAt (s.settled.entryBytes r) off n :=
    State.replyField_of_bytes hbyte (off := off) (n := n) (by omega)
  refine ⟨?_, ?_, hhead, hseq, by rw [ht]; exact w.host.drop_held c.id,
    (hfield (by decide)).trans hf0, (hfield (by decide)).trans hf4, (hfield (by decide)).trans hf8, (hfield (by decide)).trans hf10,
    (hfield (by decide)).trans hf12, (hfield (by decide)).trans (hf14.trans (congrArg Bool.toNat hrep)), (hfield (by decide)).trans hf16,
    (hfield (by decide)).trans hf18, (hfield (by decide)).trans hf20, fun i hi => ?_, fun a ha => by rw [hmem]; exact hrest a ha⟩
  · rw [ht]
    exact congrArg (fun u : State => { u with host := w.host.drop c.id }) hwf
  · rw [show t.out = w.out by rw [ht]]
    exact Outputs.eq_of_written hwo
  · rw [hbyte (32 + i) (by omega), State.entryBytes_payload s.settled r i hi]

end

/-! ## Device-scope queries (R296, R298, R303 to R306, R312, R323) -/

namespace Sys2Proof.Machine

/-! ### Fields behind others, and blocks of one size -/

theorem slice_skip {a : List Byte} {off : Nat} (h : a.length ≤ off) (b : List Byte) (n : Nat) :
    slice (a ++ b) off n = slice b (off - a.length) n := by
  simp [slice, List.drop_append, List.drop_eq_nil_of_le, h]

theorem fieldAt_skip {a : List Byte} {off : Nat} (h : a.length ≤ off) (b : List Byte) (n : Nat) :
    fieldAt (a ++ b) off n = fieldAt b (off - a.length) n := congrArg leNat (slice_skip h b n)

theorem slice_front {a : List Byte} {n : Nat} (h : a.length = n) (b : List Byte) : slice (a ++ b) 0 n = a :=
  slice_of_append (a := []) rfl rfl h

theorem drop_skip {a : List Byte} {off : Nat} (h : a.length ≤ off) (b : List Byte) : (a ++ b).drop off = b.drop (off - a.length) := by
  simp [List.drop_append, List.drop_eq_nil_of_le, h]

/-- Block `i` of blocks of `w` bytes each lies behind `w * i` bytes. -/
theorem flatMap_block {α : Type} (f : α → List Byte) {w : Nat} (hw : ∀ a, (f a).length = w) (l : List α) (i : Nat) (hi : i < l.length) :
    ∃ a b, l.flatMap f = a ++ (f l[i] ++ b) ∧ a.length = w * i := by
  refine ⟨(l.take i).flatMap f, (l.drop (i + 1)).flatMap f, ?_, ?_⟩
  · rw [← List.flatMap_cons, ← List.flatMap_append, List.getElem_cons_drop, List.take_append_drop]
  · simp only [List.length_flatMap, hw, List.map_const', List.sum_replicate, smul_eq_mul, List.length_take]
    rw [Nat.min_eq_left (by omega), Nat.mul_comm]

/-- A field of a plane's block, in a table of blocks of `w` bytes. -/
theorem planeBlock_skip (f : PlaneIx → List Byte) {w : Nat} (hw : ∀ a, (f a).length = w) (k : PlaneIx) :
    ∃ b, ∀ off n, slice (allPlanes.flatMap f) (w * k.val + off) n = slice (f k ++ b) off n := by
  obtain ⟨a, b, he, ha⟩ := flatMap_block f hw allPlanes k.val (by simp [allPlanes])
  refine ⟨b, fun off n => ?_⟩
  rw [he, slice_skip (by omega), ha, Nat.add_sub_cancel_left]
  simp [allPlanes]

/-! ### The tables -/

/-- A byte of a table of bytes that `n` entries give. -/
theorem fieldAt_byteTable (f : Nat → Nat) {n i : Nat} (hi : i < n) (rest : List Byte) :
    fieldAt ((List.range n).flatMap (fun i => leBytes 1 (f i)) ++ rest) i 1 = f i % 256 := by
  have h := fieldAt_table f 1 hi rest
  rwa [Nat.one_mul, Nat.pow_one] at h

/-- `DEV_INFO` (R296). -/
theorem devInfo_answers {p : Packet} {c : Held} {s : State} (h : s.AtHead 0x0101 p c) : Runs (.devInfo p) s fun t =>
    t = { s with host := t.host } ∧
      ∃ pl, t.Answered c .ok pl ∧ pl.length = 64 ∧ pl.take 12 = ordernum ∧ fieldAt pl 12 1 = 0x41 ∧ fieldAt pl 13 1 = s.bidx % 256 ∧
        fieldAt pl 14 1 = s.part.bsize % 256 ∧ fieldAt pl 15 1 = (if s.boot.recmode = true then 0 else s.inServiceMask % 256) ∧
        fieldAt pl 16 1 = s.retiredMask % 256 ∧ slice pl 17 3 = zeros 3 ∧ fieldAt pl 20 4 = s.boot.fwver.toNat ∧
        fieldAt pl 24 2 = s.jobsOpen % 65536 ∧ fieldAt pl 26 2 = 1024 - s.groups.length ∧ pl.drop 28 = zeros 36 := by
  refine (h.runs_reply (st := .ok) (pl := ordernum ++ (leBytes 1 0x41 ++ (leBytes 1 s.bidx ++ (leBytes 1 s.part.bsize ++
    (leBytes 1 (if s.boot.recmode then 0 else s.inServiceMask) ++ (leBytes 1 s.retiredMask ++ (zeros 3 ++ (leBytes 4 s.boot.fwver.toNat ++
    (leBytes 2 s.jobsOpen ++ (leBytes 2 (1024 - s.groups.length) ++ zeros 36)))))))))) rfl ?_).imp fun t ⟨hf, ha⟩ => ?_
  · simp only [← List.append_assoc]
    rfl
  have hn : 1024 - s.groups.length < 65536 := by omega
  have ho : ordernum.length = 12 := rfl
  have hm : (if s.boot.recmode = true then 0 else s.inServiceMask) % 256 = if s.boot.recmode = true then 0 else s.inServiceMask % 256 := by
    split <;> rfl
  refine ⟨hf, _, ha, ?_⟩
  simp [fieldAt_skip, slice_skip, drop_skip, slice_front, fieldAt_leBytes_append, Nat.mod_eq_of_lt, ho, hn, hm, s.boot.fwver.isLt]

/-- `BOARD_QUERY` (R304). -/
theorem boardQuery_answers {p : Packet} {c : Held} {s : State} (h : s.AtHead 0x080A p c) : Runs (.boardQuery p) s fun t =>
    t = { s with host := t.host } ∧
      ∃ pl, t.Answered c .ok pl ∧ pl.length = 132 ∧ fieldAt pl 0 1 = s.bidx % 256 ∧ fieldAt pl 1 1 = s.part.bsize % 256 ∧
        slice pl 2 2 = zeros 2 ∧ ∀ l < 128, fieldAt pl (4 + l) 1 = s.part.far.getD l 0xFF % 256 := by
  refine (h.runs_reply (st := .ok) (pl := leBytes 1 s.bidx ++ (leBytes 1 s.part.bsize ++ (zeros 2 ++
    (List.range 128).flatMap fun l => leBytes 1 (s.part.far.getD l 0xFF)))) rfl ?_).imp fun t ⟨hf, ha⟩ => ⟨hf, _, ha, ?_⟩
  · simp only [← List.append_assoc]
    rfl
  have htab (l : Nat) (hl : l < 128) := fieldAt_byteTable (fun l => s.part.far.getD l 0xFF) hl []
  simp only [List.append_nil] at htab
  refine ⟨by simp, ?_, ?_, ?_, fun l hl => ?_⟩
  · simp [fieldAt_leBytes_append]
  · simp [fieldAt_skip, fieldAt_leBytes_append]
  · simp [slice_skip, slice_front]
  · rw [fieldAt_skip (by simp; omega), fieldAt_skip (by simp; omega), fieldAt_skip (by simp), ← htab l hl]
    congr 1
    simp

/-- `FW_QUERY` (R306). -/
theorem fwQuery_answers {p : Packet} {c : Held} {s : State} (h : s.AtHead 0x0A01 p c) : Runs (.fwQuery p) s fun t =>
    t = { s with host := t.host } ∧
      ∃ pl, t.Answered c .ok pl ∧ pl.length = 76 ∧ fieldAt pl 0 4 = s.boot.fwver.toNat ∧
        fieldAt pl 4 4 = s.boot.fwlen % 2 ^ 32 ∧ slice pl 8 64 = fixLen 64 s.boot.mfw ∧ fieldAt pl 72 1 = s.boot.recmode.toNat ∧
        pl.drop 73 = zeros 3 := by
  refine (h.runs_reply (st := .ok) (pl := leBytes 4 s.boot.fwver.toNat ++ (leBytes 4 s.boot.fwlen ++ (fixLen 64 s.boot.mfw ++
    (leBytes 1 s.boot.recmode.toNat ++ zeros 3)))) rfl ?_).imp fun t ⟨hf, ha⟩ => ⟨hf, _, ha, ?_⟩
  · simp only [← List.append_assoc]
    rfl
  have hr : s.boot.recmode.toNat < 256 := by cases s.boot.recmode <;> decide
  simp [fieldAt_skip, slice_skip, drop_skip, slice_front, fieldAt_leBytes_append, Nat.mod_eq_of_lt, hr, s.boot.fwver.isLt]

/-- `JOB_LIST` (R298). -/
theorem jobList_answers {p : Packet} {c : Held} {s : State} (h : s.AtHead 0x020D p c) : Runs (.jobList p) s fun t =>
    t = { s with host := t.host } ∧
      ∃ js : List Job, js.Perm s.jobs ∧ js.Pairwise (fun a b => a.id ≤ b.id) ∧ t.Answered c .ok (leBytes 2 js.length ++ zeros 2 ++
        js.flatMap fun j => leBytes 2 j.id ++ leBytes 1 j.st.code ++ leBytes 1 j.hdr.jclass) := by
  refine (h.runs_reply rfl rfl).imp fun t ⟨hf, ha⟩ => ⟨hf, s.jobs.mergeSort fun a b => a.id ≤ b.id, List.mergeSort_perm .., ?_, ha⟩
  simpa using List.pairwise_mergeSort (le := fun a b : Job => a.id ≤ b.id) (fun a b c => by simp; omega) (fun a b => by simp; omega) s.jobs

/-! ### `OBS_READ` (R305) -/

/-- A plane's block of the table: its mask with the combiner's bit, then the errors of its twelve blocks. -/
def State.obsBlock (s : State) (k : PlaneIx) : List Byte :=
  leBytes 2 ((s.plane k).obsMask ||| if s.comb.obs.isEmpty then 0 else 4096) ++ zeros 2 ++
    (List.range 12).flatMap fun b => leBytes 1 (s.obsErr k (b + 1))

/-- The whole table. -/
def State.obsTable (s : State) : List Byte :=
  leBytes 1 s.host.obsretire ++ (leBytes 1 s.host.obsclear ++ (zeros 2 ++ (leBytes 4 s.host.testint ++ (leBytes 4 s.host.testgrace ++
    allPlanes.flatMap s.obsBlock))))

theorem State.obsTable_split (s : State) :
    ∃ head : List Byte, head.length = 12 ∧ s.obsTable = head ++ allPlanes.flatMap s.obsBlock :=
  ⟨leBytes 1 s.host.obsretire ++ leBytes 1 s.host.obsclear ++ zeros 2 ++ leBytes 4 s.host.testint ++ leBytes 4 s.host.testgrace, by simp,
    by simp only [State.obsTable, List.append_assoc]⟩

theorem State.obsBlock_length (s : State) (k : PlaneIx) : (s.obsBlock k).length = 16 := by simp [State.obsBlock]

/-- The three fields of a plane's block, at any place `base` where the block stands. -/
theorem State.obsBlock_fields {s : State} {k : PlaneIx} {pl rest : List Byte} {base : Nat}
    (h : ∀ off n, slice pl (base + off) n = slice (s.obsBlock k ++ rest) off n) :
    fieldAt pl base 2 = ((s.plane k).obsMask ||| if s.comb.obs = [] then 0 else 4096) % 65536 ∧ slice pl (base + 2) 2 = zeros 2 ∧
      ∀ b < 12, fieldAt pl (base + (4 + b)) 1 = s.obsErr k (b + 1) % 256 := by
  have hfield off n : fieldAt pl (base + off) n = fieldAt (s.obsBlock k ++ rest) off n := congrArg leNat (h off n)
  simp only [State.obsBlock, List.append_assoc, List.isEmpty_iff] at h hfield
  refine ⟨?_, ?_, fun b hb => ?_⟩
  · rw [← Nat.add_zero base, hfield, fieldAt_leBytes_append]
    rfl
  · rw [h, slice_skip (by simp)]
    exact slice_front (by simp) _
  · rw [hfield, fieldAt_skip (by simp; omega), fieldAt_skip (by simp; omega), ← fieldAt_byteTable (fun b => s.obsErr k (b + 1)) hb rest]
    congr 1
    simp
    omega

theorem obsRead_answers {p : Packet} {c : Held} {s : State} (h : s.AtHead 0x0903 p c) : Runs (.obsRead p) s fun t =>
    t = { s with host := t.host } ∧
      ∃ pl, t.Answered c .ok pl ∧ pl.length = 140 ∧ fieldAt pl 0 1 = s.host.obsretire % 256 ∧
        fieldAt pl 1 1 = s.host.obsclear % 256 ∧ slice pl 2 2 = zeros 2 ∧ fieldAt pl 4 4 = s.host.testint % 2 ^ 32 ∧
        fieldAt pl 8 4 = s.host.testgrace % 2 ^ 32 ∧ ∀ k : PlaneIx,
          fieldAt pl (12 + 16 * k.val) 2 = ((s.plane k).obsMask ||| if s.comb.obs = [] then 0 else 4096) % 65536 ∧
          slice pl (14 + 16 * k.val) 2 = zeros 2 ∧ ∀ b < 12, fieldAt pl (16 + 16 * k.val + b) 1 = s.obsErr k (b + 1) % 256 := by
  refine (h.runs_reply (st := .ok) (pl := s.obsTable) rfl ?_).imp fun t ⟨hf, ha⟩ => ⟨hf, _, ha, ?_⟩
  · rw [s.settled_eq]
    simp only [State.obsTable, ← List.append_assoc]
    rfl
  refine ⟨by simp [State.obsTable, List.length_flatMap, s.obsBlock_length, allPlanes], ?_, ?_, ?_, ?_, ?_, fun k => ?_⟩
  · simp [State.obsTable, fieldAt_leBytes_append]
  · simp [State.obsTable, fieldAt_skip, fieldAt_leBytes_append]
  · simp [State.obsTable, slice_skip, slice_front]
  · simp [State.obsTable, fieldAt_skip, fieldAt_leBytes_append]
  · simp [State.obsTable, fieldAt_skip, fieldAt_leBytes_append]
  · obtain ⟨rest, hrest⟩ := planeBlock_skip s.obsBlock s.obsBlock_length k
    obtain ⟨head, hl, hs⟩ := s.obsTable_split
    obtain ⟨hm, hz, he⟩ := State.obsBlock_fields (s := s) (k := k) (pl := s.obsTable) (rest := rest) (base := 12 + 16 * k.val) fun off n => by
      rw [← hrest, hs, slice_skip (by omega), hl]
      congr 1
      omega
    refine ⟨hm, ?_, fun b hb => ?_⟩
    · rw [← hz]
      congr 1
      omega
    · rw [← he b hb]
      congr 1
      omega

/-! ### `ATTEST` (R312, R323) -/

/-- The report's fields that a request sets. -/
theorem State.attestBody_fields (s : State) (nonce : List Byte) (n : Nat) : fieldAt (s.attestBody nonce n) 3 1 = s.boot.recmode.toNat ∧
    slice (s.attestBody nonce n) 24 32 = fixLen 32 nonce ∧ fieldAt (s.attestBody nonce n) 320 8 = n % 2 ^ 64 := by
  have hr : s.boot.recmode.toNat < 256 := by cases s.boot.recmode <;> decide
  unfold State.attestBody
  simp only [List.append_assoc]
  refine ⟨?_, ?_, ?_⟩
  · simp only [fieldAt_skip, fieldAt_leBytes_append, leBytes_length, List.length_singleton, Nat.reduceLeDiff, Nat.reduceSub,
      Nat.reducePow, Nat.mod_eq_of_lt hr]
  · simp only [slice_skip, slice_front, leBytes_length, List.length_singleton, fixLen_length, Nat.reduceLeDiff, Nat.reduceSub]
  · simp only [fieldAt_skip, fieldAt_leBytes_append, leBytes_length, List.length_singleton, fixLen_length, Nat.reduceLeDiff,
      Nat.reduceSub, Nat.reducePow]

theorem HostPort.endDrain_acount (h : HostPort) : h.endDrain.acount = h.acount := by
  unfold HostPort.endDrain
  split <;> rfl

theorem State.reply_acount (s : State) (c : Held) (st : Status) (pl : List Byte) : (s.reply c st pl).host.acount = s.host.acount := by
  refine (HostPort.endDrain_acount _).trans ?_
  rw [HostPort.barriers, HostPort.barriersFuel_eq, HostPort.complete_eq]

theorem attest_answers {p : Packet} {c : Held} {s : State} (h : s.AtHead 0x0A04 p c) : Runs (.attest p) s fun t =>
    t = { s with host := t.host } ∧ t.host.acount = s.host.acount + 1 ∧
      let body := s.attestBody p.params (s.host.acount + 1)
      t.Answered c .ok (body ++ fixLen 4627 (Config.identitySign (sha3_512 body))) ∧ fieldAt body 3 1 = s.boot.recmode.toNat ∧
        slice body 24 32 = fixLen 32 p.params ∧ fieldAt body 320 8 = (s.host.acount + 1) % 2 ^ 64 := by
  obtain ⟨hm, hs, hn⟩ := s.attestBody_fields p.params (s.host.acount + 1)
  have hpkt : c.pkt.params = p.params := by rw [h.2.1]
  have hx := h.exec_eq (i := .attest p) rfl
  rw [s.settled_eq] at hx
  refine ⟨_, hx, rfl, State.reply_acount .., ?_, hm, hs, hn⟩
  rw [← hpkt]
  refine State.reply_answered (s := s.settled.updHost fun h => { h with acount := s.host.acount + 1 }) ?_ ?_ ..
  · exact h.mem
  · exact h.2.2.2

end Sys2Proof.Machine

section
open Sys2Proof Sys2Proof.Machine

/-- Settles O9: each table is the concatenation of its fields, and a field lies behind those before it. -/
theorem deviceQueriesAnswer : Obligations.DeviceQueriesAnswer := by
  intro p c s
  exact ⟨devInfo_answers, boardQuery_answers, obsRead_answers, fwQuery_answers, jobList_answers, attest_answers⟩

end

/-! ## Digests of copies and of members (R265, R269) -/

namespace Sys2Proof.Machine

/-! ### The largest set of equal digests (R269) -/

/-- The members whose digest is `d`. -/
def sameDigest (ds : List (Nat × List Byte)) (d : List Byte) : List Nat := (ds.filter fun x => x.2 == d).map (·.1)

theorem mem_sameDigest {ds : List (Nat × List Byte)} {d : List Byte} {m : Nat} : m ∈ sameDigest ds d ↔ (m, d) ∈ ds := by
  simp [sameDigest]

/-- The longest list wins where every other list is shorter. -/
theorem foldl_longest {α : Type} {best : List α} : ∀ (ls : List (List α)) (init : List α), best ∈ init :: ls →
    (∀ l ∈ init :: ls, l = best ∨ l.length < best.length) → ls.foldl (fun b l => if b.length < l.length then l else b) init = best
  | [], init, hm, _ => (List.mem_singleton.1 hm).symm
  | l :: ls, init, hm, hl => by
    rw [List.foldl_cons]
    have hi := hl init List.mem_cons_self
    have hh := hl l (List.mem_cons_of_mem _ List.mem_cons_self)
    refine foldl_longest ls _ ?_ fun x hx => ?_
    · split
      · next h =>
        obtain rfl | hm := List.mem_cons.1 hm
        · obtain rfl | hh := hh
          · exact List.mem_cons_self
          · omega
        · exact hm
      · next h =>
        obtain rfl | hm := List.mem_cons.1 hm
        · exact List.mem_cons_self
        · obtain rfl | hm := List.mem_cons.1 hm
          · obtain rfl | hi := hi
            · exact List.mem_cons_self
            · exact absurd hi h
          · exact List.mem_cons_of_mem _ hm
    · obtain rfl | hx := List.mem_cons.1 hx
      · split
        · exact hh
        · exact hi
      · exact hl x (List.mem_cons_of_mem _ (List.mem_cons_of_mem _ hx))

/-- Two different digests have no member in common, where each member sent one. -/
theorem sameDigest_add_le {ds : List (Nat × List Byte)} {d e : List Byte} (h : d ≠ e) :
    (sameDigest ds d).length + (sameDigest ds e).length ≤ ds.length := by
  induction ds with
  | nil => exact Nat.le_refl 0
  | cons x xs ih =>
    simp only [sameDigest, List.length_map, List.filter_cons, beq_iff_eq, List.length_cons] at ih ⊢
    by_cases hd : x.2 = d
    · rw [if_pos hd, if_neg fun he => h (hd.symm.trans he), List.length_cons]
      omega
    · rw [if_neg hd]
      split
      · rw [List.length_cons]
        omega
      · omega

/-- A digest that more than half of those who sent one sent is the largest set's. -/
theorem largestSet_majority {ds : List (Nat × List Byte)} {d : List Byte} (h : ds.length < 2 * (sameDigest ds d).length) :
    largestSet ds = sameDigest ds d := by
  have hpos : 0 < (sameDigest ds d).length := by omega
  obtain ⟨m, hm⟩ := List.exists_mem_of_length_pos hpos
  refine foldl_longest _ [] ?_ fun l hl => ?_
  · exact List.mem_cons_of_mem _ (List.mem_map.2 ⟨(m, d), mem_sameDigest.1 hm, rfl⟩)
  · obtain rfl | hl := List.mem_cons.1 hl
    · exact .inr hpos
    · obtain ⟨x, -, rfl⟩ := List.mem_map.1 hl
      by_cases he : x.2 = d
      · exact .inl (by rw [he]; rfl)
      · exact .inr (by have : _ ≤ ds.length := sameDigest_add_le he; show (sameDigest ds x.2).length < _; omega)

/-- Where every digest is different, no set holds two members. -/
theorem largestSet_length_le {ds : List (Nat × List Byte)} (h : (ds.map (·.2)).Nodup) : (largestSet ds).length ≤ 1 := by
  have hone (d : List Byte) : (sameDigest ds d).length ≤ 1 := by
    have hc := List.nodup_iff_count_le_one.1 h d
    rwa [List.count_eq_countP, List.countP_map, List.countP_eq_length_filter, ← List.length_map (f := (·.1))] at hc
  have hfold : ∀ (ls : List (List Nat)) (init : List Nat), init.length ≤ 1 → (∀ l ∈ ls, l.length ≤ 1) →
      (ls.foldl (fun b l => if b.length < l.length then l else b) init).length ≤ 1 := by
    intro ls
    induction ls with
    | nil => exact fun _ hi _ => hi
    | cons l ls ih =>
      intro init hi hl
      refine ih _ ?_ fun x hx => hl x (List.mem_cons_of_mem _ hx)
      dsimp only
      split
      · exact hl l List.mem_cons_self
      · exact hi
  refine hfold _ [] (Nat.zero_le 1) fun l hl => ?_
  obtain ⟨x, -, rfl⟩ := List.mem_map.1 hl
  exact hone x.2

/-! ### The judge's report (R269, R292) -/

/-- A report that is posted waits in the queue, whatever leaves it for want of room (R292). -/
theorem State.report_entry (s : State) (code st job : Nat) (pm : Byte) (pl : List Byte) :
    ∃ r ∈ (s.report code st job pm pl).host.reports, r.opcode = code ∧ r.job = job ∧ r.payload = pl := by
  unfold State.report
  dsimp only
  split
  · exact ⟨_, List.mem_append_right _ (List.mem_singleton_self _), rfl, rfl, rfl⟩
  · rw [State.setErrsum_reports]
    exact ⟨_, List.mem_append_right _ (List.mem_singleton_self _), rfl, rfl, rfl⟩

theorem lookup_eq_some_iff_mem {l : List (Nat × List Byte)} (h : (l.map (·.1)).Nodup) {m : Nat} {x : List Byte} :
    l.lookup m = some x ↔ (m, x) ∈ l := by
  induction l with
  | nil => simp
  | cons y ys ih =>
    obtain ⟨a, b⟩ := y
    obtain ⟨ha, hys⟩ := List.nodup_cons.1 h
    rw [List.lookup_cons, List.mem_cons, ← ih hys]
    by_cases hm : m = a
    · subst hm
      have hn : ys.lookup m ≠ some x := fun hx => ha (List.mem_map_of_mem (f := (·.1)) ((ih hys).1 hx))
      simp [hn, eq_comm]
    · simp [hm, beq_false_of_ne hm]

/-- The digests that the judge compares: what each member sent, less the step. -/
def PJob.digests (pj : PJob) : List (Nat × List Byte) := pj.memDigs.map fun x => (x.1, x.2.drop 8)

/-- A member agrees with `d` when the last digest it sent is `d`. -/
def PJob.agrees (pj : PJob) (d : List Byte) (m : Nat) : Bool := (pj.memDigs.lookup m).any fun x => x.drop 8 == d

theorem PJob.agrees_iff {pj : PJob} (h : (pj.memDigs.map (·.1)).Nodup) {d : List Byte} {m : Nat} :
    pj.agrees d m = true ↔ m ∈ sameDigest pj.digests d := by
  rw [mem_sameDigest, PJob.agrees, Option.any_eq_true, PJob.digests, List.mem_map]
  constructor
  · rintro ⟨x, hx, hd⟩
    exact ⟨(m, x), (lookup_eq_some_iff_mem h).1 hx, by rw [eq_of_beq hd]⟩
  · rintro ⟨⟨a, x⟩, hx, he⟩
    simp only [Prod.mk.injEq] at he
    obtain ⟨rfl, rfl⟩ := he
    exact ⟨x, (lookup_eq_some_iff_mem h).2 hx, beq_self_eq_true _⟩

theorem PJob.sameDigest_nodup {pj : PJob} (h : (pj.memDigs.map (·.1)).Nodup) (d : List Byte) : (sameDigest pj.digests d).Nodup := by
  have hk : (pj.digests.map (·.1)).Nodup := by rw [PJob.digests, List.map_map]; exact h
  exact hk.sublist (List.filter_sublist.map _)

section
variable {pj : PJob} (hk : (pj.memDigs.map (·.1)).Nodup) (hm : ∀ x ∈ pj.memDigs, x.1 ∈ pj.group)
include hk hm

theorem PJob.digests_length_le : pj.digests.length ≤ pj.group.length := by
  rw [PJob.digests, List.length_map, ← List.length_map (f := (·.1))]
  refine (hk.subperm fun m hmem => ?_).length_le
  obtain ⟨x, hx, rfl⟩ := List.mem_map.1 hmem
  exact hm x hx

variable (hg : pj.group.Nodup)
include hg

/-- The members of the group that agree with `d` are those that sent it. -/
theorem PJob.agree_length (d : List Byte) : (pj.group.filter (pj.agrees d)).length = (sameDigest pj.digests d).length := by
  refine ((List.perm_ext_iff_of_nodup (hg.filter _) (PJob.sameDigest_nodup hk d)).2 fun m => ?_).length_eq
  rw [List.mem_filter, PJob.agrees_iff hk, and_iff_right_iff_imp, mem_sameDigest, PJob.digests, List.mem_map]
  rintro ⟨x, hx, he⟩
  rw [← show x.1 = m from congrArg Prod.fst he]
  exact hm x hx

/-- A majority's digest names the members that did not send it. -/
theorem PJob.judge_majority {d : List Byte} (h : pj.group.length < 2 * (pj.group.filter (pj.agrees d)).length) :
    pj.group.length < 2 * (largestSet pj.digests).length ∧
      (pj.group.filter fun m => !(largestSet pj.digests).contains m) = pj.group.filter (!pj.agrees d ·) := by
  rw [PJob.agree_length hk hm hg] at h
  have hle := PJob.digests_length_le hk hm
  rw [largestSet_majority (d := d) (by omega)]
  refine ⟨h, List.filter_congr fun m _ => ?_⟩
  rw [Bool.eq_iff_iff, Bool.not_eq_true', Bool.not_eq_true', ← Bool.not_eq_true, ← Bool.not_eq_true, PJob.agrees_iff hk, List.contains_iff_mem]

end

/-- The hypotheses under which the judge of a step looks at what its members sent (R269). -/
structure State.Judges (s : State) (k : PlaneIx) (id : Nat) (j : Job) (pj : PJob) : Prop where
  isOpen : s.openOn k id = some (j, pj)
  runs : jobEnded j pj = false
  sgd : pj.opt.kernel = 0
  digk : 0 < j.digk
  stepPos : 0 < pj.orec.step
  due : (pj.orec.step - 1) % j.digk = 0
  judge : j.judge = s.bidx
  plane : (planesOf j.hdr.planes.toNat).head? = some k
  sent : ∀ x ∈ pj.memDigs, x.1 ∈ pj.group ∧ fieldAt x.2 0 8 = pj.orec.step - 1

/-- The judge's report names the members outside the largest set where that set is more than half of the group (R269). -/
theorem memberDigestJudge_reports {s : State} {k : PlaneIx} {id : Nat} {j : Job} {pj : PJob} (h : s.Judges k id j pj) :
    Runs (.memberDigestJudge k id) s fun t => ∃ r ∈ t.host.reports, r.opcode = 0xF00A ∧ r.job = id ∧
      let maj : Bool := pj.group.length < 2 * (largestSet pj.digests).length
      let out := if maj then pj.group.filter fun m => !(largestSet pj.digests).contains m else []
      r.payload = leBytes 2 id ++ leBytes 1 maj.toNat ++ zeros 5 ++ leBytes 8 (pj.orec.step - 1) ++ leBytes 16 (listMask out) := by
  have hall : (pj.memDigs.filter fun d => fieldAt d.2 0 8 == pj.orec.step - 1 && pj.group.contains d.1) = pj.memDigs :=
    List.filter_eq_self.2 fun x hx => by simp [(h.sent x hx).1, (h.sent x hx).2]
  refine ⟨_, rfl, ?_⟩
  unfold State.judgeMembers
  simp only [h.isOpen, hall, PJob.digests]
  rw [if_neg (by
    simp only [h.runs, h.sgd, h.due, h.judge, h.plane, bne_self_eq_false, Bool.or_false, Bool.false_or, Bool.or_eq_true, decide_eq_true_eq]
    have := h.digk
    have := h.stepPos
    omega)]
  exact State.report_entry ..

/-! ### The vote on a share (R265) -/

/-- A share whose vote is over keeps the digests of later generations, and all of them while a copy is rebuilt (R265, R268). -/
def Share.endVote (h : Share) (gen : Nat) : Share :=
  { h with voteGen := none, digests := h.digests.filter fun d => gen < d.2.1 || !h.rebuilds.isEmpty }

/-- A vote is counted with the copies whose digest is missing, and is no longer due. -/
def State.voted (s : State) (k : PlaneIx) (id b gen miss : Nat) : State :=
  ((s.jobCtr k id .digCmp).jobCtr k id .digMiss miss).updShare k id b (Share.endVote · gen)

theorem State.voted_host (s : State) (k : PlaneIx) (id b gen miss : Nat) : (s.voted k id b gen miss).host = s.host := rfl

theorem State.keepDigest_host (s : State) (k : PlaneIx) (id b dev gen : Nat) (d : List Byte) :
    (s.keepDigest k id b dev gen d).host = s.host := rfl

/-- What a vote leaves of the share and of the job's counters. -/
structure State.Voted (t : State) (k : PlaneIx) (id b : Nat) (pj : PJob) (miss : Nat) (halted : Bool) (pj' : PJob) (h' : Share) : Prop where
  pjob : t.pjob k id = some pj'
  share : pj'.findShare b = some h'
  halts : h'.halted = halted
  ctrs : pj'.ctrs = ctrAdd (ctrAdd pj.ctrs .digCmp 1) .digMiss miss

theorem State.Voted.counts {t : State} {k : PlaneIx} {id b miss : Nat} {pj pj' : PJob} {halted : Bool} {h' : Share}
    (h : t.Voted k id b pj miss halted pj' h') : ctrGet pj'.ctrs .digCmp = satAdd 32 (ctrGet pj.ctrs .digCmp) 1 ∧
      ctrGet pj'.ctrs .digMiss = satAdd 32 (ctrGet pj.ctrs .digMiss) miss := by
  rw [h.ctrs, ctrGet_ctrAdd_other _ _ (by decide), ctrGet_ctrAdd_same, ctrGet_ctrAdd_same, ctrGet_ctrAdd_other _ _ (by decide)]
  exact ⟨rfl, rfl⟩

theorem State.jobCtr_pjob_add {s : State} {k : PlaneIx} {id : Nat} {pj : PJob} (h : s.pjob k id = some pj) (c : JCtr) (n : Nat) :
    (s.jobCtr k id c n).pjob k id = some { pj with ctrs := ctrAdd pj.ctrs c n } := by
  rw [State.jobCtr, pjob_updPJob_same s k id (fun pj => { pj with ctrs := ctrAdd pj.ctrs c n }) fun _ => rfl, h, Option.map_some]

theorem State.updShare_pjob {s : State} {k : PlaneIx} {id : Nat} {pj : PJob} (h : s.pjob k id = some pj) (b : Nat) (f : Share → Share) :
    (s.updShare k id b f).pjob k id = some (pj.updShare b f) := by
  rw [State.updShare, pjob_updPJob_same s k id (PJob.updShare · b f) fun _ => rfl, h, Option.map_some]

theorem State.voted_voted {s : State} {k : PlaneIx} {id b : Nat} {pj : PJob} {h : Share} (hp : s.pjob k id = some pj)
    (hh : pj.findShare b = some h) (gen miss : Nat) : ∃ pj' h', (s.voted k id b gen miss).Voted k id b pj miss h.halted pj' h' := by
  have hctr := State.jobCtr_pjob_add (State.jobCtr_pjob_add hp .digCmp 1) .digMiss miss
  refine ⟨_, h.endVote gen, State.updShare_pjob hctr b (Share.endVote · gen), ?_, rfl, rfl⟩
  rw [PJob.findShare_updShare _ b (Share.endVote · gen) fun _ => rfl]
  exact congrArg (Option.map (Share.endVote · gen)) hh

section
variable {s : State} {k : PlaneIx} {id b gen : Nat} {j : Job} {pj : PJob} {h : Share} {now : Bool} (hj : s.findJob id = some j)
  (hp : s.pjob k id = some pj) (hh : pj.findShare b = some h) (hrole : h.role = .home) (hhalt : h.halted = false)
  (hv : h.voteGen = some gen) {miss : List Nat}
  (hmiss : (s.goodCopies j b h).filter (fun d => !(h.digestsOf gen).any (·.1 == d)) = miss) (hdue : now = true ∨ miss = [])
include hj hp hh hrole hhalt hv hmiss hdue

/-- A vote that is due goes by the digests of the copies that are good. -/
theorem State.digestCheck_votes : s.digestCheck k id b now =
    match digestVote ((h.digestsOf gen).filter fun d => (s.goodCopies j b h).contains d.1) with
    | .fine => s.voted k id b gen miss.length
    | .expel d => (s.voted k id b gen miss.length).expel k j pj b d
    | .halt => (s.voted k id b gen miss.length).haltShare k j pj b
        (listMask (((h.digestsOf gen).filter fun d => (s.goodCopies j b h).contains d.1).map (·.1))) := by
  subst hmiss
  unfold State.digestCheck
  simp only [hj, hp, Option.bind_some, hh, hv]
  rw [if_neg (by rcases hdue with h | h <;> simp [hrole, hhalt, h])]
  rfl

end

/-! ### A share that is halted (R266) -/

theorem State.each_pjob {α : Type} {f : State → α → State} {k : PlaneIx} {id : Nat} (h : ∀ s a, (f s a).pjob k id = s.pjob k id) :
    ∀ (l : List α) (s : State), (s.each l f).pjob k id = s.pjob k id
  | [], _ => rfl
  | a :: l, s => (State.each_pjob h l (f s a)).trans (h s a)

theorem State.updPlane_pjob (s : State) (k : PlaneIx) {f : Plane → Plane} (hf : ∀ p, (f p).jobs = p.jobs) (q : PlaneIx) (id : Nat) :
    (s.updPlane k f).pjob q id = s.pjob q id := by
  unfold State.pjob Plane.findPJob
  rw [plane_updPlane]
  split
  · next e => rw [hf, e]
  · rfl

theorem State.frmDrop_pjob (s : State) (k q : PlaneIx) (id : Nat) : (s.frmDrop k).pjob q id = s.pjob q id :=
  State.updPlane_pjob s k (f := fun p => { p with ctrs := ctrAdd p.ctrs .frmDrop 1 }) (fun _ => rfl) q id

theorem State.answerGathers_pjob (s : State) (k : PlaneIx) (j : Job) (b : Nat) (st : Status) (q : PlaneIx) (id : Nat) :
    (s.answerGathers k j b st).pjob q id = s.pjob q id := by
  unfold State.answerGathers State.takeGathers
  dsimp only
  refine (State.each_pjob (fun s x => ?_) _ _).trans ?_
  · rw [State.frmDrop_pjob]
    exact (s.status_sends ..).calm.toQuiet.pjob q id
  · rw [State.updPlane_pjob, State.updPlane_pjob]
    · intro p
      rfl
    · intro p
      rfl

/-- A share that takes no part any more (R266). -/
def Share.halt (h : Share) : Share := { h with halted := true, lost := h.lost || false, rebuilds := [], voteGen := none }

/-- A share that a vote halts: its report is posted (R266, R294). -/
theorem State.Voted.haltShare {t : State} {k : PlaneIx} {b miss : Nat} {j : Job} {pj pj' : PJob} {halted : Bool} {h' : Share}
    (h : t.Voted k j.id b pj miss halted pj' h') (pj₀ : PJob) (devs : Nat) :
    (∃ pj'' h'', (t.haltShare k j pj₀ b devs).Voted k j.id b pj miss true pj'' h'') ∧
      ∃ r ∈ (t.haltShare k j pj₀ b devs).host.reports, r.opcode = 0xF009 ∧ r.job = j.id := by
  have hp : (t.haltShare k j pj₀ b devs).pjob k j.id = some (pj'.updShare b Share.halt) := by
    refine ((State.report_calm ..).toQuiet.pjob k j.id).trans ((State.answerGathers_pjob ..).trans ?_)
    exact State.updShare_pjob h.pjob b Share.halt
  have hs : (pj'.updShare b Share.halt).findShare b = some h'.halt := by
    rw [PJob.findShare_updShare pj' b Share.halt fun _ => rfl, h.share, Option.map_some]
  exact ⟨⟨_, _, hp, hs, rfl, h.ctrs⟩, State.report_mem ..⟩

/-! ### One operation timeout after the drain (R265) -/

theorem digestVote_single (x : Nat × List Byte) (p : Nat × List Byte → Bool) : digestVote ([x].filter p) = .fine := by
  rw [List.filter_singleton]
  cases p x <;> rfl

/-- A home copy whose digest alone has come: every other good copy is counted as missing. -/
theorem digestCompareTimeout_counts {k : PlaneIx} {id b : Nat} {j : Job} {pj : PJob} {h : Share} {d : List Byte} {s : State}
    (ho : s.openOn k id = some (j, pj)) (he : jobEnded j pj = false) (hh : pj.findShare b = some h) (hrole : h.role = .home)
    (hhalt : h.halted = false) (hreb : h.rebuilds = []) (hv : h.voteGen = some pj.orec.gen)
    (hd : h.digests = [(s.bidx, pj.orec.gen, d)]) : Runs (.digestCompareTimeout k id b) s fun t =>
      ∃ pj' h', t.Voted k id b pj ((s.goodCopies j b h).filter (· != s.bidx)).length false pj' h' := by
  have hp := State.openOn_pjob ho
  have hof : h.digestsOf pj.orec.gen = [(s.bidx, d)] := by simp [Share.digestsOf, hd]
  have hmiss : ((s.goodCopies j b h).filter fun x => !(h.digestsOf pj.orec.gen).any (·.1 == x)) =
      (s.goodCopies j b h).filter (· != s.bidx) := by
    refine List.filter_congr fun x _ => ?_
    rw [hof, List.any_cons, List.any_nil, Bool.or_false, BEq.comm]
    rfl
  have hcheck := State.digestCheck_votes (State.openOn_findJob ho) hp hh hrole hhalt hv hmiss (now := true) (.inl rfl)
  rw [hof, digestVote_single] at hcheck
  have hrun : s.digestTimeout k id b = s.voted k id b pj.orec.gen ((s.goodCopies j b h).filter (· != s.bidx)).length := by
    unfold State.digestTimeout
    simp only [ho, hp, Option.bind_some, hh]
    rw [if_neg (by simp [he, hrole]), hcheck, hreb]
    rfl
  obtain ⟨pj', h', hvote⟩ := State.voted_voted hp hh pj.orec.gen ((s.goodCopies j b h).filter (· != s.bidx)).length
  rw [hhalt] at hvote
  exact ⟨_, rfl, pj', h', hrun ▸ hvote⟩

/-! ### The digest of a mirror (R264, R265) -/

theorem State.handleBy_digest (s : State) {x : Parked} (h : x.frame.hdr.op = opDigest) : s.handleBy x = s.digestIn x.lane x.frame := by
  have ha : aboutCopy x.frame = false := by simp [aboutCopy, h, opDigest, opStatus]
  unfold State.handleBy
  rw [h, ha]
  rfl

/-- Which copies of a share are good rests on the device and on the share's own list. -/
theorem State.goodCopies_congr {s t : State} {h h' : Share} (hb : t.bidx = s.bidx) (he : h'.expelled = h.expelled) (j : Job) (b : Nat) :
    t.goodCopies j b h' = s.goodCopies j b h := by
  unfold State.goodCopies State.keepers State.homeDev
  rw [hb, he]

/-- The share with one more digest. -/
def Share.withDigest (h : Share) (dev gen : Nat) (d : List Byte) : Share :=
  { h with digests := (dev, gen, d) :: h.digests.filter fun x => !(x.1 == dev && x.2.1 == gen) }

/-- Without a rebuild no copy is compared with its source. -/
theorem State.rebuildVote_idle {s : State} {k : PlaneIx} {id b : Nat} {j : Job} {pj : PJob} {h : Share} (hj : s.findJob id = some j)
    (hp : s.pjob k id = some pj) (hh : pj.findShare b = some h) (hreb : h.rebuilds = []) : s.rebuildVote k id b = s := by
  unfold State.rebuildVote
  simp only [hj, hp, Option.bind_some, hh]
  split
  · rfl
  · rw [hreb]
    rfl

/-- The digests at hand once both copies have sent theirs, in the order they are kept. -/
theorem Share.withDigest_digestsOf {h : Share} {me dev gen : Nat} {d e : List Byte} (hne : dev ≠ me) (hd : h.digests = [(me, gen, d)]) :
    (h.withDigest dev gen e).digestsOf gen = [(dev, e), (me, d)] := by
  simp [Share.digestsOf, Share.withDigest, hd, Ne.symm hne]

/-- What the second of two digests does to its share: the vote on the two. -/
structure State.SecondDigest (s t : State) (k : PlaneIx) (b : Nat) (j : Job) (pj : PJob) (same : Prop) : Prop where
  agree : same → (∃ pj' h', t.Voted k j.id b pj 0 false pj' h') ∧ t.host.reports = s.host.reports
  differ : ¬same → (∃ pj' h', t.Voted k j.id b pj 0 true pj' h') ∧ ∃ r ∈ t.host.reports, r.opcode = 0xF009 ∧ r.job = j.id

/-- The second of two good copies sends its digest: the vote is at once. -/
theorem State.secondDigest_votes {s : State} {k : PlaneIx} {b gen me dev : Nat} {j : Job} {pj : PJob} {h : Share} {d e : List Byte}
    (hj : s.findJob j.id = some j) (hp : s.pjob k j.id = some pj) (hh : pj.findShare b = some h) (hrole : h.role = .home)
    (hhalt : h.halted = false) (hreb : h.rebuilds = []) (hv : h.voteGen = some gen) (hd : h.digests = [(me, gen, d)]) (hne : dev ≠ me)
    (hgood : ∀ x, x ∈ s.goodCopies j b h ↔ x = me ∨ x = dev) :
    s.SecondDigest (((s.keepDigest k j.id b dev gen e).rebuildVote k j.id b).digestCheck k j.id b false) k b j pj (e = d) := by
  have hp1 : (s.keepDigest k j.id b dev gen e).pjob k j.id = some (pj.updShare b (Share.withDigest · dev gen e)) :=
    State.updShare_pjob hp b (Share.withDigest · dev gen e)
  have hh1 : (pj.updShare b (Share.withDigest · dev gen e)).findShare b = some (h.withDigest dev gen e) := by
    rw [PJob.findShare_updShare pj b (Share.withDigest · dev gen e) fun _ => rfl, hh, Option.map_some]
  have hj1 : (s.keepDigest k j.id b dev gen e).findJob j.id = some j := hj
  rw [State.rebuildVote_idle hj1 hp1 hh1 hreb]
  have hg : (s.keepDigest k j.id b dev gen e).goodCopies j b (h.withDigest dev gen e) = s.goodCopies j b h :=
    State.goodCopies_congr rfl rfl j b
  have hof := Share.withDigest_digestsOf (e := e) hne hd
  have hmiss : ((s.keepDigest k j.id b dev gen e).goodCopies j b (h.withDigest dev gen e)).filter
      (fun x => !((h.withDigest dev gen e).digestsOf gen).any (·.1 == x)) = [] := by
    rw [hg, hof, List.filter_eq_nil_iff]
    intro x hx
    obtain rfl | rfl := (hgood x).1 hx <;> simp
  have hpart : ((h.withDigest dev gen e).digestsOf gen).filter
      (fun x => ((s.keepDigest k j.id b dev gen e).goodCopies j b (h.withDigest dev gen e)).contains x.1) = [(dev, e), (me, d)] := by
    rw [hg, hof, List.filter_eq_self]
    intro x hx
    rw [List.contains_iff_mem, hgood]
    obtain rfl | hx := List.mem_cons.1 hx
    · exact .inr rfl
    · rw [List.mem_singleton.1 hx]
      exact .inl rfl
  have hcheck := State.digestCheck_votes hj1 hp1 hh1 hrole hhalt hv hmiss (now := false) (.inr rfl)
  rw [hpart, List.length_nil] at hcheck
  obtain ⟨pj', h', hvote⟩ := State.voted_voted hp1 hh1 gen 0
  have hvote : ((s.keepDigest k j.id b dev gen e).voted k j.id b gen 0).Voted k j.id b pj 0 false pj' h' :=
    ⟨hvote.pjob, hvote.share, hvote.halts.trans hhalt, hvote.ctrs⟩
  refine ⟨fun hs => ?_, fun hs => ?_⟩
  · have hfine : digestVote [(dev, e), (me, d)] = .fine := if_pos (by simpa using hs)
    rw [hcheck, hfine]
    dsimp only
    exact ⟨⟨pj', h', hvote⟩, congrArg HostPort.reports ((State.voted_host ..).trans (State.keepDigest_host ..))⟩
  · have hstop : digestVote [(dev, e), (me, d)] = .halt := if_neg (by simpa using hs)
    rw [hcheck, hstop]
    dsimp only
    generalize (s.keepDigest k j.id b dev gen e).voted k j.id b gen 0 = v at hvote ⊢
    exact hvote.haltShare _ _

/-- A mirror's digest for the vote that is due passes the checks of its frame. -/
theorem State.shardDigest_takes {s : State} {lane : DevLane} {f : Frame} {j : Job} {pj : PJob} {h : Share} {b gen dev : Nat}
    (hb : fieldAt f.payload 4 2 = b) (hf : s.farDev lane = dev) (hg : fieldAt f.payload 0x10 4 = gen) (hh : pj.findShare b = some h)
    (hrole : h.role = .home) (hhalt : h.halted = false) (hv : h.voteGen = some gen) (hgood : dev ∈ s.goodCopies j b h) :
    s.shardDigest lane f j pj = ((s.keepDigest (planeOf lane) j.id b dev gen (slice f.payload 0x18 16)).rebuildVote
      (planeOf lane) j.id b).digestCheck (planeOf lane) j.id b false := by
  obtain ⟨hkeep, hexp⟩ := List.mem_filter.1 hgood
  unfold State.shardDigest
  simp only [hb, hf, hg, hh]
  refine if_neg ?_
  simp only [hrole, hhalt, hv, List.contains_iff_mem.2 hkeep, hexp, beq_self_eq_true, Bool.or_true, Bool.and_self, Bool.not_true,
    Bool.or_false, bne_self_eq_false, Bool.false_eq_true, not_false_eq_true]

/-- A shard digest of an open job on a peer lane goes to its share (R264). -/
theorem State.digestIn_shard {s : State} {lane : DevLane} {f : Frame} {j : Job} {pj : PJob} (hl : s.isPeer lane = true)
    (ho : s.openOn (planeOf lane) f.hdr.job = some (j, pj)) (he : jobEnded j pj = false) (hk : fieldAt f.payload 2 1 = 1)
    (hz : digestZeros f.payload = true) : s.digestIn lane f = s.shardDigest lane f j pj := by
  unfold State.digestIn
  simp only [hl, ho, he, hk, hz, if_true, Bool.not_true, Bool.or_self, Bool.false_eq_true, if_false]

theorem digestFrame_runs {s : State} {lane : DevLane} {f : RxFrame} {fr : Frame} (hr : s.Receives lane f [opDigest] fr) :
    exec (.digestFrame lane f) s = .next ((s.landed lane f fr).digestIn lane fr) := by
  obtain ⟨x, hl, hx, -, hw, hin⟩ := State.frameIn_receives hr
  have hop : x.frame.hdr.op = opDigest := by rw [hx]; simpa using hr.2.2.2.1
  refine hin.trans ?_
  rw [State.handle_eq_handleBy _ hw, State.handleBy_digest _ hop, hl, hx]

end Sys2Proof.Machine

section
open Sys2Proof Sys2Proof.Machine

/-- Settles O28: two digests vote at once, a digest alone votes at the timeout, and a majority among the members is the largest set. -/
theorem digestsAreCompared : Obligations.DigestsAreCompared := by
  refine ⟨⟨?_, ?_⟩, ?_⟩
  · intro lane f fr j pj h d s hr hl k u b dev ho hid he hk hz hh hrole hhalt hreb hv hgood hne hg hd
    have hgood' (x : Nat) : x ∈ u.goodCopies j b h ↔ x = s.bidx ∨ x = dev := by
      rw [State.goodCopies_congr (s.landed_bidx lane f fr) rfl]
      obtain hgood | hgood := hgood <;> rw [hgood] <;> simp [or_comm]
    have hpeer : u.isPeer lane = true := by rw [State.isPeer, State.landed_farDev]; exact hl
    have hrun := digestFrame_runs hr
    rw [State.digestIn_shard hpeer ho he hk hz,
      State.shardDigest_takes rfl (s.landed_farDev lane f fr lane) hg hh hrole hhalt hv ((hgood' dev).2 (.inr rfl))] at hrun
    have hvote := u.secondDigest_votes (k := k) (e := slice fr.payload 0x18 16) (hid ▸ State.openOn_findJob ho)
      (hid ▸ State.openOn_pjob ho) hh hrole hhalt hreb hv hd hne hgood'
    refine ⟨_, hrun, ?_⟩
    by_cases hs : slice fr.payload 0x18 16 = d
    · obtain ⟨⟨pj', h', hvoted⟩, hrep⟩ := hvote.agree hs
      exact ⟨pj', h', hvoted.pjob, hvoted.share, hvoted.counts.1, fun _ => ⟨hvoted.halts, hrep⟩, fun hn => absurd hs hn⟩
    · obtain ⟨⟨pj', h', hvoted⟩, hrep⟩ := hvote.differ hs
      exact ⟨pj', h', hvoted.pjob, hvoted.share, hvoted.counts.1, fun he => absurd he hs, fun _ => ⟨hvoted.halts, hrep⟩⟩
  · intro k id b j pj h d s ho he hh hrole hhalt hreb hv hd
    refine (digestCompareTimeout_counts ho he hh hrole hhalt hreb hv hd).imp fun t ⟨pj', h', hvote⟩ => ?_
    exact ⟨pj', State.findJob_id (State.openOn_findJob ho) ▸ hvote.pjob, hvote.counts.2, hvote.counts.1⟩
  · intro k id j pj d s ho he hker hdigk hstep hdue hjudge hplane hg hk hsent agree pay
    have hjud : s.Judges k id j pj := ⟨ho, he, hker, hdigk, hstep, hdue, hjudge, hplane, hsent⟩
    refine ⟨fun hmaj => ?_, fun htwo hdiff => ?_⟩ <;>
      refine (memberDigestJudge_reports hjud).imp fun t ⟨r, hr, hop, hid, hpl⟩ => ⟨r, hr, hop, hid, hpl.trans ?_⟩
    · obtain ⟨hm, hout⟩ := PJob.judge_majority hk (fun x hx => (hsent x hx).1) hg hmaj
      simp only [hm, decide_true, if_true, hout, Bool.toNat_true]
      rfl
    · have hone := largestSet_length_le (ds := pj.digests) (by rw [PJob.digests, List.map_map]; exact hdiff)
      have hm : ¬pj.group.length < 2 * (largestSet pj.digests).length := by omega
      simp only [hm, decide_false, Bool.false_eq_true, if_false, Bool.toNat_false]
      rfl

end
